-- ==== Sys2Proof/Word.lean ====
section
/-! DEFINITION. The widths the manual gives its data (00 "Numbers, sizes and bit positions", R8, R20). -/

namespace Sys2Proof

/-- Eight bits of memory. -/
abbrev Byte := BitVec 8

/-- A register (R364). -/
abbrev W32 := BitVec 32

/-- A quadword. -/
abbrev W64 := BitVec 64

/-- The native data unit of every internal path (R20). -/
abbrev Word36 := BitVec 36

/-- One beat of an M port, 128 bytes, byte 0 in the lowest bits (R8, R41). -/
abbrev MemBeat := BitVec 1024

end Sys2Proof
end

