-- ==== Sys2Proof/Syntax.lean ====
section
/-! DEFINITION. The commands of the block: one constructor per row of spec/opcode_table.json, with the operands that
the happening carries in from outside. Which operands a row has is this model's choice (assumption 1): the table gives
no fields. -/

namespace Sys2Proof

/-- An AXI4 response (R41, R299). -/
inductive Resp where
  | okay | slverr | decerr | exokay
  deriving DecidableEq, Repr

/-- A crucible word that a read finds faulty (R189, R213, R214): the address read, the address that it was stored
under, and which of its 44 stored bits have turned over. -/
structure CruFault where
  addr : BitVec 22
  stored : BitVec 22
  flips : BitVec 44
  deriving DecidableEq, Repr

/-- A word of a context memory (R282): channel contexts and ring states, with the channels whose state it holds; a link
of a stream FIFO; a Cullet cache; Xezan sequence states, with the channels whose state it holds. -/
inductive CtxWord where
  | channels (pchs : List Nat)
  | link (port : Nat)
  | cullet
  | xezan (pchs : List Nat)
  deriving DecidableEq, Repr

/-- A context word that a read finds faulty (R282): corrected, or uncorrectable. -/
structure CtxFault where
  word : CtxWord
  uncorrectable : Bool
  deriving DecidableEq, Repr

/-- The faulty words that the block reads at an edge: of the crucible, and of its context memories. -/
structure Faulty where
  found : List CruFault := []
  ctx : List CtxFault := []
  deriving DecidableEq, Repr

/-- An R beat, with the faulty words that the block reads at its edge. -/
structure ReadBeat where
  data : MemBeat
  faulty : Faulty := {}
  deriving DecidableEq, Repr

/-- A lane direction (R137: one scheduler per direction). -/
inductive Dir where
  | read | write
  deriving DecidableEq, Repr

/-- An address handshake of a port: its direction, and whether the two addresses computed for its burst differ (R280). -/
structure Handshake where
  dir : Dir
  addrFault : Bool := false
  deriving DecidableEq, Repr

/-- One beat of a stream port (R48, R49). -/
structure StreamBeat where
  data : BitVec 144
  last : Bool
  user : BitVec 5
  deriving DecidableEq, Repr

/-- The contents of one boot-flash slot (Tables 13-11 and 13-12): the bytes from offset 0 and those of the activation
record, as far as they are programmed; erased flash beyond them reads 0xFF. -/
structure FlashSlot where
  image : List Byte := []
  recordBytes : List Byte := []
  deriving DecidableEq, Repr

/-- The boot flash, slot A and slot B. -/
structure BootFlash where
  slotA : FlashSlot := {}
  slotB : FlashSlot := {}
  deriving DecidableEq, Repr

/-- What SFDP declares of the flash (R63), with the frequency of gclk in kHz that the Gaffer divides (R336). -/
structure Sfdp where
  quad : Bool
  addr4 : Bool
  gclkKhz : Nat
  deriving DecidableEq, Repr

/-- An edge of a clock of which the table has no row: TCK with TMS and TDI, TRST_N low, WRCK with the wrapper's controls
and WSI, WRSTN low, tclk with the TIME pins, refclk (R59, R62, R64, R65; assumption 94). -/
inductive PinEdge where
  | tck (tms tdi : Bool)
  | trst
  | wrck (selectWir capture shift update wsi : Bool)
  | wrst
  | tclk (ns : W64) (valid : Bool)
  | refclk
  deriving DecidableEq, Repr

/-- The commands. Register-port rows carry the write strobe `strb` (R39) and, where the register lies in the
administrative window, PPROT (R40). Mailbox rows carry the mailbox that holds the request, 16 being the
administrative one. -/
inductive Instr where
  | registerWrite (addr : BitVec 22) (data : W32) (strb : BitVec 4) (prot : BitVec 3)
  | apbHoleAccess (addr : BitVec 22) (write : Bool)
  | timeSnapshot (win : Nat) (prot : BitVec 3)
  | sCauseClear (data : W32) (strb : BitVec 4) (prot : BitVec 3)
  | haltSeenClear (fn slot : Nat) (strb : BitVec 4)
  | doorbell (fn slot : Nat) (data : W32) (strb : BitVec 4)
  | pushAreaWrite (fn slot word : Nat) (data : W32) (strb : BitVec 4)
  | pushCommit (fn slot : Nat) (data : W32) (strb : BitVec 4)
  | crHeadWrite (fn ring : Nat) (data : W32) (strb : BitVec 4)
  | sigRaise (fn : Nat) (sig : BitVec 8) (strb : BitVec 4)
  | spFlush (fn : Nat) (port : BitVec 6) (strb : BitVec 4)
  | inboundFlushEdge (port : Nat)
  | outboundFlushEdge (port : Nat)
  | restart (fn : Nat) (strb : BitVec 4)
  | go (fn slot : Nat) (circ : Bool) (strb : BitVec 4)
  | lehr (fn slot : Nat) (circ : Bool) (strb : BitVec 4)
  | abort (fn slot : Nat) (circ : Bool) (strb : BitVec 4)
  | resume (fn slot : Nat) (circ : Bool) (strb : BitVec 4)
  | gobShare (fn : Nat) (slot : BitVec 7) (toFn : BitVec 4) (strb : BitVec 4)
  | gobRelease (fn : Nat) (strb : BitVec 4)
  | gobFree (fn : Nat) (slot : BitVec 7) (strb : BitVec 4)
  | gobBadOp (fn : Nat) (data : W32) (strb : BitVec 4)
  | gobOpDone (fn : Nat)
  | forceFree (handle : W32) (strb : BitVec 4) (prot : BitVec 3)
  | forceFreeApply (gob : Nat)
  | fetchResult (pch : Nat) (beats : List MemBeat) (resp : Resp)
  | reReadReady (pch : Nat)
  | descriptorStart (pch : Nat) (ctx : List CtxFault)
  | schedulerGrant (bench : Nat) (dir : Dir) (pick : Nat) (addrFault : Bool) (faulty : Faulty)
  | addressStateScan (bench : Nat) (mismatch : Bool)
  | readResponse (port : Nat) (axid : BitVec 8) (beat : ReadBeat) (resp : Resp)
  | writeResponse (port : Nat) (axid : BitVec 8) (resp : Resp)
  | reheat (txn : Nat)
  | descriptorComplete (pch : Nat)
  | coalTimeExpiry (pch : Nat)
  | recordAllocate (pch : Nat)
  | completionWriteResponse (port : Nat) (axid : BitVec 8) (resp : Resp)
  | msiTimeExpiry (vec : Nat)
  | trigOutPulse (n : Nat)
  | lehrStopComplete (pch : Nat)
  | abortComplete (pch : Nat)
  | channelHalt (pch : Nat)
  | passStart (pch : Nat)
  | passComplete (pch : Nat)
  | timerFire (timer : Nat)
  | trigIn (n : Nat)
  | timeSample (value : W64) (valid : Bool)
  | timeStall
  | timeStallWithdrawn
  | staleEdge (pch : Nat)
  | packetRelease (port : Nat)
  | segmentCheck (pch idx seg : Nat) (readFlip writeFlip : W32)
  | stallWatchdogFire (pch : Nat)
  | clockLoss (domain : Nat)
  | refclkLoss
  | lockstepMismatch
  | safeAck (level : Bool)
  | scrubCell (ctx : List CtxFault) (found : List CruFault)
  | scrubRewrite (bank : Nat) (written : Bool)
  | inboundBeatAccept (port : Nat) (beat : StreamBeat)
  | inboundBeatPop (port : Nat)
  | outboundBeatAccept (port : Nat) (found : List CruFault)
  | gobGrant
  | gobWaitExpiry (pch : Nat)
  | chainCommit (pch : Nat)
  | handleResolve (pch : Nat) (ctx : List CtxFault)
  | gobMemberFreed (gob : Nat) (ctx : List CtxFault)
  | freeStackSpill
  | freeStackFill
  | sweepRecord (record head : List CtxFault)
  | xezanPlaceGrant (found : List CruFault)
  | xezanFrameSent (port : Nat)
  | xezanRequestReceive (port : Nat) (frame : List Byte) (linkError space : Bool)
  | xezanRequestTurn (peer chan : Nat)
  | xezanHoldTimeout (peer chan : Nat)
  | xezanResponseSend (port : Nat) (job : Nat) (found : List CruFault)
  | xezanResponseArrival (port : Nat) (frame : List Byte) (linkError : Bool)
  | xezanRequestTimeout (req : Nat)
  | coldReset
  | warmResetPin
  | debugReset
  | resetRelease
  | domainRelease (domain : Nat)
  | optWordRead (word : W32)
  | optAckTimeout
  | crucibleFillDone
  | gafferBootDone (sramOk : Bool) (sfdp : Sfdp) (flash : BootFlash)
  | gafferWatchdog
  | resetDone (fn : Nat)
  | benchResetDone (bench : Nat)
  | thermalSample (sensor : Nat) (value : BitVec 16)
  | droopExcursion (sensor : Nat) (millivolts : Nat)
  | sensorFault (sensor : Nat)
  | clockFreqMeasure (domain khz : Nat)
  | getInfo (mb : Nat)
  | unknownCommand (mb : Nat)
  | funcEnable (mb : Nat)
  | funcDisable (mb : Nat)
  | chanAssign (mb : Nat)
  | chanUnassign (mb : Nat)
  | chanConfig (mb : Nat)
  | ringBind (mb : Nat)
  | cplRingBind (mb : Nat)
  | streamConfig (mb : Nat)
  | streamRevoke (mb : Nat)
  | wmSet (mb : Nat)
  | quotaSet (mb : Nat)
  | poolModeFcfs (mb : Nat)
  | poolModeQuota (mb : Nat)
  | poolModeInit (mb : Nat)
  | timerSet (mb : Nat)
  | timerRead (mb : Nat)
  | timerGrant (mb : Nat)
  | timerRevoke (mb : Nat)
  | trigGrant (mb : Nat)
  | trigRevoke (mb : Nat)
  | eventRoute (mb : Nat)
  | eventVector (mb : Nat)
  | eventGrant (mb : Nat)
  | eventRevoke (mb : Nat)
  | xezanWindow (mb : Nat)
  | xezanWindowUnbind (mb : Nat)
  | xezanPeer (mb : Nat)
  | xezanPeerUnbind (mb : Nat)
  | freshSet (mb : Nat)
  | safetyConfig (mb : Nat)
  | sensorRead (mb : Nat)
  | sensorSet (mb : Nat)
  | sensorClear (mb : Nat)
  | logRead (mb : Nat)
  | fwStageBegin (mb : Nat)
  | fwStageData (mb : Nat)
  | fwStageEnd (mb : Nat)
  | fwStageCancel (mb : Nat)
  | flashOperationDone
  | fwActivate (mb : Nat)
  | fwActivateLoadDone (ok : Bool)
  | fwActivatePause
  | fwActivateResume (micros : Nat)
  | fwActivateTimeout (micros : Nat)
  | fwActivateRecord
  | funcReset (mb : Nat)
  | benchReset (mb : Nat)
  | warmReset (mb : Nat)
  | addressHandshake (port : Nat) (shake : Handshake)
  | registerRead (addr : BitVec 22) (prot : BitVec 3)
  | droopExcursionEnd (sensor : Nat) (millivolts : Nat)
  deriving DecidableEq, Repr

end Sys2Proof
end

