-- ==== Sys2Proof/Config.lean ====
section
/-! DEFINITION. What a member of the family fixes at synthesis (R22, R367, R380), and the values the manual leaves
free. -/

namespace Sys2Proof

/-- The family parameters of Table 1-2 with the member code of R380. They are constants of one part: a field of State
holds them, no command changes them. -/
structure Member where
  benches : Nat
  chPerBench : Nat
  functions : Nat
  mPorts : Nat
  spPerBench : Nat
  crucibleLog2 : Nat
  gobBits : Nat
  xezanPorts : Nat
  safetyFull : Bool
  code : BitVec 16
  deriving DecidableEq, Repr

/-- The VN-128 (Tables 1-2 and 14-14; assumption 7). -/
def Member.vn128 : Member :=
  { benches := 8, chPerBench := 16, functions := 16, mPorts := 8, spPerBench := 8, crucibleLog2 := 22,
    gobBits := 27, xezanPorts := 2, safetyFull := true, code := 0x0128 }

/-- The VN-16B (Tables 1-2 and 14-14), a BASIC member without Cullet and Xezan. -/
def Member.vn16b : Member :=
  { benches := 2, chPerBench := 8, functions := 2, mPorts := 2, spPerBench := 4, crucibleLog2 := 18,
    gobBits := 0, xezanPorts := 0, safetyFull := false, code := 0x0016 }

/-- The legal values of Table 1-2 (R22). -/
def Member.legal (m : Member) : Bool :=
  decide (1 ≤ m.benches ∧ m.benches ≤ 8) && decide (2 ≤ m.chPerBench ∧ m.chPerBench ≤ 16)
    && decide (1 ≤ m.functions ∧ m.functions ≤ 16) && decide (1 ≤ m.mPorts ∧ m.mPorts ≤ 8)
    && decide (m.spPerBench ≤ 8) && decide (16 ≤ m.crucibleLog2 ∧ m.crucibleLog2 ≤ 22)
    && decide (m.gobBits = 0 ∨ (16 ≤ m.gobBits ∧ m.gobBits ≤ 27)) && decide (m.xezanPorts ≤ 2)
    && decide (m.code ≠ 0)

/-- The dual-clock queues of Table 2-3, the request queue once per direction. -/
inductive Queue where
  | registerWrite | statusShadow | memoryRequest | memoryReadResponse | memoryWriteResponse | streamInbound
  | streamOutbound | streamControl | xezan | time | gaffer
  deriving DecidableEq, Repr

/-- Entries of a queue (R37). Entries of the queues that one command fills and empties again never wait, and their depth
bounds nothing here (assumption 105). -/
@[simp] def Queue.depth : Queue → Nat
  | .registerWrite => 16
  | .statusShadow => 64
  | .memoryRequest => 64
  | .memoryReadResponse => 128
  | .memoryWriteResponse => 64
  | .streamInbound => 32
  | .streamOutbound => 32
  | .streamControl => 4
  | .xezan => 64
  | .time => 4
  | .gaffer => 16

/-- Instructions of the test access port (R64): BYPASS, IDCODE, the private debug instructions, and the two that are
decoded as BYPASS. -/
inductive TapInstr where
  | bypass | idcode | debug | samplePreload | extest
  deriving DecidableEq, Repr

/-- Instructions of the wrapper (R65). -/
inductive WrapInstr where
  | bypass | extest | intest | selfTest
  deriving DecidableEq, Repr

namespace Config

/-- Whether a firmware image's DIGEST field is the SHA-384 of its body (Table 13-11). The manual names the hash by its
standard only; the outcome is a free value (assumption 4). -/
opaque digestMatches : List Byte → Bool

/-- Whether a firmware image's SIGNATURE verifies under the boot ROM's key (Table 13-11). The manual gives no key; the
outcome is a free value (assumption 4). -/
opaque signatureVerifies : List Byte → Bool

/-- The crucible cell that holder `h` takes as its `n`-th: a stream port by its number, the lane pool of bench b as
64 + b, its drain cells as 72 + b. The manual does not say which free cell a holder takes: a free value (assumption
11). -/
opaque cellOf : Nat → Nat → BitVec 16

/-- The 8 check bits of a crucible word over its 36 data bits and its address (R189). The manual gives no code; the check
bits are a free value (assumption 11). -/
opaque checkBits : BitVec 36 → BitVec 22 → BitVec 8

/-- Whether the n-th GO becomes visible in gclk at the edge of the one before it (R340): where the edges of hclk and gclk
fall is not fixed (R33); a free value (assumption 95). -/
opaque goTied : Nat → Bool

/-- Length and codes of the TAP's instruction register (R64), and what a private instruction's data register captures:
the manual gives none; free values (assumption 96). -/
opaque tapLength : Nat
opaque tapCode : List Bool → Option TapInstr
opaque tapPrivate : List Bool

/-- Length and codes of the wrapper's instruction register, and what its boundary register captures on the functional
ports, by the cclk edge (R65): the manual gives none; free values (assumption 96). -/
opaque wrapLength : Nat
opaque wrapCode : List Bool → Option WrapInstr
opaque wrapCapture : Nat → List Bool

end Config

end Sys2Proof
end

