-- ==== Sys2Proof/Machine/State.lean ====
section
/-! DEFINITION. The state of the block as plain data: every register, FIFO, queue, counter, mode and pin the manual
gives it, and the queue of waiting commands. Default field values are the values of a cold reset (R11, R317). -/

namespace Sys2Proof.Machine

/-- A sparse table by number: the entries that differ from the table's default, keys rising (assumption 8). -/
abbrev Tbl (α : Type) := List (Nat × α)

/-- No command of this block stops with a fault: every failure the manual names is a status, a halt, a count or an
event, which is a next state. -/
inductive Fault where
  deriving DecidableEq, Repr

/-- Why the model gives a command no meaning. -/
inductive Refusal where
  /-- Raised by a dispatch arm that has no meaning yet; safe, since nothing is claimed of the command. -/
  | notModelled (mnemonic : String)
  deriving DecidableEq, Repr

/-! ### The register port, time and option map -/

/-- The REG completer's outputs: the data of the last completed read, and PSLVERR of the last completed access (R39;
assumption 33). -/
structure Apb where
  prdata : W32 := 0
  pslverr : Bool := false
  /-- an access is in its access phase with PREADY low, because a reset or a lost clock holds hclk (R329) -/
  held : Bool := false
  deriving DecidableEq, Repr

/-- An entry of the register-write queue (R37, R311): a write, or an access refused on the APB side with its kind. -/
structure RegEntry where
  addr : Nat
  data : W32
  ign : Option Nat := none
  deriving DecidableEq, Repr

/-- Edges of cclk and of refclk that the model has reached (assumption 2). -/
structure Now where
  cclk : Nat := 0
  refclk : Nat := 0
  deriving DecidableEq, Repr

/-- A time snapshot of R368. -/
structure Snap where
  value : W64 := 0
  valid : Bool := false
  deriving DecidableEq, Repr

/-- The time input as the cclk domain sees it (R58, R59, R320, R369). -/
structure TimeIn where
  /-- the sampler's 4-bit Gray-coded advance count, and TIME_NS at the previous tclk edge with TIME_VALID high (R59) -/
  advance : BitVec 4 := 0
  advNs : Option W64 := none
  /-- the count at the last refclk edge, the two flops that carry it into refclk, and the synchronised count at the
  previous refclk edge -/
  atEdge : BitVec 4 := 0
  flop1 : BitVec 4 := 0
  flop2 : BitVec 4 := 0
  seen : BitVec 4 := 0
  /-- consecutive refclk edges, at most 8, at which the synchronised count has equalled its value at the edge before -/
  equal : Nat := 0
  tnow : W64 := 0
  /-- the last sample taken had TIME_VALID high -/
  lastValid : Bool := false
  /-- the checker's stalled level -/
  stalled : Bool := false
  /-- no valid sample has been taken since the last cold, warm or debug reset -/
  unset : Bool := true
  backsteps : Nat := 0
  snap : Snap := {}
  deriving DecidableEq, Repr

/-- G_OPT.REASON (Table 12-8). -/
inductive OptReason where
  | none | crc | timeout | content
  deriving DecidableEq, Repr

/-- The option shadow (R324, R327). -/
structure Opt where
  words : Tbl W32 := []
  loaded : Bool := false
  bad : Bool := false
  reason : OptReason := .none
  mfrId : BitVec 11 := 0
  debugLock : Bool := false
  pmapXor : Bool := false
  instanceId : Nat := 0
  pmap : List Nat := List.replicate 16 0
  fcxRst : BitVec 4 := 0
  flDiv : Nat := 0
  quadAllow : Bool := false
  deriving DecidableEq, Repr

/-- The reset controller and the readiness bits (R315 to R338). -/
structure Rst where
  /-- a cold reset is asserted and not released -/
  coldHeld : Bool := true
  /-- a warm or debug reset is asserted and not released -/
  warmHeld : Bool := false
  optLoading : Bool := false
  optNext : Nat := 0
  /-- OPT_REQ (R62) -/
  optReq : Bool := false
  /-- refclk and option load have released; domains count their stable cycles -/
  releasing : Bool := false
  stable : BitVec 9 := 0
  waiting : BitVec 9 := 0
  /-- G_RST_CAUSE.LAST -/
  last : Nat := 1
  warmCount : Nat := 0
  crucible : Bool := false
  gaffer : Bool := false
  gafferFail : Bool := false
  /-- the Gaffer's next boot is from flash (R336) -/
  needFlash : Bool := true
  /-- the failure of the option load is to be raised once the event logic runs (R327) -/
  optEvent : Bool := false
  /-- the release of cclk starts the sweep (R239) -/
  sweep : Bool := false
  /-- mclk or cclk has been lost since the last device reset (Table 12-3) -/
  memLost : Bool := false
  /-- domains whose clock a monitor has declared lost and not released again (R284, R322) -/
  lost : BitVec 9 := 0
  refLost : Bool := false
  deriving DecidableEq, Repr

/-! ### Descriptors and the work of a channel -/

/-- The eight quadwords of a descriptor (R99). -/
structure Desc where
  q0 : W64 := 0
  q1 : W64 := 0
  q2 : W64 := 0
  q3 : W64 := 0
  q4 : W64 := 0
  q5 : W64 := 0
  q6 : W64 := 0
  q7 : W64 := 0
  deriving DecidableEq, Repr

/-- An accepted entry that has not started (R78). -/
structure Entry where
  idx : Nat
  desc : Desc
  deriving DecidableEq, Repr

/-- Completion status (Table 4-10). -/
inductive Status where
  | ok | stopped | aborted | busError | remoteTimeout | crcMismatch | stale | gobExhausted
  | indexRange | windowDenied | stall | eccUncorrected
  deriving DecidableEq, Repr

/-- C_HALT_STAT.CAUSE (Table 11-8). -/
inductive Cause where
  | none | descriptor | fetch | cplWrite | addrState | function | pass | lehr | abort
  deriving DecidableEq, Repr

/-- A committed inbound packet (R200): its valid words, the word slots it fills (0 once all of them are released), the
position of the first in the FIFO, and the gap marker it carries. -/
structure Packet where
  words : List Word36 := []
  slots : Nat := 0
  pos : Nat := 0
  gap : Bool := false
  deriving DecidableEq, Repr

/-- One gob of a chain that a piece of work reads or builds: index and data bytes. -/
structure ChainGob where
  gob : Nat
  bytes : Nat
  deriving DecidableEq, Repr

/-- Where a chain handle stands for a piece of work (R231, R229). -/
inductive ChainPhase where
  /-- the work uses no chain -/
  | none
  /-- a source or hand-over handle, not resolved yet -/
  | unresolved
  | resolved
  /-- a chain being built: waiting for its next gob -/
  | requesting
  | building
  /-- the last data is acknowledged and the head record is being rewritten HEAD -/
  | committing
  | committed
  deriving DecidableEq, Repr

/-- Source bytes that wait in the crucible: their virtual offset in the source, the words they bring, and the cells of
the lane pool or of the drain set (or the word slots of an outbound FIFO) that these hold (R194, R195). -/
structure Seg where
  off : Nat
  bytes : List Byte
  space : Nat := 0
  drain : Bool := false
  /-- first word touched, first word whose first bit lies here, and the word after the last -/
  touch : Nat := 0
  first : Nat := 0
  last : Nat := 0
  /-- number of the first cell, counted over the cells that the holder has taken -/
  cell : Nat := 0
  deriving DecidableEq, Repr

/-- A started descriptor, or the direct-mode pass in progress (R158, R295). -/
structure Work where
  /-- names this start for the transactions and requests that it makes -/
  serial : Nat
  /-- index value of the ring entry; 0 for a pass -/
  idx : Nat
  desc : Desc
  pass : Bool := false
  /-- the status of R302 or R165 once decided -/
  verdict : Option Status := none
  /-- R303: an abandoned descriptor -/
  abandoned : Bool := false
  /-- a started WAIT_TRIG waits on its gate (R153, R154) -/
  armed : Bool := false
  /-- order of arming among waiters (R154) -/
  armedAt : Nat := 0
  /-- a control opcode's own action is done -/
  acted : Bool := false
  /-- table entries decoded so far, in order (Tables 4-8, 4-9) -/
  entries : List (BitVec 128) := []
  /-- bytes of the table requested so far -/
  tablePos : Nat := 0
  /-- table bytes returned and not yet decoded: offset in the table, bytes -/
  tableRaw : List (Nat × List Byte) := []
  /-- the fragment table has ended at an entry with LAST (R120) -/
  tableEnd : Bool := false
  /-- source cursor: extent number and bytes of it already formed into bursts -/
  rdExt : Nat := 0
  rdPos : Nat := 0
  /-- source bytes formed into bursts so far -/
  rdV : Nat := 0
  /-- destination cursor -/
  wrExt : Nat := 0
  wrPos : Nat := 0
  /-- source bytes in the crucible -/
  landed : List Seg := []
  /-- the inbound packet given to this work -/
  pkt : Option Packet := none
  /-- delivery-order data bits taken into bursts or beats so far, and the CRC register over them (R134, R276) -/
  crcBits : Nat := 0
  crcReg : W32 := 0xFFFFFFFF
  /-- delivery-order bit ranges delivered (R136) -/
  delivered : List (Nat × Nat) := []
  halfRaised : Bool := false
  /-- segments whose check edge has passed (R278) -/
  segOk : Nat := 0
  /-- words written into the outbound queue so far -/
  outWords : Nat := 0
  /-- CRC_MISMATCH was decided by the comparison with EXPECT_CRC (R134) -/
  expectFailed : Bool := false
  /-- the stale edge has fallen (R270) -/
  staleDone : Bool := false
  /-- read-side CRC of each segment as it gathers, and write-side CRC register of each segment (R277) -/
  segRead : Tbl W32 := []
  segWrite : Tbl W32 := []
  chain : ChainPhase := .none
  gobs : List ChainGob := []
  /-- head gob of the chain with its generation, and the pin of R232 -/
  headGob : Nat := 0
  headGen : Nat := 0
  pinned : Bool := false
  /-- the head record as a resolve has read it; the inner `none` where the read has failed (R231) -/
  headRec : Option (Option (BitVec 128)) := none
  /-- the next member of the chain that is read, not read yet -/
  nextGob : Option Nat := none
  /-- data bits that the chain read can supply, when it cannot supply the whole transfer (R115, R231) -/
  clip : Option Nat := none
  /-- STREAM_IN_GOB: the result block's write (R123): 0 not issued, 1 outstanding, 2 acknowledged -/
  result : Nat := 0
  /-- remote: what R244 resolved (entry, remote function, port, retry limit), and frames formed so far -/
  peer : Nat := 0
  remoteFn : Nat := 0
  peerPort : Nat := 0
  peerRetry : Nat := 0
  frames : Nat := 0
  deriving DecidableEq, Repr

/-- A completion that its completion write has not reported yet (R87, R88, R94). -/
structure Report where
  /-- index value of the descriptor -/
  idx : Nat
  status : Status
  residue : Nat
  crc : W32
  /-- HALF and DONE and signals that R94 raises with the response: INT_FULL, SIGNAL_ON_DONE's signal -/
  done : Bool
  signal : Option Nat
  /-- LEHR, ABORT: the response loads the registers of R167 and raises STOPPED or ABORTED; FUNCTION: it raises
  ABORTED; DESCRIPTOR: the write was issued for a halt (R307) -/
  loads : Option Cause
  deriving DecidableEq, Repr

/-- C_STATE.STATE (Table 5-7). -/
inductive ChState where
  | idle | running | stopping | aborting | stopped | halted
  deriving DecidableEq, Repr

/-- The slot configuration that CHAN_CONFIG sets (R347, Tables 5-7, 3-8). -/
structure ChanCfg where
  ringMode : Bool := false
  cplRingMode : Bool := false
  cplCoherent : Bool := false
  cplRing : Nat := 0
  ceiling : Nat := 0
  weight : Nat := 1
  burst : Nat := 1
  maxOut : Nat := 32
  coalCount : Nat := 1
  coalTime : Nat := 0
  /-- 0 none, 1 timer, 2 TRIG_IN, 3 signal -/
  paceSrc : Nat := 0
  paceNum : Nat := 0
  paceDepth : Nat := 1
  cplAddr : Nat := 0
  deriving DecidableEq, Repr

/-- Ring state (Tables 3-7 to 3-9, R79, R81). -/
structure Ring where
  bound : Bool := false
  order : Nat := 0
  coherent : Bool := false
  base : Nat := 0
  t : Nat := 0
  f : Nat := 0
  h : Nat := 0
  parked : Bool := false
  retries : Nat := 0
  /-- the next read of F is a re-read, which counts -/
  again : Bool := false
  staleSeen : Bool := false
  parkCount : Nat := 0
  /-- a not-yet-visible result waits for its re-read: the cclk edge at which the re-read becomes ready (R79) -/
  reReadAt : Option Nat := none
  /-- the read covering F that is in flight was followed by a doorbell (R81, second row) -/
  forced : Bool := false
  /-- accepted entries not started, oldest first -/
  accepted : List Entry := []
  deriving DecidableEq, Repr

/-- The direct-mode registers (Table 5-7). -/
structure Direct where
  src : W64 := 0
  dst : W64 := 0
  len : W32 := 0
  layout : BitVec 8 := 0
  circ : Bool := false
  /-- a pass is due: its start waits for nothing but a credit (R159) -/
  due : Bool := false
  /-- the due pass is the first after its GO -/
  first : Bool := false
  deriving DecidableEq, Repr

/-- A halt point that is not a started descriptor (R305, R307): what the halt edge loads. -/
structure HaltPoint where
  cause : Cause
  status : Status
  /-- index value -/
  idx : Nat
  residue : Nat := 0
  crc : W32 := 0
  /-- the halt edge writes a completion for it (R305: not for an address-state halt, R307: not for a lost one) -/
  record : Bool := true
  deriving DecidableEq, Repr

/-- The halt-status registers (Table 11-8). -/
structure HaltRegs where
  pending : Bool := false
  haltSeen : Bool := false
  stopSeen : Bool := false
  cause : Cause := .none
  status : Status := .ok
  halts : Nat := 0
  /-- C_HALT_IDX, in the layout of Table 3-9 -/
  idx : Nat := 0
  residue : Nat := 0
  crc : W32 := 0
  reheats : Nat := 0
  exhausted : Nat := 0
  /-- halt point without a started descriptor -/
  point : Option HaltPoint := none
  /-- R309: this channel's abort ends in HALTED with cause FUNCTION -/
  byFunction : Bool := false
  deriving DecidableEq, Repr

/-- Freshness: the bound and lead of the PCH, and the slot's record (Table 10-5). -/
structure FreshRegs where
  /-- 0 none, 1 AGE, 2 FUTURE, 3 TIME_INVALID, 4 NO_BOUND -/
  cause : Nat := 0
  negative : Bool := false
  staleSeen : Bool := false
  staleCount : Nat := 0
  age : W32 := 0
  deriving DecidableEq, Repr

/-- Completion reporting of a channel. -/
structure CplState where
  /-- completions since the last index write (R87) -/
  uncovered : Nat := 0
  deadline : Option Nat := none
  /-- an index write is due at once -/
  due : Bool := false
  /-- reports in ring order: RING-mode records to allocate, INDEX-mode completions no write has covered yet -/
  queue : List Report := []
  /-- the completion write outstanding: reports it covers and the index value or record it carries -/
  flying : List Report := []
  flyingIdx : Nat := 0
  /-- producer value of the record outstanding; none when its ring has been bound again since (R347) -/
  flyingSlot : Option Nat := none
  outstanding : Bool := false
  /-- the first record of `queue` waits on a full ring (R91) -/
  waiting : Bool := false
  deriving DecidableEq, Repr

/-- A physical channel with the slot registers it is mapped to (R366). -/
structure Chan where
  owner : Option (Nat × Nat) := none
  state : ChState := .idle
  stopKind : Bool := false
  /-- STOP_WRAP and STOP_INDEX, in the layout of Table 3-9 -/
  stopIdx : Nat := 0
  lastStatus : Status := .ok
  cfg : ChanCfg := {}
  ring : Ring := {}
  push : Tbl W32 := []
  pushUsed : Nat := 0
  pushMissed : Nat := 0
  direct : Direct := {}
  credit : Nat := 0
  dropped : Nat := 0
  /-- the next start waits for a signal credit since this order number (R154) -/
  wantsSignal : Option Nat := none
  evt : BitVec 8 := 0
  halt : HaltRegs := {}
  ageBound : W32 := 0
  leadLimit : W32 := 0
  fresh : FreshRegs := {}
  started : List Work := []
  cpl : CplState := {}
  /-- stall watchdog: refclk count of its last start or restart (R283) -/
  watch : Option Nat := none
  /-- end of a GOB_WAIT (R228) -/
  gobWait : Option Nat := none
  deriving DecidableEq, Repr

/-! ### Functions -/

/-- A completion ring (Table 3-10, R91). -/
structure CplRing where
  bound : Bool := false
  order : Nat := 0
  coherent : Bool := false
  base : Nat := 0
  /-- C, the consumer value -/
  head : Nat := 0
  /-- P, the producer value -/
  producer : Nat := 0
  /-- CR_TAIL -/
  tail : Nat := 0
  /-- producer values at or above `tail` whose writes are acknowledged -/
  acked : List Nat := []
  fullSeen : Bool := false
  waitCount : Nat := 0
  /-- a record has found the ring full since it was last not full (R92) -/
  episode : Bool := false
  deriving DecidableEq, Repr

/-- A Xezan window of a function (R257). -/
structure Window where
  pages : Nat := 0
  base : Nat := 0
  read : Bool := false
  write : Bool := false
  coherent : Bool := false
  sigEn : Bool := false
  sigId : Nat := 0
  token : W32 := 0
  deriving DecidableEq, Repr

/-- A function partition. -/
structure Fn where
  enabled : Bool := false
  ready : Bool := false
  resetting : Bool := false
  halted : Bool := false
  haltSeen : Bool := false
  /-- F_STATUS.DRAINED (R309) -/
  drained : Bool := false
  malformedCount : Nat := 0
  haltSlot : Nat := 0
  haltCond : Nat := 0
  haltOpcode : BitVec 8 := 0
  /-- F_HALT_IDX, in the layout of Table 3-9 -/
  haltIdx : Nat := 0
  ignored : Nat := 0
  ignOffset : Nat := 0
  ignKind : Nat := 0
  evt : BitVec 8 := 0
  sigCnt : Tbl Nat := []
  sigOvf : Nat := 0
  msiMask : BitVec 128 := BitVec.allOnes 128
  snap : Snap := {}
  gobHandle : W32 := 0
  gobBusy : Bool := false
  gobDone : Bool := false
  gobResult : Nat := 0
  /-- gob whose head record the operation in progress rewrites -/
  gobTarget : Nat := 0
  charge : Nat := 0
  reserve : Nat := 0
  ceiling : Nat := 0
  lowMark : Nat := 0
  gobWait : Nat := 0
  rings : Tbl CplRing := []
  windows : Tbl Window := []
  deriving DecidableEq, Repr

/-- What a taken mailbox command waits for before its reply (R340). -/
inductive MbWait where
  | none | resetDone (fn : Nat) | bench (b : Nat) | flash | activation
  /-- what it waited for has come while gclk was lost (Table 12-3) -/
  | ended
  deriving DecidableEq, Repr

/-- The replay store of a mailbox (R343). -/
structure Replay where
  code : BitVec 16
  seq : BitVec 16
  reply : List Byte
  /-- the reply exists; false while the applied command still waits for it -/
  ready : Bool
  /-- what an applied command whose reply does not exist yet waits for -/
  waits : MbWait := .none
  deriving DecidableEq, Repr

/-- A mailbox (Table 13-2). MB_DATA is held as 64 words. -/
structure Mailbox where
  data : Tbl W32 := []
  code : BitVec 16 := 0
  seq : BitVec 16 := 0
  busy : Bool := false
  done : Bool := false
  applied : Bool := false
  replay : Bool := false
  status : BitVec 8 := 0
  seqEcho : BitVec 16 := 0
  len : Nat := 0
  wait : MbWait := .none
  /-- the command that waits is a repetition of one already applied -/
  again : Bool := false
  store : Option Replay := none
  deriving DecidableEq, Repr

/-! ### Events and pacing -/

/-- The target of an event source (R171). A vector is a device vector number. -/
inductive Route where
  | none | int (w : Nat) | vector (v : Nat) | trigOut (n : Nat) | signal (fn s : Nat)
  deriving DecidableEq, Repr

/-- A message vector (R172). The mask bit is the owning function's F_MSI_MASK bit, or `mask` while the administrator
holds the vector. `raises` are the raises that no write covers. -/
structure Vec where
  addr : Nat := 0
  data : W32 := 0
  count : Nat := 1
  time : Nat := 0
  raises : Nat := 0
  /-- raises that the outstanding write covers -/
  covered : Nat := 0
  /-- the mask bit while the administrator holds the vector -/
  mask : Bool := true
  /-- cclk edge of the first of `raises` -/
  since : Option Nat := none
  outstanding : Bool := false
  admin : Bool := false
  deriving DecidableEq, Repr

/-- A pacing timer (R149). -/
structure Timer where
  holder : Option Nat := none
  start : Nat := 0
  period : Nat := 0
  next : Nat := 0
  missed : Nat := 0
  /-- it has been set and can fire -/
  armed : Bool := false
  /-- it has disarmed with PERIOD 0 (R350) -/
  spent : Bool := false
  deriving DecidableEq, Repr

/-- What a TRIG_OUT output is in: nothing, the 2 refclk cycles of a pulse, or the low time after it (R55). -/
inductive TrigPhase where
  | idle | high | low
  deriving DecidableEq, Repr

/-- A TRIG_OUT output (R55, R173): holder (16 the administrator), raises on their way into refclk, a pulse or its low
time, one pulse pending, merged raises. -/
structure TrigOut where
  holder : Option Nat := none
  queued : Nat := 0
  phase : TrigPhase := .idle
  pending : Bool := false
  merged : Nat := 0
  deriving DecidableEq, Repr

/-- Events, routes and pacing resources. -/
structure Events where
  /-- G_EVT0 to G_EVT2: bit n − 1408 for global source n (R371) -/
  glob : BitVec 68 := 0
  routes : Tbl Route := []
  /-- holder of each INT wire, 16 for the administrator -/
  ints : Tbl (Option Nat) := []
  trigIn : Tbl (Option Nat) := []
  trigOut : Tbl TrigOut := []
  timers : Tbl Timer := []
  vecs : Tbl Vec := []
  /-- next order number of a waiter (R154) -/
  order : Nat := 0
  deriving DecidableEq, Repr

/-! ### Bus and schedulers -/

/-- What a memory transaction is for. -/
inductive Purpose where
  | fetch (pch : Nat)
  | table (pch serial off : Nat)
  | dataRead (pch serial vlo len : Nat)
  | dataWrite (pch serial bitLo bitHi : Nat)
  | result (pch serial : Nat)
  | completion (pch : Nat)
  | msi (vec : Nat)
  | record (gob : Nat)
  | spill | fill
  /-- record reads (R220): a resolve's head, a read's member, a member of a freed chain, sweep reads, a head of the sweep -/
  | headRec (pch serial : Nat)
  | memberRec (pch serial gob : Nat)
  | walkRec (head : Nat)
  | sweep (pos : Nat)
  | sweepHead (gob : Nat)
  | xwrite (job : Nat)
  | xread (job off len : Nat)
  /-- left over from before a reset: its response is discarded (R330) -/
  | retired
  deriving DecidableEq, Repr

/-- Where a transaction stands. -/
inductive TxnPhase where
  | queued
  | issued
  /-- failed, and due to re-enter the queue at this cclk edge (R299) -/
  | reheat (due : Nat)
  /-- under the retirement logic of R330 -/
  | retiring
  deriving DecidableEq, Repr

/-- Where a read burst lands (R193, R194). -/
inductive Landing where
  | none | lane | drain | port (p : Nat)
  deriving DecidableEq, Repr

/-- A memory transaction of an M port (Table 2-4). -/
structure Txn where
  id : Nat
  port : Nat
  write : Bool
  purpose : Purpose
  /-- AxADDR, a multiple of 128, and the number of beats -/
  addr : Nat
  beats : Nat
  axid : BitVec 8
  qos : Nat
  user : BitVec 5
  coherent : Bool
  /-- first enabled byte address and the bytes written (R183: the enabled bytes are contiguous) -/
  wlo : Nat := 0
  wdata : List Byte := []
  /-- the bytes of interest of a read -/
  rlo : Nat := 0
  rlen : Nat := 0
  attempt : Nat := 0
  phase : TxnPhase := .queued
  /-- beats of this attempt received, oldest first, and whether one failed -/
  got : List MemBeat := []
  failed : Bool := false
  landing : Landing := .none
  /-- cells or words reserved, and the number of the first cell -/
  space : Nat := 0
  cell : Nat := 0
  /-- its owner has failed or been abandoned: read data is discarded, and it is not reheated -/
  dropped : Bool := false
  /-- abandoned by the stall watchdog: its response is discarded (R283) -/
  voided : Bool := false
  deriving DecidableEq, Repr

/-- Round-robin state of one class in one scheduler (R142). -/
structure ClassState where
  /-- beats granted in the window (R140) -/
  count : Nat := 0
  /-- channel index that held the last turn -/
  last : Nat := 15
  /-- a turn is running -/
  inTurn : Bool := false
  /-- bursts granted in the running turn -/
  used : Nat := 0
  /-- turns left in this round, by channel index; before the first round the WEIGHT after reset -/
  left : Tbl Nat := []
  deriving DecidableEq, Repr

/-- One scheduler: four classes, and the class of the last grant. -/
structure Sched where
  cls : Tbl ClassState := []
  lastCls : Option Nat := none
  deriving DecidableEq, Repr

/-- A bench: caps, schedulers, lane pool, drain cells, address scan (R140, R190 to R194, R281, R334). -/
structure Bench where
  capRd : W32 := 0xFFFF9F3F
  capWr : W32 := 0xFFFF9F3F
  rd : Sched := {}
  wr : Sched := {}
  laneRes : Nat := 1024
  laneLim : Nat := 4096
  laneCells : Nat := 0
  drainCells : Nat := 0
  /-- cells that its lane pool and drain set have taken so far -/
  taken : Nat := 0
  scan : Nat := 0
  /-- the 64 cycles of a bench reset run -/
  resetting : Bool := false
  deriving DecidableEq, Repr

/-! ### Stream ports and crucible -/

/-- A beat of an outbound FIFO: words, TLAST, the work it belongs to, its packet number within that work. -/
structure OutBeat where
  words : List Word36
  last : Bool
  serial : Nat
  pkt : Nat
  /-- the abort beat of R49 -/
  abort : Bool := false
  /-- first beat after a discard, under FULL_POLICY DROP (R210) -/
  gap : Bool := false
  deriving DecidableEq, Repr

/-- A stream port (Table 7-6 and the FIFO behind it). -/
structure Port where
  enable : Bool := false
  dirOut : Bool := false
  holder : Option Nat := none
  reserve : Nat := 0
  limit : Nat := 0
  highWm : Nat := 0
  lowWm : Nat := 0
  xoff : Bool := false
  full : Bool := false
  overrun : Bool := false
  wmHighSeen : Bool := false
  wmLowSeen : Bool := false
  gapSeen : Bool := false
  highCross : Nat := 0
  lowCross : Nat := 0
  badPkt : Nat := 0
  gaps : Nat := 0
  ovfWords : Nat := 0
  flushDropped : Nat := 0
  evt : BitVec 4 := 0
  /-- inbound dual-clock queue -/
  inq : List StreamBeat := []
  parison : List Word36 := []
  packets : List Packet := []
  /-- a gap marker waits for the next packet to be committed (R208) -/
  marker : Bool := false
  /-- the rest of a packet is refused (R207) -/
  refusing : Bool := false
  /-- beats are refused before the inbound queue until the end of their packet (R209) -/
  refusingIn : Bool := false
  /-- popped words are dropped until the end of the packet (R211) -/
  dropping : Bool := false
  /-- a flush waits for its edge, and the works that were taking a packet when it became visible: PCH and serial -/
  flushWait : Bool := false
  flushFor : List (Nat × Nat) := []
  /-- works waiting for a packet, in order of start (R198): PCH and serial -/
  takers : List (Nat × Nat) := []
  /-- positions of the next word slot and of the oldest one held, since the FIFO was last empty; slots between them
  released already -/
  tailPos : Nat := 0
  headPos : Nat := 0
  gone : List (Nat × Nat) := []
  /-- cells that the FIFO had taken when it was last empty -/
  cellBase : Nat := 0
  /-- outbound: the work that is landing a packet (R198): PCH, serial, and its bench -/
  claim : Option (Nat × Nat) := none
  /-- word slots reserved for landings, or filled by words not yet in the outbound queue -/
  reserved : Nat := 0
  outq : List OutBeat := []
  /-- the TLAST beat at (serial, packet) may be presented (R272) -/
  released : List (Nat × Nat) := []
  /-- a beat has been discarded by a flush since the last delivered one (R210) -/
  gapNext : Bool := false
  /-- the rest of a packet that a clock loss has cut is dropped (R322) -/
  cut : Bool := false
  deriving DecidableEq, Repr

/-- A scrub rewrite that waits for its bank's maintenance access (R215). -/
structure Rewrite where
  addr : BitVec 22
  /-- an uncorrectable word of a free cell is rewritten as zero (R214) -/
  zero : Bool
  /-- the block has written the word since the scrubber read it (R216) -/
  written : Bool := false
  deriving DecidableEq, Repr

/-- The crucible's shared registers (Table 7-7). -/
structure Crucible where
  ce : Tbl Nat := []
  ue : Tbl Nat := []
  scrub : Nat := 1024
  thresh : Nat := 16
  scrubCell : Nat := 0
  rewrites : List Rewrite := []
  deriving DecidableEq, Repr

/-! ### Cullet -/

/-- Record STATE (Table 8-2). -/
inductive GobState where
  | free | building | head | member
  deriving DecidableEq, Repr

/-- A gob record (Table 8-2), without CHECK, which is computed. -/
structure GobRec where
  next : Nat := 0
  last : Bool := false
  state : GobState := .free
  quar : Bool := false
  gen : Nat := 1
  /-- FILL: data bytes minus 1 -/
  fill : Nat := 0
  freerFn : Nat := 0
  freerSlot : Nat := 0
  allocFn : Nat := 0
  holdMask : BitVec 16 := 0
  head : Nat := 0
  headGen : Nat := 0
  deriving DecidableEq, Repr

/-- A chain on its way back to the pool (R236). -/
structure Freeing where
  head : Nat
  headGen : Nat
  allocFn : Nat
  /-- the member that the walk has reached; with none left the head comes -/
  cur : Option Nat
  /-- its FREE record is written -/
  freed : Bool := false
  /-- the members after it, of a chain returned without commit, which the Cullet knows; else NEXT leads to them -/
  known : Option (List Nat) := none
  /-- the member after it -/
  next : Option Nat := none
  deriving DecidableEq, Repr

/-- The gob manager (Tables 8-8, 8-9). -/
structure Cullet where
  poolBase : Nat := 0
  metaBase : Nat := 0
  stackBase : Nat := 0
  count : Nat := 0
  fresh : Nat := 0
  quota : Bool := false
  sweep : Bool := false
  sweepPos : Nat := 0
  /-- the sweep's end, and the next record that it will request -/
  sweepEnd : Nat := 0
  sweepNext : Nat := 0
  /-- sweep reads that have returned: first record and bytes, none where the read has failed -/
  sweepData : List (Nat × List Byte) := []
  /-- the head record that the sweep has read aside, and its cache of head records, newest first -/
  sweepHead : Option (Nat × Option (BitVec 128)) := none
  headCache : List (Nat × GobRec) := []
  /-- gobs whose records the Cullet has written since the sweep began -/
  since : List Nat := []
  premature : Nat := 0
  doubleFree : Nat := 0
  nonHolder : Nat := 0
  metaCheck : Nat := 0
  quar : Nat := 0
  exhausted : Nat := 0
  /-- the rotating grant's pointer (R227) -/
  pointer : Nat := 0
  /-- the free stack, top first; the first `onBlock` of it are cached on-block (R220) -/
  stack : List Nat := []
  onBlock : Nat := 0
  /-- gobs the Cullet never hands out until INIT (R224) -/
  quarantined : List Nat := []
  records : Tbl GobRec := []
  freeing : List Freeing := []
  /-- heads marked by CU_FORCE and not freed yet (R237) -/
  forced : List Nat := []
  deriving DecidableEq, Repr

/-! ### Xezan -/

/-- A peer entry (R243). -/
structure Peer where
  bound : Bool := false
  inst : Nat := 0
  port : Nat := 0
  retry : Nat := 0
  funcMask : BitVec 16 := 0
  remoteFn : W64 := 0
  deriving DecidableEq, Repr

/-- Send state of a channel toward a peer (R252); keyed by peer × 128 + PCH. -/
structure SendState where
  counter : W32 := 0
  sync : Bool := true
  deriving DecidableEq, Repr

/-- Receiver state of a peer's channel (R253); keyed by peer × 128 + channel. -/
structure RecvState where
  expected : W32 := 0
  initial : Bool := true
  deriving DecidableEq, Repr

/-- A frame header (Table 9-1). -/
structure FrameHdr where
  kind : BitVec 8
  payloadLen : Nat
  srcId : Nat
  dstId : Nat
  seq : W32
  chan : Nat
  window : Nat
  fn : Nat
  svc : Nat
  sync : Bool
  last : Bool
  status : BitVec 8
  token : W32
  offset : Nat
  readLen : Nat
  deriving DecidableEq, Repr

/-- Where a request frame stands. -/
inductive ReqPhase where
  | queued
  /-- sent at this refclk count (R259) -/
  | sent (at_ : Nat)
  deriving DecidableEq, Repr

/-- A request of this instance (R247 to R250): it is outstanding from its entry in the list, unless abandoned. -/
structure XReq where
  id : Nat
  pch : Nat
  serial : Nat
  fn : Nat
  peer : Nat
  port : Nat
  retryLimit : Nat
  hdr : FrameHdr
  payload : List Byte
  /-- byte position in the transfer, and bytes -/
  vlo : Nat
  len : Nat
  retries : Nat := 0
  phase : ReqPhase := .queued
  /-- abandoned while its frame waits in the transmit queue: the frame is still sent, and nothing waits for it -/
  abandoned : Bool := false
  /-- landing space of the response payload (R248) -/
  landing : Landing := .none
  space : Nat := 0
  cell : Nat := 0
  deriving DecidableEq, Repr

/-- A received request, held (R254) or in service (R258). -/
structure XJob where
  id : Nat
  port : Nat
  peer : Nat
  hdr : FrameHdr
  payload : List Byte
  /-- held since this refclk count -/
  heldAt : Nat := 0
  held : Bool := true
  /-- the response status once decided -/
  status : BitVec 8 := 0
  /-- response payload bytes by offset -/
  data : List (Nat × List Byte) := []
  /-- a memory access failed after its reheats -/
  failed : Bool := false
  sigEn : Bool := false
  sigId : Nat := 0
  deriving DecidableEq, Repr

/-- The Xezan block. -/
structure Xezan where
  tmo : Nat := 2500
  hold : Nat := 1250
  link : Nat := 0
  format : Nat := 0
  unknownPeer : Nat := 0
  noSpace : Nat := 0
  late : Nat := 0
  retries : Nat := 0
  voids : Nat := 0
  seqOld : Nat := 0
  exhausted : Nat := 0
  refused : Nat := 0
  peers : Tbl Peer := []
  send : Tbl SendState := []
  recv : Tbl RecvState := []
  reqs : List XReq := []
  jobs : List XJob := []
  /-- responses in the transmit queues: port and frame bytes -/
  respq : List (Nat × List Byte) := []
  placePtr : Nat := 0
  /-- last request channel served, by port × 4 + class (R251) -/
  turnPtr : Tbl Nat := []
  /-- the last frame each port transmitted -/
  sent : Tbl (List Byte) := []
  deriving DecidableEq, Repr

/-! ### Safety -/

/-- The safety block (Table 10-5). S_CAUSE keeps its register form. -/
structure Safety where
  cause : BitVec 16 := 0x8000
  asserted : Bool := true
  ackLevel : Bool := false
  /-- SAFE_ALARM_P and SAFE_ALARM_N pins -/
  alarmP : Bool := false
  alarmN : Bool := false
  alarmEn : BitVec 16 := 0xFFFF
  stallLimit : Nat := 500
  segStat : Nat := 0
  addrBurst : Nat := 0
  addrState : Nat := 0
  ctxCe : Nat := 0
  ctxUe : Nat := 0
  stallCnt : Nat := 0
  clkLoss : BitVec 10 := 0
  lockstep : Nat := 0
  ackAccepted : Nat := 0
  ackRefused : Nat := 0
  deriving DecidableEq, Repr

/-! ### Gaffer -/

/-- A log record (Table 13-9), without SEQNO and CHECK. -/
structure LogRec where
  time : W64
  kind : Nat
  source : Nat
  flags : Nat
  data : List Byte
  deriving DecidableEq, Repr

/-- G_GAF_STAT.STATE. -/
inductive GafState where
  | booting | running | paused | recovery
  deriving DecidableEq, Repr

/-- Steps of an activation (R359). -/
inductive ActStep where
  | loading | loaded | paused | resumed
  deriving DecidableEq, Repr

/-- An activation in progress. -/
structure Activation where
  mb : Nat
  slot : Nat
  step : ActStep
  pauseUs : Nat := 0
  deriving DecidableEq, Repr

/-- Thermal, droop and clock sensors (R353, R354). -/
structure Sensors where
  temp : Tbl (BitVec 16) := []
  tempMax : Tbl (BitVec 16) := []
  /-- THERM_HIGH may be raised again for the sensor -/
  armed : Tbl Bool := []
  /-- thermal sensors that have failed their self-check -/
  faulty : Tbl Bool := []
  droopMin : Tbl Nat := []
  droopCnt : Tbl Nat := []
  /-- an excursion is running -/
  excursion : Tbl Bool := []
  clkKhz : Tbl Nat := []
  thermHigh : BitVec 16 := 840
  droopLow : Nat := 0
  deriving DecidableEq, Repr

/-- The image that the Gaffer SRAM holds verified: slot, bank, version, ACT_SEQ (R336, R381). -/
structure GafImage where
  slot : Nat
  bank : Nat
  version : W32
  seq : Nat
  deriving DecidableEq, Repr

/-- A command of a flash step of FW_STAGE (R63, R357), after its Write Enable. -/
inductive FlashOp where
  /-- 4 KiB Sector Erase at a flash address -/
  | erase (addr : Nat)
  /-- Page Program of bytes within one 256-byte page -/
  | program (addr : Nat) (bytes : List Byte)
  deriving DecidableEq, Repr

/-- The Gaffer processor, its flash view, staging, activation, log and sensors. -/
structure Gaffer where
  state : GafState := .booting
  /-- in a Gaffer reset of R362: a GO is answered BUSY -/
  down : Bool := false
  /-- the reset was a lockstep mismatch, whose recovery is reported (R293) -/
  recovering : Bool := false
  image : Option GafImage := none
  slot : Nat := 0
  bank : Nat := 0
  fwVersion : W32 := 0
  actSeq : Nat := 0
  /-- BOOT of GET_INFO: the image was started from SRAM -/
  fromSram : Bool := false
  recovery : Bool := false
  resLockstep : Nat := 0
  resWatchdog : Nat := 0
  resActivate : Nat := 0
  resRollback : Nat := 0
  slotA : Option FlashSlot := none
  slotB : Option FlashSlot := none
  /-- FL_SCK is gclk divided by this even number (R63, R336); none until a boot has found SFDP -/
  sckDiv : Option Nat := none
  /-- reads use Quad I/O Fast Read, and 4-byte addresses (R63, R336) -/
  quad : Bool := false
  addr4 : Bool := false
  /-- a staging is open, and the count of bytes written -/
  staging : Bool := false
  staged : Nat := 0
  /-- the slot that the last END verified, with no staging reopened since, as read back -/
  verified : Option FlashSlot := none
  /-- flash step in progress: its commands to the flash, the mailbox whose reply waits, the reply and its status -/
  flashOps : List FlashOp := []
  flashMb : Option Nat := none
  flashReply : List Byte := []
  flashStatus : BitVec 8 := 0
  act : Option Activation := none
  logs : Tbl LogRec := []
  logNext : Nat := 0
  /-- causes held while the Gaffer is in reset; the cold reset is the first of them -/
  logQueue : List LogRec := [{ time := 0, kind := 2, source := 0xFF, flags := 0, data := [1, 0, 0, 0] }]
  logLost : Nat := 0
  /-- lost causes not yet reported by a LOG_LOST record -/
  logLostSince : Nat := 0
  sensors : Sensors := {}
  deriving DecidableEq, Repr

/-- Device-wide counters of chapter 11. -/
structure Global where
  retryLimit : Nat := 3
  devReheats : Nat := 0
  devExhausted : Nat := 0
  admIgn : Nat := 0
  admIgnOffset : Nat := 0
  admIgnKind : Nat := 0
  regDrop : Nat := 0
  deriving DecidableEq, Repr

/-! ### Test ports -/

/-- The sixteen controller states of IEEE 1149.1 (R64). -/
inductive TapPhase where
  | reset | idle | selectDr | captureDr | shiftDr | exit1Dr | pauseDr | exit2Dr | updateDr
  | selectIr | captureIr | shiftIr | exit1Ir | pauseIr | exit2Ir | updateIr
  deriving DecidableEq, Repr

/-- The test access port (R64): controller, instruction shift register and instruction, data shift register, TDO. Bits
stand in the order in which TDO gives them. -/
structure Tap where
  phase : TapPhase := .reset
  irShift : List Bool := []
  instr : TapInstr := .idcode
  drShift : List Bool := []
  tdo : Bool := false
  deriving DecidableEq, Repr

/-- The IEEE 1500 wrapper (R65): instruction shift register and instruction, bypass bit, boundary register shifted and
applied, WSO, and a self-test that its private instruction has started. -/
structure Wrapper where
  irShift : List Bool := []
  instr : WrapInstr := .bypass
  bypass : Bool := false
  boundary : List Bool := []
  applied : List Bool := []
  wso : Bool := false
  selfTest : Bool := false
  deriving DecidableEq, Repr

/-! ### The whole -/

structure State where
  member : Member := Member.vn128
  pending : List Instr := []
  /-- edges of clocks without a row of the table, not yet met, oldest first (assumption 94) -/
  edges : List PinEdge := []
  tap : Tap := {}
  wrapper : Wrapper := {}
  apb : Apb := {}
  /-- register accesses held while cclk does not pop them (R39) -/
  regq : List RegEntry := []
  now : Now := {}
  time : TimeIn := {}
  opt : Opt := {}
  rst : Rst := {}
  chans : Tbl Chan := []
  fns : Tbl Fn := []
  mailboxes : Tbl Mailbox := []
  /-- mailboxes whose GO the Gaffer has not taken, in take order (R340) -/
  goOrder : List Nat := []
  /-- those of them that the last gclk edge made visible, none once one of these is taken; GOs so far (R340) -/
  goTied : List Nat := []
  goCount : Nat := 0
  ev : Events := {}
  benches : Tbl Bench := []
  txns : List Txn := []
  /-- next transaction, work, request or job number -/
  nextId : Nat := 0
  ports : Tbl Port := []
  cru : Crucible := {}
  cul : Cullet := {}
  xez : Xezan := {}
  safety : Safety := {}
  gaf : Gaffer := {}
  glob : Global := {}
  deriving DecidableEq, Repr

/-- The VN-128 right after a cold reset is asserted (R317, R319): every field at its Reset value (assumptions 3, 6). -/
def State.reset : State := {}

end Sys2Proof.Machine
end

