-- ==== Sys2Proof/Machine/Ops.lean ====
section
/-! DEFINITION. The named operations on the state: table lookup and update, the parts of a member, address-to-port
mapping, and putting a transaction into a request queue. -/

namespace Sys2Proof.Machine

/-! ### Tables -/

/-- The entry at `n`, or the default. -/
def look {α : Type} (d : α) : Tbl α → Nat → α
  | [], _ => d
  | (k, v) :: t, n => if n = k then v else look d t n

/-- The table with `v` at `n`; keys stay rising. -/
def put {α : Type} : Tbl α → Nat → α → Tbl α
  | [], n, v => [(n, v)]
  | (k, w) :: t, n, v =>
    if n < k then (n, v) :: (k, w) :: t
    else if n = k then (n, v) :: t
    else (k, w) :: put t n v

/-- Keys strictly rising: the canonical form of every table. -/
def Tbl.wf {α : Type} : Tbl α → Bool
  | [] => true
  | [_] => true
  | (k, _) :: (j, w) :: t => decide (k < j) && Tbl.wf ((j, w) :: t)

/-- A counter of `width` bits that stops at its largest value (R14). -/
def satAdd (width x n : Nat) : Nat := min (x + n) (2 ^ width - 1)

end Sys2Proof.Machine

namespace Sys2Proof

/-! ### Parts of a member (R17, R22 to R29) -/

/-- A channel index of CHANNELS_PER_BENCH or above, or of a bench numbered BENCHES or above, is absent (R25). -/
def Member.chanPresent (m : Member) (pch : Nat) : Bool :=
  decide (pch / 16 < m.benches) && decide (pch % 16 < m.chPerBench)

def Member.portPresent (m : Member) (p : Nat) : Bool :=
  decide (p / 8 < m.benches) && decide (p % 8 < m.spPerBench)

def Member.fnPresent (m : Member) (f : Nat) : Bool := decide (f < m.functions)

/-- The member's channel count, BENCHES × CHANNELS_PER_BENCH. -/
def Member.channels (m : Member) : Nat := m.benches * m.chPerBench

def Member.slotPresent (m : Member) (sl : Nat) : Bool := decide (sl < m.channels)

def Member.hasCullet (m : Member) : Bool := decide (m.gobBits ≠ 0)

def Member.hasXezan (m : Member) : Bool := decide (m.xezanPorts ≠ 0)

/-- FULL_POLICY is FLAG where CRUCIBLE_WORDS is 1 Mi or more (R23). -/
def Member.flagPolicy (m : Member) : Bool := decide (20 ≤ m.crucibleLog2)

/-- Crucible cells: CRUCIBLE_WORDS / 64 (Table 1-2). -/
def Member.cells (m : Member) : Nat := 2 ^ (m.crucibleLog2 - 6)

/-- The reservable total (Table 7-1). -/
def Member.reservable (m : Member) : Nat := m.cells - 256 - 256 * m.xezanPorts

/-- Drain cells of one bench: floor(256 / BENCHES) (R193). -/
def Member.drainPerBench (m : Member) : Nat := 256 / m.benches

/-- A response of this kind is an error (R41: EXOKAY is treated as SLVERR). -/
def Resp.isError (r : Resp) : Bool := !decide (r = .okay)

end Sys2Proof

namespace Sys2Proof.Machine

/-- The bench of a channel (R17). -/
def benchOf (pch : Nat) : Nat := pch / 16

/-- The Reset values of G_LANE_RES (Table 7-7). -/
def Bench.reset (m : Member) : Bench :=
  { laneRes := min 1024 (m.reservable / (4 * m.benches)), laneLim := min 4096 m.reservable }

/-! ### Access to the parts of the state -/

def State.chan (s : State) (p : Nat) : Chan := look {} s.chans p
def State.setChan (s : State) (p : Nat) (c : Chan) : State := { s with chans := put s.chans p c }
def State.modChan (s : State) (p : Nat) (f : Chan → Chan) : State := s.setChan p (f (s.chan p))

def State.fn (s : State) (f : Nat) : Fn := look {} s.fns f
def State.setFn (s : State) (f : Nat) (x : Fn) : State := { s with fns := put s.fns f x }
def State.modFn (s : State) (f : Nat) (g : Fn → Fn) : State := s.setFn f (g (s.fn f))

def State.port (s : State) (p : Nat) : Port := look {} s.ports p
def State.setPort (s : State) (p : Nat) (x : Port) : State := { s with ports := put s.ports p x }
def State.modPort (s : State) (p : Nat) (g : Port → Port) : State := s.setPort p (g (s.port p))

def State.bench (s : State) (b : Nat) : Bench := look (Bench.reset s.member) s.benches b
def State.setBench (s : State) (b : Nat) (x : Bench) : State := { s with benches := put s.benches b x }
def State.modBench (s : State) (b : Nat) (g : Bench → Bench) : State := s.setBench b (g (s.bench b))

def State.mailbox (s : State) (m : Nat) : Mailbox := look {} s.mailboxes m
def State.setMailbox (s : State) (m : Nat) (x : Mailbox) : State := { s with mailboxes := put s.mailboxes m x }
def State.modMailbox (s : State) (m : Nat) (g : Mailbox → Mailbox) : State := s.setMailbox m (g (s.mailbox m))

/-- The physical channel that slot `sl` of function `f` is mapped to. -/
def findOwner (f sl : Nat) : Tbl Chan → Option Nat
  | [] => none
  | (p, c) :: t => if c.owner = some (f, sl) then some p else findOwner f sl t

def State.pchOf (s : State) (f sl : Nat) : Option Nat := findOwner f sl s.chans

/-- The function that holds a channel. -/
def State.fnOfChan (s : State) (p : Nat) : Option Nat := (s.chan p).owner.map Prod.fst

/-- Changes the piece of work with this serial number in a channel's started list. -/
def updWork (serial : Nat) (g : Work → Work) : List Work → List Work
  | [] => []
  | w :: t => if w.serial = serial then g w :: t else w :: updWork serial g t

def State.modWork (s : State) (p serial : Nat) (g : Work → Work) : State :=
  s.modChan p fun c => { c with started := updWork serial g c.started }

def State.work? (s : State) (p serial : Nat) : Option Work :=
  (s.chan p).started.find? (fun w => w.serial == serial)

/-! ### Time -/

/-- The clock moves on to a deadline that has come (assumption 2). -/
def State.reachCclk (s : State) (t : Nat) : State := { s with now := { s.now with cclk := max s.now.cclk t } }
def State.reachRefclk (s : State) (t : Nat) : State := { s with now := { s.now with refclk := max s.now.refclk t } }

/-- TNOW's validity (R59). -/
def TimeIn.valid (t : TimeIn) : Bool := t.lastValid && !t.stalled && !t.unset

/-! ### Domains (R320): the positions of CLK_STABLE in Table 2-2 -/

def cclkUp (s : State) : Bool := s.rst.stable.getLsbD 0
def hclkUp (s : State) : Bool := s.rst.stable.getLsbD 2
/-- The sclk group of a stream port (R17). -/
def sclkUp (s : State) (p : Nat) : Bool := s.rst.stable.getLsbD (3 + p / 16)
def gclkUp (s : State) : Bool := s.rst.stable.getLsbD 8
def xclkUp (s : State) : Bool := s.rst.stable.getLsbD 7

/-! ### Memory ports -/

/-- PMAP[i] with the fold of PMAP_XOR (R45). -/
def pmapIndex (xorOn : Bool) (addr : Nat) : Nat :=
  let i := addr / 4096 % 16
  if xorOn then Nat.xor i (addr / 65536 % 16) else i

def State.portOf (s : State) (addr : Nat) : Nat := s.opt.pmap.getD (pmapIndex s.opt.pmapXor addr) 0

/-- AxID of a channel's access (R41): bench, kind, index; PCH 127 carries 0xEF on all its accesses. -/
def chanAxid (pch : Nat) (aux : Bool) : BitVec 8 :=
  if pch = 127 then 0xEF
  else BitVec.ofNat 8 (pch / 16 * 32 + (if aux then 16 else 0) + pch % 16)

/-- AxUSER of a function's access and of a device-owned access (R41). -/
def fnUser (f : Nat) : BitVec 5 := BitVec.ofNat 5 (f % 16)
def deviceUser : BitVec 5 := 16
def deviceAxid : BitVec 8 := 0xFF

/-- AxQOS of a service class (R137). -/
def qosOf (cls : Nat) : Nat := 3 - cls

/-- Puts a transaction into its port's request queue under a new number. -/
def State.post (s : State) (t : Txn) : State :=
  { s with txns := s.txns ++ [{ t with id := s.nextId }], nextId := s.nextId + 1 }

/-- Beats from the one that holds byte `lo` to the one that holds the last of `len` bytes. -/
def beatsOf (lo len : Nat) : Nat := if len = 0 then 0 else (lo + len - 1) / 128 - lo / 128 + 1

/-- A device-owned single write of `bytes` at `addr` (R41, R220). -/
def deviceWrite (s : State) (purpose : Purpose) (port addr qos : Nat) (coherent : Bool) (bytes : List Byte) : Txn :=
  { id := s.nextId, port := port, write := true, purpose := purpose, addr := addr / 128 * 128,
    beats := beatsOf addr bytes.length, axid := deviceAxid, qos := qos, user := deviceUser, coherent := coherent,
    wlo := addr, wdata := bytes }

def deviceRead (s : State) (purpose : Purpose) (port addr len qos : Nat) (coherent : Bool) : Txn :=
  { id := s.nextId, port := port, write := false, purpose := purpose, addr := addr / 128 * 128,
    beats := beatsOf addr len, axid := deviceAxid, qos := qos, user := deviceUser, coherent := coherent,
    rlo := addr, rlen := len }

/-! The signals of a burst besides its address, ID, user and QOS (Table 2-4) -/

def Txn.axlen (t : Txn) : BitVec 8 := BitVec.ofNat 8 (t.beats - 1)
def Txn.axsize (_ : Txn) : BitVec 3 := 0b111
def Txn.axburst (_ : Txn) : BitVec 2 := 0b01
def Txn.axlock (_ : Txn) : Bool := false
def Txn.axcache (t : Txn) : BitVec 4 := if t.coherent then 0b1111 else 0b0011
def Txn.axprot (_ : Txn) : BitVec 3 := 0b010
def Txn.axregion (_ : Txn) : BitVec 4 := 0
def Txn.axdomain (t : Txn) : BitVec 2 := if t.coherent then 0b10 else 0b11
/-- ReadOnce and WriteUnique with COHERENT, which 0 encodes too. -/
def Txn.axsnoop (_ : Txn) : BitVec 4 := 0
def Txn.axbar (_ : Txn) : BitVec 2 := 0

/-- The byte of a write burst that byte `j` of beat `i` carries, if it is enabled. -/
def Txn.byteAt (t : Txn) (i j : Nat) : Option Byte :=
  let a := t.addr + 128 * i + j
  if a < t.wlo then none else t.wdata[a - t.wlo]?

/-- WSTRB and WDATA of beat `i`: bytes that are not enabled are driven zero; WLAST on the last beat. -/
def Txn.wstrb (t : Txn) (i : Nat) : BitVec 128 :=
  BitVec.ofNat 128 (((List.range 128).map fun j => if (t.byteAt i j).isSome then 2 ^ j else 0).sum)
def Txn.wdataBeat (t : Txn) (i : Nat) : MemBeat :=
  BitVec.ofNat 1024 (((List.range 128).map fun j => ((t.byteAt i j).getD 0).toNat * 256 ^ j).sum)
def Txn.wlast (t : Txn) (i : Nat) : Bool := i + 1 == t.beats

/-- The channel that a transaction counts for under MAX_OUT and the watchdog (R144, R283); completion writes do not. -/
def Purpose.pch? : Purpose → Option Nat
  | .fetch p | .table p _ _ | .dataRead p _ _ _ | .dataWrite p _ _ _ | .result p _ => some p
  | _ => none

def Purpose.serial? : Purpose → Option (Nat × Nat)
  | .table p n _ | .dataRead p n _ _ | .dataWrite p n _ _ | .result p n => some (p, n)
  | _ => none

/-- The first transaction of `l` that meets `q`, and the rest of the list in order. -/
def takeFirst {α : Type} (q : α → Bool) : List α → Option (α × List α)
  | [] => none
  | x :: t =>
    if q x then some (x, t)
    else match takeFirst q t with
      | none => none
      | some (y, r) => some (y, x :: r)

/-- Replaces each element that meets `q`. -/
def mapIf {α : Type} (q : α → Bool) (g : α → α) (l : List α) : List α := l.map fun x => if q x then g x else x

/-- Whether a transaction is outstanding at its port (R43). -/
def Txn.isIssued (t : Txn) : Bool := decide (t.phase = .issued) || decide (t.phase = .retiring)

/-- Memory port `p` is retiring (R330). -/
def State.portRetiring (s : State) (p : Nat) : Bool := s.txns.any fun t => t.phase == .retiring && t.port == p

/-- The mclk side of memory port `p` is released: the 256-cycle count of mclk has ended, and so has the port's last
retirement (R330). -/
def State.portUp (s : State) (p : Nat) : Bool := s.rst.stable.getLsbD 1 && !s.portRetiring p

/-- The block can retire memory transactions: neither mclk nor cclk is lost (Table 12-3). -/
def State.canRetire (s : State) : Bool := !s.rst.lost.getLsbD 0 && !s.rst.lost.getLsbD 1

/-- RREADY and BREADY of memory port `p` (R41, Table 12-4): high from its release on, and under retirement. -/
def State.responseReady (s : State) (p : Nat) : Bool :=
  decide (p < s.member.mPorts) && s.canRetire && (s.portUp p || s.portRetiring p)

/-- Transactions outstanding at a port (R43). -/
def State.portLoad (s : State) (p : Nat) : Nat := (s.txns.filter fun t => t.port == p && t.isIssued).length

/-- Outstanding transactions of a channel under MAX_OUT (R144). -/
def State.chanLoad (s : State) (pch : Nat) : Nat := (s.txns.filter fun t => t.purpose.pch? == some pch).length

/-! ### Bytes -/

def byteOf (x : Nat) (i : Nat) : Byte := BitVec.ofNat 8 (x / 256 ^ i)

/-- `n` little-endian bytes of a number (R8). -/
def leBytes (n x : Nat) : List Byte := (List.range n).map (byteOf x)

/-- The number that little-endian bytes spell. -/
def ofLeBytes : List Byte → Nat
  | [] => 0
  | b :: t => b.toNat + 256 * ofLeBytes t

/-- Bytes `lo` to `lo + len − 1` of a 128-byte beat. -/
def beatBytes (b : MemBeat) (lo len : Nat) : List Byte :=
  (List.range len).map fun i => BitVec.ofNat 8 (b.toNat / 256 ^ (lo + i))

/-- The bytes of interest of the beats of a read burst that starts at `addr` (R44: bytes outside are discarded). -/
def beatsSlice (addr : Nat) (beats : List MemBeat) (lo len : Nat) : List Byte :=
  ((beats.map fun b => beatBytes b 0 128).flatten.drop (lo - addr)).take len

end Sys2Proof.Machine
end

