-- ==== Sys2Proof/Machine/Operands.lean ====
section
/-! DEFINITION. Operand forms: the fields of a descriptor (Tables 4-1 to 4-6), ring index arithmetic (R71, R73, Table
3-9), layouts (Table 4-5) and the bytes of a mailbox request. -/

namespace Sys2Proof

open Machine

/-- Bits [hi:lo] of a quadword as a number. -/
def field64 (q : W64) (hi lo : Nat) : Nat := q.toNat / 2 ^ lo % 2 ^ (hi + 1 - lo)

def field32 (q : W32) (hi lo : Nat) : Nat := q.toNat / 2 ^ lo % 2 ^ (hi + 1 - lo)

/-- A 32-bit field read as a signed number. -/
def signed32 (n : Nat) : Int := (BitVec.ofNat 32 n).toInt

/-! ### Q0 (Table 4-1) -/

def Machine.Desc.opcode (d : Desc) : Nat := field64 d.q0 7 0
def Machine.Desc.phase (d : Desc) : Bool := d.q0.getLsbD 8
def Machine.Desc.fence (d : Desc) : Bool := d.q0.getLsbD 9
def Machine.Desc.intHalf (d : Desc) : Bool := d.q0.getLsbD 10
def Machine.Desc.intFull (d : Desc) : Bool := d.q0.getLsbD 11
def Machine.Desc.crcCheck (d : Desc) : Bool := d.q0.getLsbD 12
def Machine.Desc.fresh (d : Desc) : Bool := d.q0.getLsbD 13
def Machine.Desc.signalOnDone (d : Desc) : Bool := d.q0.getLsbD 14
def Machine.Desc.coherent (d : Desc) : Bool := d.q0.getLsbD 15
def Machine.Desc.svc (d : Desc) : Nat := field64 d.q0 17 16
def Machine.Desc.signalId (d : Desc) : Nat := field64 d.q0 31 24
def Machine.Desc.length (d : Desc) : Nat := field64 d.q0 63 32

/-! ### Address words (Table 4-2) -/

def spaceOf (q : W64) : Nat := field64 q 63 56
def addressOf (q : W64) : Nat := field64 q 51 0

def Machine.Desc.srcSpace (d : Desc) : Nat := spaceOf d.q1
def Machine.Desc.srcAddr (d : Desc) : Nat := addressOf d.q1
def Machine.Desc.dstSpace (d : Desc) : Nat := spaceOf d.q2
def Machine.Desc.dstAddr (d : Desc) : Nat := addressOf d.q2

/-! ### Q3 to Q7 (Tables 4-4a and 4-6) -/

def Machine.Desc.srcLayout (d : Desc) : Nat := field64 d.q3 3 0
def Machine.Desc.dstLayout (d : Desc) : Nat := field64 d.q3 7 4
/-- ROWS, where 0 means 1. -/
def Machine.Desc.rows (d : Desc) : Nat := max 1 (field64 d.q3 27 8)
def Machine.Desc.planes (d : Desc) : Nat := max 1 (field64 d.q3 39 28)
def Machine.Desc.blockW (d : Desc) : Nat := field64 d.q3 47 40
def Machine.Desc.blockH (d : Desc) : Nat := field64 d.q3 55 48
def Machine.Desc.srcStride (d : Desc) : Int := signed32 (field64 d.q4 31 0)
def Machine.Desc.dstStride (d : Desc) : Int := signed32 (field64 d.q4 63 32)
def Machine.Desc.srcPlaneStride (d : Desc) : Int := signed32 (field64 d.q5 31 0)
def Machine.Desc.dstPlaneStride (d : Desc) : Int := signed32 (field64 d.q5 63 32)
/-- INDEX_TABLE, FRAG_TABLE or RESULT: Q5[51:0]. -/
def Machine.Desc.pointer (d : Desc) : Nat := field64 d.q5 51 0
def Machine.Desc.remoteInstance (d : Desc) : Nat := field64 d.q5 17 0
def Machine.Desc.remoteWindow (d : Desc) : Nat := field64 d.q5 21 18
def Machine.Desc.accessToken (d : Desc) : W32 := BitVec.ofNat 32 (field64 d.q5 63 32)
def Machine.Desc.gate (d : Desc) : Nat := field64 d.q5 1 0
def Machine.Desc.gateNum (d : Desc) : Nat := field64 d.q5 13 8
def Machine.Desc.toFunction (d : Desc) : Nat := field64 d.q5 3 0
def Machine.Desc.toSlot (d : Desc) : Nat := field64 d.q5 10 4
def Machine.Desc.captureTime (d : Desc) : W64 := d.q6
def Machine.Desc.expectCrc (d : Desc) : W32 := BitVec.ofNat 32 (field64 d.q7 31 0)
def Machine.Desc.entryCount (d : Desc) : Nat := field64 d.q7 63 32

/-! ### Opcodes (Table 4-4) -/

/-- The opcodes of Table 4-4. -/
inductive Op where
  | copy | copy2d | copy3d | gatherIdx | scatterIdx | blockGather | frag | streamOut | streamIn | streamInGob
  | remoteRead | remoteWrite | waitTrig | signal | punty | nop | fenceOnly
  deriving DecidableEq, Repr

def opOf (code : Nat) : Option Op :=
  if code = 0x01 then some .copy else if code = 0x02 then some .copy2d else if code = 0x03 then some .copy3d
  else if code = 0x04 then some .gatherIdx else if code = 0x05 then some .scatterIdx
  else if code = 0x06 then some .blockGather else if code = 0x08 then some .frag
  else if code = 0x10 then some .streamOut else if code = 0x11 then some .streamIn
  else if code = 0x12 then some .streamInGob else if code = 0x18 then some .remoteRead
  else if code = 0x19 then some .remoteWrite else if code = 0x20 then some .waitTrig
  else if code = 0x21 then some .signal else if code = 0x22 then some .punty
  else if code = 0x30 then some .nop else if code = 0x31 then some .fenceOnly else none

def Machine.Desc.op (d : Desc) : Option Op := opOf d.opcode

/-- The data opcodes are 0x01 to 0x19. -/
def Op.isData : Op → Bool
  | .waitTrig | .signal | .punty | .nop | .fenceOnly => false
  | _ => true

/-- SRC spaces of Table 4-4; the empty list where the side is not examined. -/
def Op.srcSpaces : Op → List Nat
  | .copy | .streamOut | .remoteWrite => [0x00, 0x02]
  | .copy2d | .copy3d | .gatherIdx | .scatterIdx | .blockGather => [0x00]
  | .streamIn | .streamInGob => [0x01]
  | .remoteRead => [0x80]
  | .punty => [0x02]
  | .frag | .waitTrig | .signal | .nop | .fenceOnly => []

/-- DST spaces of Table 4-4. -/
def Op.dstSpaces : Op → List Nat
  | .copy | .copy2d | .copy3d | .scatterIdx | .streamIn => [0x00]
  | .gatherIdx | .blockGather | .frag | .remoteRead => [0x00, 0x01]
  | .streamOut => [0x01]
  | .streamInGob => [0x02]
  | .remoteWrite => [0x80]
  | .waitTrig | .signal | .punty | .nop | .fenceOnly => []

/-- The opcodes that read an index, block or fragment table. -/
def Op.usesTable : Op → Bool
  | .gatherIdx | .scatterIdx | .blockGather | .frag => true
  | _ => false

/-- The opcodes marked "yes" in the EXPECT_CRC column. -/
def Op.comparesCrc : Op → Bool
  | .copy | .copy2d | .copy3d | .frag | .streamOut | .remoteRead | .remoteWrite => true
  | _ => false

/-- Reserved bits of Q5 by opcode (Table 4-6): the mask that must be zero. -/
def Op.q5Reserved : Op → Nat
  | .gatherIdx | .scatterIdx | .blockGather | .frag | .streamInGob => (2 ^ 12 - 1) * 2 ^ 52
  | .remoteRead | .remoteWrite => (2 ^ 10 - 1) * 2 ^ 22
  | .waitTrig => (2 ^ 6 - 1) * 2 ^ 2 + (2 ^ 50 - 1) * 2 ^ 14
  | .punty => (2 ^ 53 - 1) * 2 ^ 11
  | _ => 0

/-! ### Layouts (Table 4-5, R107, R174, R176) -/

/-- W36X, the one layout that is not dense. -/
def isW36X (l : Nat) : Bool := decide (l = 5)

/-- Words of a row of LENGTH `len` (R107): ceil(2 × LENGTH / 9). -/
def rowWords (len : Nat) : Nat := (2 * len + 8) / 9

/-- E(L): memory bytes of a row (R180). -/
def rowBytes (layout len : Nat) : Nat := if isW36X layout then 5 * rowWords len else len

/-- E(w): memory bytes of `w` words (R122, R180). -/
def wordBytes (layout w : Nat) : Nat := if isW36X layout then 5 * w else (9 * w + 1) / 2

/-- The largest word count whose occupancy is at most `cap` bytes (R122). -/
def wordsFitting (layout cap : Nat) : Nat := if isW36X layout then cap / 5 else 2 * cap / 9

/-! ### Ring indices (R71, R73, Table 3-9) -/

/-- count(a, b) = (b − a) mod 2N for a ring of order `k`. -/
def ringCount (k a b : Nat) : Nat := (b + 2 ^ (k + 1) - a % 2 ^ (k + 1)) % 2 ^ (k + 1)

/-- The index value after `v`. -/
def ringNext (k v : Nat) : Nat := (v + 1) % 2 ^ (k + 1)

/-- The index value `n` after `v`. -/
def ringAdd (k v n : Nat) : Nat := (v + n) % 2 ^ (k + 1)

/-- An index value in the register layout of Table 3-9: index in [15:0], wrap bit in [16]. -/
def idxLayout (k v : Nat) : Nat := v % 2 ^ k + v / 2 ^ k % 2 * 65536

/-- The index value that a register of this layout names, if the index bits at the ring's order and above are zero. -/
def idxValue (k : Nat) (d : W32) : Option Nat :=
  if field32 d 15 0 < 2 ^ k then some (field32 d 15 0 + 2 ^ k * field32 d 16 16) else none

/-- The expected PHASE of the entry at an index value (R73): 1 when its wrap bit is 0. -/
def expectedPhase (k v : Nat) : Bool := decide (v / 2 ^ k % 2 = 0)

/-! ### Descriptors in memory -/

/-- The 64 bytes of an entry as a descriptor (R99). -/
def descOfNat (x : Nat) : Desc :=
  { q0 := BitVec.ofNat 64 x, q1 := BitVec.ofNat 64 (x / 2 ^ 64), q2 := BitVec.ofNat 64 (x / 2 ^ 128),
    q3 := BitVec.ofNat 64 (x / 2 ^ 192), q4 := BitVec.ofNat 64 (x / 2 ^ 256),
    q5 := BitVec.ofNat 64 (x / 2 ^ 320), q6 := BitVec.ofNat 64 (x / 2 ^ 384),
    q7 := BitVec.ofNat 64 (x / 2 ^ 448) }

/-- Entry `j` of the lower (0) or upper (1) half of a beat. -/
def descOfBeat (b : MemBeat) (j : Nat) : Desc := descOfNat (b.toNat / 2 ^ (512 * j))

/-- The descriptor at push position `j` (R82: quadword Qn at word 16j + 2n, low half first). -/
def descOfPush (t : Tbl W32) (j : Nat) : Desc :=
  let q := fun n => (BitVec.ofNat 64 ((look 0 t (16 * j + 2 * n)).toNat
    + 2 ^ 32 * (look 0 t (16 * j + 2 * n + 1)).toNat) : W64)
  { q0 := q 0, q1 := q 1, q2 := q 2, q3 := q 3, q4 := q 4, q5 := q 5, q6 := q 6, q7 := q 7 }

/-! ### Mailbox requests (Table 13-6) -/

/-- Byte `i` of the 256-byte buffer. -/
def reqByte (m : Mailbox) (i : Nat) : Nat := field32 (look 0 m.data (i / 4)) (8 * (i % 4) + 7) (8 * (i % 4))

/-- A little-endian field of `n` bytes. -/
def reqField (m : Mailbox) (i n : Nat) : Nat := ofLeBytes ((List.range n).map fun j => BitVec.ofNat 8 (reqByte m (i + j)))

/-- The bytes of a run. -/
def reqBytes (m : Mailbox) (i n : Nat) : List Byte := (List.range n).map fun j => BitVec.ofNat 8 (reqByte m (i + j))

/-- Every byte of the buffer outside the defined ranges (first byte, length) is zero (R344). -/
def reqZeroOutside (m : Mailbox) (used : List (Nat × Nat)) : Bool :=
  (List.range 256).all fun i => used.any (fun r => decide (r.1 ≤ i ∧ i < r.1 + r.2)) || reqByte m i == 0

/-! ### Statuses (Tables 4-10, 13-3, 8-5) -/

def Machine.Status.code : Status → Nat
  | .ok => 0x00 | .stopped => 0x01 | .aborted => 0x02 | .busError => 0x10 | .remoteTimeout => 0x11
  | .crcMismatch => 0x12 | .stale => 0x13 | .gobExhausted => 0x14 | .indexRange => 0x15
  | .windowDenied => 0x16 | .stall => 0x17 | .eccUncorrected => 0x18

/-- Statuses that halt the channel (R133): 0x10 and above. -/
def Machine.Status.isError (s : Status) : Bool := decide (0x10 ≤ s.code)

def Machine.Cause.code : Cause → Nat
  | .none => 0 | .descriptor => 1 | .fetch => 2 | .cplWrite => 3 | .addrState => 4 | .function => 5 | .pass => 6
  | .lehr => 7 | .abort => 8

def Machine.ChState.code : ChState → Nat
  | .idle => 0 | .running => 1 | .stopping => 2 | .aborting => 3 | .stopped => 4 | .halted => 5

end Sys2Proof
end

