-- ==== Sys2Proof/Machine/Flags.lean ====
section
/-! DEFINITION. Every flag the block computes and reports: events and their routes (R168 to R173), signals (R152, R154),
gates (R149 to R156), message vectors (R172), the alarm causes (R288 to R291), the log (R355), and the counts of ignored
accesses (R311). -/

namespace Sys2Proof.Machine

/-! ### The log -/

/-- Writes a record into log memory under the next SEQNO (R355); FLAGS [2] tells that it is written in recovery mode. -/
def State.putLog (s : State) (r : LogRec) : State :=
  let w := { r with flags := r.flags + (if s.gaf.recovery then 4 else 0) }
  { s with gaf := { s.gaf with logs := put s.gaf.logs (s.gaf.logNext % 2048) w,
                               logNext := (s.gaf.logNext + 1) % 2 ^ 32 } }

/-- The Gaffer is able to write records: it has booted and is not paused (assumption 26). -/
def Gaffer.writes (g : Gaffer) : Bool := decide (g.state = .running) || decide (g.state = .recovery)

/-- A record of what happens now (Table 13-9). -/
def State.mkLog (s : State) (kind source : Nat) (data : List Byte) : LogRec :=
  { time := if s.time.valid then s.time.tnow else 0, kind := kind, source := source,
    flags := if s.time.valid then 1 else 0, data := data }

/-! ### Pending bits -/

/-- Sets the pending bit of a source (R170, R371). -/
def State.setPending (s : State) (n : Nat) : State :=
  if n < 1024 then s.modChan (n / 8) fun c => { c with evt := c.evt ||| BitVec.ofNat 8 (2 ^ (n % 8)) }
  else if n < 1280 then
    s.modPort ((n - 1024) / 4) fun p => { p with evt := p.evt ||| BitVec.ofNat 4 (2 ^ ((n - 1024) % 4)) }
  else if n < 1408 then
    s.modFn ((n - 1280) / 8) fun f => { f with evt := f.evt ||| BitVec.ofNat 8 (2 ^ ((n - 1280) % 8)) }
  else { s with ev := { s.ev with glob := s.ev.glob ||| BitVec.ofNat 68 (2 ^ (n - 1408)) } }

/-- The pending bit of a source. -/
def State.isPending (s : State) (n : Nat) : Bool :=
  if n < 1024 then (s.chan (n / 8)).evt.getLsbD (n % 8)
  else if n < 1280 then (s.port ((n - 1024) / 4)).evt.getLsbD ((n - 1024) % 4)
  else if n < 1408 then (s.fn ((n - 1280) / 8)).evt.getLsbD ((n - 1280) % 8)
  else s.ev.glob.getLsbD (n - 1408)

/-! ### Message vectors (R172) -/

def State.vec (s : State) (v : Nat) : Vec := look {} s.ev.vecs v
def State.setVec (s : State) (v : Nat) (x : Vec) : State := { s with ev := { s.ev with vecs := put s.ev.vecs v x } }

/-- The mask bit of a device vector: its holder's. -/
def State.vecMasked (s : State) (v : Nat) : Bool :=
  if (s.vec v).admin then (s.vec v).mask else (s.fn (v / 128)).msiMask.getLsbD (v % 128)

def State.maskVec (s : State) (v : Nat) (on : Bool) : State :=
  if (s.vec v).admin then s.setVec v { s.vec v with mask := on }
  else s.modFn (v / 128) fun f =>
    { f with msiMask := if on then f.msiMask ||| BitVec.ofNat 128 (2 ^ (v % 128))
                        else f.msiMask &&& ~~~ BitVec.ofNat 128 (2 ^ (v % 128)) }

/-- The cclk edge at which TIME has passed since the first uncovered raise, with the TIME in force. -/
def Vec.deadline (x : Vec) : Option Nat := x.since.map fun t => t + x.time

/-- The uncovered raises call for a write: COUNT reached, or TIME passed since the first of them. -/
def Vec.due (now : Nat) (x : Vec) : Bool :=
  decide (0 < x.raises) && (decide (x.count ≤ x.raises) || decide (x.time = 0)
    || (match x.deadline with | none => false | some t => decide (t ≤ now)))

/-- Issues the vector's write, which covers every raise so far, on M0 in the form of R47. -/
def State.writeVec (s : State) (v : Nat) : State :=
  let x := s.vec v
  (s.setVec v { x with covered := x.raises, raises := 0, since := none, outstanding := true }).post
    (deviceWrite s (.msi v) 0 x.addr 3 false (leBytes 4 x.data.toNat))

/-- Decides the vector's write; `force` at an unmasking (assumption 25). An unmasking while a write of the vector is
outstanding leaves no decision behind: its raises wait for COUNT or TIME after the response (assumption 97). -/
def State.decideVec (s : State) (v : Nat) (force : Bool) : State :=
  let x := s.vec v
  if !s.vecMasked v && !x.outstanding && decide (0 < x.raises) && (force || x.due s.now.cclk) then s.writeVec v
  else s

/-- A raise routed to the vector. -/
def State.raiseVec (s : State) (v : Nat) : State :=
  let x := s.vec v
  (s.setVec v { x with raises := x.raises + 1,
                       since := x.since.or (some s.now.cclk) }).decideVec v false

/-! ### Signals (R152, R154) -/

/-- The started WAIT_TRIGs of a channel that wait for signal `k`, and its own wait for a signal credit: their orders. -/
def Chan.signalWaits (k : Nat) (c : Chan) : List Nat :=
  (c.started.filter fun w => w.armed && !w.acted && !w.abandoned && w.verdict.isNone && w.desc.gate == 0
      && w.desc.signalId == k).map Work.armedAt
    ++ (match c.wantsSignal with
        | some o => if c.cfg.paceSrc = 3 ∧ c.cfg.paceNum = k then [o] else []
        | none => [])

/-- Order number of the earliest waiter of signal `k` of function `f`. -/
def State.firstWait (s : State) (f k : Nat) : Option Nat :=
  ((s.chans.filter fun e => e.2.owner.map Prod.fst == some f).map fun e => e.2.signalWaits k).flatten.min?

/-- Gives a raise to the waiter with order number `o`: a WAIT_TRIG completes, a waiting start has its credit
(assumption 17). -/
def Chan.giveSignal (o : Nat) (c : Chan) : Chan :=
  if c.wantsSignal = some o then { c with wantsSignal := none, credit := 1 }
  else { c with started := mapIf (fun w => w.armed && w.armedAt == o) (fun w => { w with acted := true }) c.started }

def State.sigCount (s : State) (f k : Nat) : Nat := look 0 (s.fn f).sigCnt k

/-- One raise of signal `k` of function `f`. -/
def State.raiseSignal (s : State) (f k : Nat) : State :=
  match s.firstWait f k with
  | some o => { s with chans := s.chans.map fun e => (e.1, e.2.giveSignal o) }
  | none =>
    if s.sigCount f k < 65535 then s.modFn f fun x => { x with sigCnt := put x.sigCnt k (look 0 x.sigCnt k + 1) }
    else s.modFn f fun x => { x with sigOvf := satAdd 16 x.sigOvf 1 }

/-- Takes one count of a signal. -/
def State.takeSignal (s : State) (f k : Nat) : State :=
  s.modFn f fun x => { x with sigCnt := put x.sigCnt k (look 0 x.sigCnt k - 1) }

/-! ### Raising an event -/

def State.tout (s : State) (n : Nat) : TrigOut := look {} s.ev.trigOut n
def State.setTout (s : State) (n : Nat) (x : TrigOut) : State :=
  { s with ev := { s.ev with trigOut := put s.ev.trigOut n x } }

/-- Delivers a raise to its target (R171, R173). The level of an INT wire is derived from the pending bits. -/
def State.deliver (s : State) : Route → State
  | .none => s
  | .int _ => s
  | .vector v => s.raiseVec v
  | .trigOut n => s.setTout n { s.tout n with queued := (s.tout n).queued + 1 }
  | .signal f k => s.raiseSignal f k

def State.route (s : State) (n : Nat) : Route := look .none s.ev.routes n

/-- A raise of event source `n` (R170, R171). -/
def State.raise (s : State) (n : Nat) : State := (s.setPending n).deliver (s.route n)

/-- A raise that comes from another clock domain: it is lost while cclk is in reset. -/
def State.raiseUp (s : State) (n : Nat) : State := if cclkUp s then s.raise n else s

/-- Channel, port and function event numbers (Table 5-5). -/
def chanEvent (p k : Nat) : Nat := p * 8 + k
def portEvent (p k : Nat) : Nat := 1024 + p * 4 + k
def fnEvent (f k : Nat) : Nat := 1280 + f * 8 + k

/-- INT wire `w` is high: a source routed to it is pending and the wire is held (R53, R171). -/
def State.intLevel (s : State) (w : Nat) : Bool :=
  (look none s.ev.ints w).isSome
    && s.ev.routes.any fun e => (match e.2 with | .int x => x == w && s.isPending e.1 | _ => false)

/-! ### Log entries and the alarm -/

/-- Makes a log record: written by the Gaffer, or held in the 64-entry queue while it is in reset, or lost and
counted. -/
def State.log (s : State) (kind source : Nat) (data : List Byte) : State :=
  if s.gaf.writes then s.putLog (s.mkLog kind source data)
  else if s.gaf.logQueue.length < 64 then
    { s with gaf := { s.gaf with logQueue := s.gaf.logQueue ++ [s.mkLog kind source data] } }
  else
    ({ s with gaf := { s.gaf with logLost := satAdd 16 s.gaf.logLost 1,
                                  logLostSince := s.gaf.logLostSince + 1 } } : State).raise 1455

/-- Writes the queued records once the Gaffer runs, and a LOG_LOST record when causes were lost. -/
def State.flushLog (s : State) : State :=
  let s1 := s.gaf.logQueue.foldl (fun t r => t.putLog { r with flags := r.flags + 2 }) s
  let s2 : State := { s1 with gaf := { s1.gaf with logQueue := [], logLostSince := 0 } }
  if s.gaf.logLostSince = 0 then s2
  else s2.putLog (s2.mkLog 0x60 0xFF (leBytes 4 s.gaf.logLostSince))

/-- Sets a bit of S_CAUSE and with it the alarm (R288, R290). -/
def State.setCause (s : State) (b : Nat) : State :=
  let s1 : State := { s with safety := { s.safety with cause := s.safety.cause ||| BitVec.ofNat 16 (2 ^ b) } }
  if s.safety.asserted then s1
  else
    (({ s1 with safety := { s1.safety with asserted := true, alarmP := false, alarmN := true } } : State).raiseUp
      1416).log 0x10 0xFF (leBytes 4 s1.safety.cause.toNat)

/-- A channel fault sets its cause only when its function has ALARM_EN (R290). -/
def State.chanCause (s : State) (p b : Nat) : State :=
  match s.fnOfChan p with
  | some f => if s.safety.alarmEn.getLsbD f then s.setCause b else s
  | none => s

/-! ### Gates (R149 to R156) -/

/-- A firing of timer (1) or TRIG_IN (2) number `n` in one channel: armed WAIT_TRIGs complete, a gated slot takes a
credit. -/
def Chan.fire (kind n : Nat) (c : Chan) : Chan :=
  let started := mapIf (fun w => w.armed && !w.acted && w.desc.gate == kind && w.desc.gateNum == n)
    (fun w => { w with acted := true }) c.started
  if c.cfg.paceSrc = kind ∧ c.cfg.paceNum = n then
    if c.credit < c.cfg.paceDepth then { c with started := started, credit := c.credit + 1 }
    else { c with started := started, dropped := satAdd 8 c.dropped 1 }
  else { c with started := started }

/-- A gate that function `f` holds fires for the channels of `f`. -/
def State.fireGate (s : State) (f kind n : Nat) : State :=
  { s with chans := s.chans.map fun e => (e.1, if e.2.owner.map Prod.fst = some f then e.2.fire kind n else e.2) }

/-! ### Ignored accesses (R311) -/

/-- Counts an ignored access of a function window: kind and offset. -/
def State.ignFn (s : State) (f off kind : Nat) : State :=
  (s.modFn f fun x => { x with ignored := satAdd 32 x.ignored 1, ignOffset := off, ignKind := kind }).raise
    (fnEvent f 5)

/-- Counts an ignored access of the administrative window. -/
def State.ignAdm (s : State) (addr kind : Nat) : State :=
  { s with glob := { s.glob with admIgn := satAdd 32 s.glob.admIgn 1, admIgnOffset := addr, admIgnKind := kind } }

/-- Counts an ignored access by its byte address: the lower half of the window belongs to the functions. -/
def State.ignore (s : State) (addr kind : Nat) : State :=
  if addr < 0x200000 then s.ignFn (addr / 0x20000) (addr % 0x20000) kind else s.ignAdm addr kind

/-! ### Drained (R309) -/

/-- Every channel of the function is HALTED, IDLE or STOPPED with nothing outstanding. -/
def State.fnDrained (s : State) (f : Nat) : Bool :=
  (s.fn f).halted && s.chans.all fun e => !(e.2.owner.map Prod.fst == some f)
    || ((e.2.state == .halted || e.2.state == .idle || e.2.state == .stopped) && s.chanLoad e.1 == 0
        && !e.2.cpl.outstanding)

end Sys2Proof.Machine
end

