-- ==== Sys2Proof/Machine/Crc.lean ====
section
/-! DEFINITION. The CRC-32 of R275 and the CRC-16 of R325, bit by bit. -/

namespace Sys2Proof.Machine

/-- One bit into the CRC-32 register: polynomial 0x04C1_1DB7, least significant bit first (R275). -/
def crc32Bit (r : W32) (b : Bool) : W32 :=
  let r' := r >>> 1
  if r.getLsbD 0 != b then r' ^^^ 0xEDB88320 else r'

def crc32Bits (r : W32) : List Bool → W32
  | [] => r
  | b :: t => crc32Bits (crc32Bit r b) t

/-- Each byte enters with its bit 0 first (R275). -/
def byteBits (b : Byte) : List Bool := (List.range 8).map b.getLsbD

def crc32Byte (r : W32) (b : Byte) : W32 := crc32Bits r (byteBits b)

def crc32Reg (r : W32) : List Byte → W32
  | [] => r
  | b :: t => crc32Reg (crc32Byte r b) t

/-- The CRC-32 of bytes (R275): start all ones, complement the result. -/
def crc32 (l : List Byte) : W32 := ~~~ crc32Reg 0xFFFFFFFF l

/-- One bit into the CRC-16 register: polynomial 0x1021 (R325). -/
def crc16Bit (r : BitVec 16) (b : Bool) : BitVec 16 :=
  let r' := r <<< 1
  if r.getLsbD 15 != b then r' ^^^ 0x1021 else r'

/-- Each byte enters with its bit 7 first (R325). -/
def crc16Byte (r : BitVec 16) (b : Byte) : BitVec 16 :=
  ((List.range 8).map fun i => b.getLsbD (7 - i)).foldl crc16Bit r

/-- The CRC-16 of bytes (R325): start 0xFFFF, not complemented. -/
def crc16 (l : List Byte) : BitVec 16 := l.foldl crc16Byte 0xFFFF

end Sys2Proof.Machine
end

