-- ==== Sys2Proof/Machine/Marver.lean ====
section
/-! DEFINITION. Where the bits of a transfer lie: rows, extents, runs and bursts of both sides (R110, R174 to R183,
R187), the bytes of a burst, the words of a beat, totals and residues (R136). A source is one stream of virtual bytes,
its extents joined; the delivery order is one stream of data bits. -/

namespace Sys2Proof.Machine

/-! ### Counts -/

/-- Rows of a two- or three-dimensional transfer. -/
def Desc.gridRows (d : Desc) : Nat :=
  match d.op with
  | some .copy2d | some .streamOut => d.rows
  | some .copy3d => d.rows * d.planes
  | _ => 1

/-- B of R136. -/
def Desc.totalBits (d : Desc) : Nat :=
  match d.op with
  | some .copy2d | some .streamOut | some .copy3d => 8 * d.length * d.gridRows
  | some .gatherIdx | some .scatterIdx => 8 * d.length * d.entryCount
  | some .blockGather => 36 * d.blockW * d.blockH * d.entryCount
  | some o => if o.isData then 8 * d.length else 0
  | none => 0

/-- The total of R136 in bytes. -/
def Desc.total (d : Desc) : Nat := (d.totalBits + 7) / 8

/-- The descriptor takes a packet from an inbound port. -/
def Desc.takes (d : Desc) : Bool := d.op == some .streamIn || d.op == some .streamInGob

/-- The source is a gob chain. -/
def Desc.fromChain (d : Desc) : Bool :=
  (match d.op with | some o => o.srcSpaces.contains 2 | none => false) && d.srcSpace == 2

/-- The destination is an outbound port, local memory, a gob chain or a remote peer. -/
def Desc.toPort (d : Desc) : Bool :=
  (match d.op with | some o => o.dstSpaces.contains 1 | none => false) && d.dstSpace == 1
def Desc.toRemote (d : Desc) : Bool := d.op == some .remoteWrite
def Desc.fromRemote (d : Desc) : Bool := d.op == some .remoteRead
def Desc.toMemory (d : Desc) : Bool :=
  (match d.op with | some o => o.isData | none => false) && !d.toPort && !d.toRemote

/-- The data lands in the outbound FIFO of its port; that of a REMOTE_READ lands in the bench (R194, R248). -/
def Desc.viaFifo (d : Desc) : Bool := d.toPort && !d.fromRemote

/-- Words of the packet that are written (R122). -/
def Work.takeWords (w : Work) : Nat :=
  match w.pkt with
  | none => 0
  | some p => min p.words.length (wordsFitting w.desc.dstLayout w.desc.length)

/-- Data bits that the work delivers when it is delivered whole. -/
def Work.dataBits (w : Work) : Nat :=
  if w.desc.takes then 36 * w.takeWords
  else match w.clip with | some n => min n w.desc.totalBits | none => w.desc.totalBits

/-! ### Tables -/

/-- Bytes of a table entry (Tables 4-8, 4-9). -/
def Desc.entrySize (d : Desc) : Nat := if d.op == some .frag then 16 else 4
def Desc.tableBytes (d : Desc) : Nat := d.entryCount * d.entrySize

/-- OFFSET, X, Y of an index or block entry; FLEN, LAYOUT, LAST and ADDRESS of a fragment entry. -/
def entOffset (e : BitVec 128) : Int := signed32 (e.toNat % 2 ^ 32)
def entX (e : BitVec 128) : Nat := e.toNat % 2 ^ 16
def entY (e : BitVec 128) : Nat := e.toNat / 2 ^ 16 % 2 ^ 16
def entAddr (e : BitVec 128) : Nat := e.toNat % 2 ^ 52
def entLen (e : BitVec 128) : Nat := e.toNat / 2 ^ 64 % 2 ^ 32
def entLayout (e : BitVec 128) : Nat := e.toNat / 2 ^ 96 % 16
def entLast (e : BitVec 128) : Bool := e.getLsbD 100

/-! ### The source side -/

/-- A row of the source: address, memory bytes, layout, first data bit within the first byte, data bits carried, data
bits that memory holds (the rest are zero, R107), virtual offset and first delivery bit. -/
structure SrcRow where
  addr : Nat
  size : Nat
  layout : Nat
  bo : Nat := 0
  bits : Nat
  held : Nat
  v0 : Nat
  k0 : Nat
  deriving DecidableEq, Repr

/-- Start of row `r` of a plane-and-row grid (R110). -/
def gridAddr (base : Nat) (stride plane : Int) (rows r : Nat) : Int :=
  (base : Int) + (r / rows : Nat) * plane + (r % rows : Nat) * stride

def Desc.srcRowAddr (d : Desc) (r : Nat) : Nat :=
  (gridAddr d.srcAddr d.srcStride (if d.op == some .copy3d then d.srcPlaneStride else 0) d.rows r).toNat
def Desc.dstRowAddr (d : Desc) (r : Nat) : Nat :=
  (gridAddr d.dstAddr d.dstStride (if d.op == some .copy3d then d.dstPlaneStride else 0) d.rows r).toNat

/-- Memory bytes of one row of a block at word `x` (R187), and the first bit within them. -/
def Desc.blockBytes (d : Desc) (x : Nat) : Nat :=
  if isW36X d.srcLayout then 5 * d.blockW
  else min ((36 * (x + d.blockW) + 7) / 8) d.length - 36 * x / 8

/-- Virtual bytes of the first `n` entries' fragments, and their data bits. -/
def fragBytes (es : List (BitVec 128)) : Nat := (es.map fun e => rowBytes (entLayout e) (entLen e)).sum
def fragBits (es : List (BitVec 128)) : Nat := (es.map fun e => 8 * entLen e).sum

/-- Row `i` of the source, once its table entry is decoded (block gather: R117; assumption 85). -/
def Work.srcRow (w : Work) (i : Nat) : Option SrcRow :=
  let d := w.desc
  let len := d.length
  match d.op with
  | some .copy | some .copy2d | some .copy3d | some .streamOut | some .remoteWrite | some .remoteRead =>
    let size := rowBytes d.srcLayout len
    if i < d.gridRows then
      some { addr := d.srcRowAddr i, size := size, layout := d.srcLayout, bits := 8 * len, held := 8 * len,
             v0 := i * size, k0 := i * (8 * len) }
    else none
  | some .gatherIdx =>
    let size := rowBytes d.srcLayout len
    (w.entries[i]?).map fun e =>
      { addr := ((d.srcAddr : Int) + entOffset e).toNat, size := size, layout := d.srcLayout, bits := 8 * len,
        held := 8 * len, v0 := i * size, k0 := i * (8 * len) }
  | some .scatterIdx =>
    let all := d.entryCount * len
    if i = 0 then
      some { addr := d.srcAddr, size := rowBytes d.srcLayout all, layout := d.srcLayout, bits := 8 * all,
             held := 8 * all, v0 := 0, k0 := 0 }
    else none
  | some .frag =>
    (w.entries[i]?).map fun e =>
      { addr := entAddr e, size := rowBytes (entLayout e) (entLen e), layout := entLayout e, bits := 8 * entLen e,
        held := 8 * entLen e, v0 := fragBytes (w.entries.take i), k0 := fragBits (w.entries.take i) }
  | some .blockGather =>
    (w.entries[i / d.blockH]?).map fun e =>
      let base := ((d.srcAddr : Int) + ((entY e + i % d.blockH : Nat) : Int) * d.srcStride).toNat
      let before := ((w.entries.take (i / d.blockH)).map fun q => d.blockH * d.blockBytes (entX q)).sum
      if isW36X d.srcLayout then
        { addr := base + 5 * entX e, size := d.blockBytes (entX e), layout := d.srcLayout, bits := 36 * d.blockW,
          held := min (36 * d.blockW) (8 * len - 36 * entX e),
          v0 := before + i % d.blockH * d.blockBytes (entX e), k0 := i * (36 * d.blockW) }
      else
        { addr := base + 36 * entX e / 8, size := d.blockBytes (entX e), layout := d.srcLayout,
          bo := 36 * entX e % 8, bits := 36 * d.blockW, held := min (36 * d.blockW) (8 * len - 36 * entX e),
          v0 := before + i % d.blockH * d.blockBytes (entX e), k0 := i * (36 * d.blockW) }
  | _ => none

/-- Index of the fragment that holds delivery bit `k`. -/
def fragIndex : List (BitVec 128) → Nat → Nat
  | [], _ => 0
  | e :: t, k => if k < 8 * entLen e then 0 else fragIndex t (k - 8 * entLen e) + 1

/-- The source row that carries delivery bit `k`. -/
def Work.srcRowIndex (w : Work) (k : Nat) : Nat :=
  match w.desc.op with
  | some .blockGather => k / (36 * w.desc.blockW)
  | some .frag => fragIndex w.entries k
  | some .scatterIdx => 0
  | _ => k / (8 * w.desc.length)

/-- A source byte in the crucible. -/
def landedByte : List Seg → Nat → Option Byte
  | [], _ => none
  | g :: t, v => if g.off ≤ v ∧ v < g.off + g.bytes.length then g.bytes[v - g.off]? else landedByte t v

/-- Virtual byte and bit that hold data bit `j` of a row (R174, R176). -/
def SrcRow.place (r : SrcRow) (j : Nat) : Nat × Nat :=
  if isW36X r.layout then (r.v0 + 5 * (j / 36) + j % 36 / 8, j % 36 % 8)
  else (r.v0 + (r.bo + j) / 8, (r.bo + j) % 8)

/-- Delivery bit `k`, once it is in the crucible. -/
def Work.bit (w : Work) (k : Nat) : Option Bool :=
  if w.desc.takes then (w.pkt.bind fun p => p.words[k / 36]?).map fun x => x.getLsbD (k % 36)
  else
    match w.srcRow (w.srcRowIndex k) with
    | none => none
    | some r =>
      if k - r.k0 < r.held then
        (landedByte w.landed (r.place (k - r.k0)).1).map fun b => b.getLsbD (r.place (k - r.k0)).2
      else some false

/-- Delivery bits `k` to `k + n − 1`. -/
def Work.bits (w : Work) (k n : Nat) : Option (List Bool) := (List.range n).mapM fun i => w.bit (k + i)

/-- The number that bits spell, the first one lowest. -/
def ofBits : List Bool → Nat
  | [] => 0
  | b :: t => (if b then 1 else 0) + 2 * ofBits t

/-- Extent `e` of the source (R180, R181): start and size. `poolBase` is CU_POOL_BASE. -/
def Work.srcExt (w : Work) (poolBase e : Nat) : Option (Nat × Nat) :=
  let d := w.desc
  if d.fromChain then
    let need := rowBytes d.srcLayout d.length
    let before := ((w.gobs.take e).map ChainGob.bytes).sum
    (w.gobs[e]?).bind fun g =>
      if before < need then some (poolBase + g.gob * 4096, min g.bytes (need - before)) else none
  else
    match d.op with
    | some .copy2d | some .copy3d | some .streamOut =>
      let size := rowBytes d.srcLayout d.length
      let per := if d.srcStride = (size : Int) then d.rows else 1
      if e * per < d.gridRows then some (d.srcRowAddr (e * per), size * per) else none
    | some .remoteRead | some .streamIn | some .streamInGob => none
    | _ => (w.srcRow e).map fun r => (r.addr, r.size)

/-! ### The destination side -/

/-- Data bits and memory bytes of one row of a memory destination, and its layout. -/
def Work.dstRowBits (w : Work) : Nat :=
  match w.desc.op with
  | some .copy2d | some .copy3d | some .scatterIdx => 8 * w.desc.length
  | _ => w.dataBits
def Work.dstRowBytes (w : Work) : Nat :=
  let l := w.desc.dstLayout
  match w.desc.op with
  | some .copy2d | some .copy3d | some .scatterIdx => rowBytes l w.desc.length
  | some .streamIn | some .streamInGob => wordBytes l w.takeWords
  | some .blockGather => wordBytes l (w.desc.blockW * w.desc.blockH * w.desc.entryCount)
  | _ => if isW36X l then w.dataBits / 36 * 5 + (w.dataBits % 36 + 7) / 8 else (w.dataBits + 7) / 8

/-- Data bits of a row before memory byte `o` of it. -/
def bitsBefore (layout rowBits o : Nat) : Nat :=
  min rowBits (if isW36X layout then 36 * (o / 5) + min (8 * (o % 5)) 36 else 8 * o)

/-- Delivery bits before destination byte `v`. -/
def Work.dstBitsBefore (w : Work) (v : Nat) : Nat :=
  v / w.dstRowBytes * w.dstRowBits + bitsBefore w.desc.dstLayout w.dstRowBits (v % w.dstRowBytes)

/-- Destination byte `v`, with the zero bits of R107, R122 and R176. -/
def Work.dstByte (w : Work) (v : Nat) : Option Byte :=
  let o := v % w.dstRowBytes
  let lo := bitsBefore w.desc.dstLayout w.dstRowBits o
  let hi := bitsBefore w.desc.dstLayout w.dstRowBits (o + 1)
  (w.bits (v / w.dstRowBytes * w.dstRowBits + lo) (hi - lo)).map fun l => BitVec.ofNat 8 (ofBits l)

def Work.dstBytes (w : Work) (v n : Nat) : Option (List Byte) := (List.range n).mapM fun i => w.dstByte (v + i)

/-- Extent `e` of a memory destination: address, size and first destination byte. -/
def Work.dstExt (w : Work) (poolBase e : Nat) : Option (Nat × Nat × Nat) :=
  let d := w.desc
  match d.op with
  | some .copy2d | some .copy3d =>
    let per := if d.dstStride = (w.dstRowBytes : Int) then d.rows else 1
    if e * per < d.gridRows then some (d.dstRowAddr (e * per), w.dstRowBytes * per, e * per * w.dstRowBytes) else none
  | some .scatterIdx =>
    (w.entries[e]?).map fun q => (((d.dstAddr : Int) + entOffset q).toNat, w.dstRowBytes, e * w.dstRowBytes)
  | some .streamInGob =>
    (w.gobs[e]?).bind fun g =>
      if 4096 * e < w.dstRowBytes then
        some (poolBase + g.gob * 4096, min 4096 (w.dstRowBytes - 4096 * e), 4096 * e)
      else none
  | _ => if e = 0 ∧ 0 < w.dstRowBytes then some (d.dstAddr, w.dstRowBytes, 0) else none

/-- Destination bytes of the whole work. -/
def Work.dstTotal (w : Work) : Nat :=
  match w.desc.op with
  | some .copy2d | some .copy3d => w.desc.gridRows * w.dstRowBytes
  | some .scatterIdx => w.desc.entryCount * w.dstRowBytes
  | _ => w.dstRowBytes

/-! ### Bursts (R182) -/

/-- The burst of an extent [start, start + size) at `pos` bytes into it: AxADDR, beats, first byte, bytes. -/
structure Burst where
  addr : Nat
  beats : Nat
  lo : Nat
  len : Nat
  deriving DecidableEq, Repr

def burstAt (start size pos : Nat) : Burst :=
  let a := (start + pos) / 128 * 128
  let last := (start + size + 127) / 128 * 128
  let b := min last ((a / 1024 + 1) * 1024)
  { addr := a, beats := (b - a) / 128, lo := start + pos, len := min (start + size) b - (start + pos) }

/-! ### Words of an outbound packet (R121, R177, R202) -/

/-- Data bits of one row of words on a stream port. -/
def Work.outRowBits (w : Work) : Nat :=
  match w.desc.op with
  | some .streamOut => 8 * w.desc.length
  | some .blockGather => 36 * w.desc.blockW * w.desc.blockH
  | _ => w.dataBits
def Work.outRowWords (w : Work) : Nat := (w.outRowBits + 35) / 36
/-- Words and packets of the transfer; words of one packet. -/
def Work.outTotal (w : Work) : Nat :=
  match w.desc.op with
  | some .streamOut => w.outRowWords * w.desc.gridRows
  | some .blockGather => w.outRowWords * w.desc.entryCount
  | _ => w.outRowWords
def Work.packetWords (w : Work) : Nat :=
  match w.desc.op with
  | some .blockGather => w.outRowWords
  | _ => w.outTotal

/-- Delivery bits before word `n`. -/
def Work.wordBitsBefore (w : Work) (n : Nat) : Nat :=
  n / w.outRowWords * w.outRowBits + min w.outRowBits (36 * (n % w.outRowWords))
/-- Delivery bits up to and with word `n`. -/
def Work.wordBitsAfter (w : Work) (n : Nat) : Nat :=
  n / w.outRowWords * w.outRowBits + min w.outRowBits (36 * (n % w.outRowWords) + 36)

/-- Word `n`, once all its data bits are in the crucible; the bits above the data are zero. -/
def Work.outWord (w : Work) (n : Nat) : Option Word36 :=
  (w.bits (w.wordBitsBefore n) (w.wordBitsAfter n - w.wordBitsBefore n)).map fun l => BitVec.ofNat 36 (ofBits l)

/-! ### Delivered prefix and residue (R136) -/

/-- Inserts a range into a list of disjoint, rising ranges, joining those that touch. -/
def addRange (lo hi : Nat) : List (Nat × Nat) → List (Nat × Nat)
  | [] => [(lo, hi)]
  | (a, b) :: t =>
    if hi < a then (lo, hi) :: (a, b) :: t
    else if b < lo then (a, b) :: addRange lo hi t
    else addRange (min lo a) (max hi b) t

/-- D: the length of the run of delivered bits that starts at bit 0. -/
def Work.prefixBits (w : Work) : Nat :=
  match w.delivered with
  | (0, b) :: _ => b
  | _ => 0

/-- D of R136: a packet written whole in a dense layout counts the zero bits of its last byte, which lie in the buffer
written (R122); the pad bits of W36X count nowhere (R176; assumption 30). -/
def Work.usedBits (w : Work) : Nat :=
  if w.desc.takes ∧ !isW36X w.desc.dstLayout ∧ w.pkt.isSome ∧ 0 < w.takeWords ∧ w.prefixBits = w.dataBits then
    8 * wordBytes w.desc.dstLayout w.takeWords
  else w.prefixBits

/-- RESIDUE in full. -/
def Work.residue (w : Work) : Nat := (w.desc.totalBits - w.usedBits + 7) / 8

/-- The half mark of R101 in bytes. -/
def Desc.halfMark (d : Desc) : Nat := max 1 (d.total / 2)

/-! ### Segments (R277) -/

def Work.segments (m : Member) (w : Work) : Nat :=
  if m.safetyFull then (w.dataBits + 131071) / 131072 else 0

end Sys2Proof.Machine
end

