-- ==== Sys2Proof/Machine/Cells.lean ====
section
/-! DEFINITION. Shared operations of the crucible and the stream ports: who holds how many cells (R191 to R195),
watermarks (R203, R204), error counts (R213, R214), and the forming and killing of outbound packets (R202, R272). -/

namespace Sys2Proof

/-! ### Check bits (R189) -/

def CruFault.cell (f : CruFault) : Nat := f.addr.toNat / 64
/-- The bank of a cell (R189). -/
def CruFault.bank (f : CruFault) : Nat := f.cell % 16
/-- Bits of the stored word that have turned over. -/
def CruFault.wrong (f : CruFault) : Nat := ((List.range 44).filter fun i => f.flips.getLsbD i).length
/-- A double-bit error or an address mismatch (R214); more wrong bits are taken as uncorrectable too (assumption 11). -/
def CruFault.uncorrectable (f : CruFault) : Bool := f.stored != f.addr || decide (2 ≤ f.wrong)
/-- A single-bit error (R213). -/
def CruFault.corrected (f : CruFault) : Bool := f.stored == f.addr && f.wrong == 1

end Sys2Proof

namespace Sys2Proof.Machine

/-! ### Cells -/

/-- Word slots of a list of position ranges. -/
def rangesLen (l : List (Nat × Nat)) : Nat := (l.map fun r => r.2 - r.1).sum

/-- Word slots that are filled and not released. -/
def Port.slots (p : Port) : Nat := p.tailPos - p.headPos - rangesLen p.gone

/-- Word slots that a FIFO holds, with landing reserved on an outbound port (R199). -/
def Port.level (p : Port) : Nat := p.slots + p.reserved

/-- Some slot of the FIFO's cell number `c` is not released. -/
def Port.cellHeld (p : Port) (c : Nat) : Bool :=
  !(p.gone.any fun r => decide (r.1 ≤ max (64 * c) p.headPos) && decide (min (64 * c + 64) p.tailPos ≤ r.2))

/-- Numbers of the cells in the FIFO: those with a slot that is not released (R195; assumption 11). -/
def Port.cellList (p : Port) : List Nat :=
  if p.tailPos = p.headPos then []
  else ((List.range ((p.tailPos + 63) / 64 - p.headPos / 64)).map fun j => p.headPos / 64 + j).filter p.cellHeld

/-- Cells in the FIFO, with those of its landing reserve. -/
def Port.cells (p : Port) : Nat := p.cellList.length + (p.reserved + 63) / 64

/-- Cells that all holders keep out of the shared pool: the larger of reserve and holding of each (R191). -/
def State.cellsKept (s : State) : Nat :=
  ((s.ports.map fun e => max e.2.reserve e.2.cells).sum)
    + ((List.range s.member.benches).map fun b => max (s.bench b).laneRes (s.bench b).laneCells).sum

/-- G_CRU_FREE: cells in the shared pool. -/
def State.cruFree (s : State) : Nat := s.member.reservable - s.cellsKept

/-- G_CRU_RES: the sum of the lane and FIFO reserves. -/
def State.cruReserved (s : State) : Nat :=
  (s.ports.map fun e => e.2.reserve).sum + ((List.range s.member.benches).map fun b => (s.bench b).laneRes).sum

/-- A holder with `held` cells may take `n` more (R191, R192). -/
def State.mayTakeCells (s : State) (held reserve limit n : Nat) : Bool :=
  decide (held + n ≤ limit) && (decide (held + n ≤ reserve) || decide (held + n - max held reserve ≤ s.cruFree))

/-- Cells of a lane landing: 29 word slots a beat (R194). -/
def landingCells (beats : Nat) : Nat := (29 * beats + 63) / 64

/-- A read burst of bench `b` is on its way into the drain cells. -/
def State.drainBusy (s : State) (b : Nat) : Bool :=
  s.txns.any (fun t => t.landing == .drain && (t.purpose.pch?.map benchOf) == some b)
    || s.xez.reqs.any fun q => q.landing == .drain && benchOf q.pch == b

/-- Where a read burst of `beats` beats toward memory, a chain or a peer lands: the lane pool, else the drain cells, one
burst at a time (R193; assumption 92). -/
def State.laneLanding (s : State) (b beats : Nat) : Option Landing :=
  let x := s.bench b
  let n := landingCells beats
  if s.mayTakeCells x.laneCells x.laneRes x.laneLim n then some .lane
  else if !s.drainBusy b && decide (x.drainCells + n ≤ s.member.drainPerBench) then some .drain
  else none

/-- A word slot is free for the next inbound beat: in the tail cell, or in a cell that the FIFO may add (R191, R207). -/
def State.hasRoom (s : State) (p : Nat) : Bool :=
  let x := s.port p
  (x.tailPos != x.headPos && decide (x.tailPos % 64 ≠ 0)) || s.mayTakeCells x.cells x.reserve x.limit 1

/-- Number of the next cell that a landing takes, counted over the cells that its holder has taken. -/
def State.nextCell (s : State) (b : Nat) : Landing → Nat
  | .lane | .drain => (s.bench b).taken
  | .port p => (s.port p).cellBase
  | .none => 0

/-- Takes or returns cells of a bench. -/
def State.takeLane (s : State) (b : Nat) (l : Landing) (n : Nat) : State :=
  match l with
  | .lane => s.modBench b fun x => { x with laneCells := x.laneCells + n, taken := x.taken + n }
  | .drain => s.modBench b fun x => { x with drainCells := x.drainCells + n, taken := x.taken + n }
  | .port p => s.modPort p fun x => { x with reserved := x.reserved + n, cellBase := x.cellBase + (n + 63) / 64 }
  | .none => s
def State.freeLane (s : State) (b : Nat) (l : Landing) (n : Nat) : State :=
  match l with
  | .lane => s.modBench b fun x => { x with laneCells := x.laneCells - n }
  | .drain => s.modBench b fun x => { x with drainCells := x.drainCells - n }
  | .port p => s.modPort p fun x => { x with reserved := x.reserved - n }
  | .none => s

/-- The landing of a segment of a piece of work. -/
def segLanding (w : Work) (g : Seg) : Landing :=
  if w.desc.viaFifo then .port w.desc.dstAddr else if g.drain then .drain else .lane

/-! ### Watermarks (R203, R204) -/

/-- Compares the level of an enabled port with its watermarks; with HIGH_WM 0 the state stays 1 (R197) (assumption
36). -/
def State.compareWm (s : State) (p : Nat) : State :=
  let x := s.port p
  if !x.enable then s
  else if !x.xoff && decide (x.highWm ≤ x.level) then
    (s.setPort p { x with xoff := true, wmHighSeen := true, highCross := satAdd 16 x.highCross 1 }).raise
      (portEvent p 0)
  else if x.xoff && decide (x.level ≤ x.lowWm) && decide (0 < x.highWm) then
    (s.setPort p { x with xoff := false, wmLowSeen := true, lowCross := satAdd 16 x.lowCross 1 }).raise
      (portEvent p 1)
  else s

/-- The FC_XOFF pin of a port (Table 12-4, R197, R51). A port that is configured outbound and not enabled drives its
FCX_RST state, as R328 has it until an enable (assumption 106). -/
def State.fcXoff (s : State) (p : Nat) : Bool :=
  let x := s.port p
  if !s.opt.loaded then true
  else if !sclkUp s p then s.opt.fcxRst.getLsbD (p / 16)
  else if x.enable && x.dirOut then false
  else if x.enable then x.xoff
  else s.opt.fcxRst.getLsbD (p / 16)

/-! ### Positions -/

/-- Moves the head over released slots; positions restart when the FIFO is empty. -/
def Port.tidy (p : Port) : Port :=
  let q := match p.gone with
    | (a, b) :: t => if a ≤ p.headPos then { p with headPos := max p.headPos b, gone := t } else p
    | [] => p
  if q.slots = 0 then { q with headPos := 0, tailPos := 0, gone := [], cellBase := q.cellBase + (q.tailPos + 63) / 64 }
  else q

/-- The slot at position `i` is released. -/
def Port.free (p : Port) (i : Nat) : Port := { p with gone := addRange i (i + 1) p.gone : Port }.tidy

/-- `n` word slots leave the tail of the FIFO. -/
def Port.retract (p : Port) (n : Nat) : Port := { p with tailPos := p.tailPos - n : Port }.tidy

/-! ### Error counts (R213, R214) -/

/-- The counts and the event of one faulty word; the alarm of an uncorrectable error is the caller's. -/
def State.countFault (s : State) (f : CruFault) : State :=
  if f.uncorrectable then
    ({ s with cru := { s.cru with ue := put s.cru.ue f.bank (satAdd 16 (look 0 s.cru.ue f.bank) 1) } } : State).raise
      (1432 + f.bank)
  else if f.corrected then
    let n := satAdd 16 (look 0 s.cru.ce f.bank) 1
    let s1 : State := { s with cru := { s.cru with ce := put s.cru.ce f.bank n } }
    if s.cru.thresh ≠ 0 ∧ n % s.cru.thresh = 0 then s1.raise (1432 + f.bank) else s1
  else s

/-- The faulty words of a crucible read. -/
def State.countEcc (s : State) (l : List CruFault) : State := l.foldl State.countFault s

/-- One of the words cannot be corrected. -/
def eccUe (l : List CruFault) : Bool := l.any CruFault.uncorrectable

/-- The crucible address of word `i` of what holder `h` keeps in its cells from number `n` on. -/
def State.cruAddr (s : State) (h n i : Nat) : BitVec 22 :=
  BitVec.ofNat 22 ((Config.cellOf h (n + i / 64)).toNat % s.member.cells * 64 + i % 64)

/-- Words `i` to `i + k − 1` of a holder are written: a scrub rewrite of one of them that waits is out of date (R216). -/
def State.wrote (s : State) (h n i k : Nat) : State :=
  let hit := fun (r : Rewrite) => (List.range k).any fun j => s.cruAddr h n (i + j) == r.addr
  { s with cru := { s.cru with rewrites := mapIf hit (fun r => { r with written := true }) s.cru.rewrites } }

/-- The holder number of a landing's cells. -/
def Landing.holder (b : Nat) : Landing → Nat
  | .lane => 64 + b
  | .drain => 72 + b
  | .port p => p
  | .none => 0

/-! ### Data CRC (R134, R276, R300) -/

/-- Takes data bits from delivery bit `k` on into the write-side CRC registers of their segments (R277). -/
def segTake (t : Tbl W32) (k : Nat) : List Bool → Tbl W32
  | [] => t
  | b :: l => segTake (put t (k / 131072) (crc32Bit (look 0xFFFFFFFF t (k / 131072)) b)) (k + 1) l

/-- The CRC registers after the data bits from the last one taken up to bit `hi`: the data CRC and the write side of the
segment check (R134, R277, R300: each bit once, at its first writing). -/
def Work.takeCrc (w : Work) (hi : Nat) : Work :=
  if hi ≤ w.crcBits then w
  else
    match w.bits w.crcBits (hi - w.crcBits) with
    | some l => { w with crcBits := hi, crcReg := crc32Bits w.crcReg l, segWrite := segTake w.segWrite w.crcBits l }
    | none => { w with crcBits := hi }

/-- Data bits of segment `g` (R277). -/
def Work.segLen (w : Work) (g : Nat) : Nat := min 131072 (w.dataBits - 131072 * g)

/-- What a set bit at delivery position `k` adds to its segment's CRC, whenever it comes: the register is linear in its
bits, and reads return in any order (R42). -/
def Work.segTerm (w : Work) (k : Nat) : W32 :=
  crc32Bits 0 (true :: List.replicate (w.segLen (k / 131072) - 1 - k % 131072) false)

/-- The delivery position of data bits `k` of the source that lie in source bytes `v` to `v + n − 1`, with their bits. -/
def Work.sourceBits (w : Work) (v : Nat) (bytes : List Byte) : List Nat :=
  (List.range w.dataBits).filter fun k =>
    match w.srcRow (w.srcRowIndex k) with
    | some r =>
      decide (k - r.k0 < r.held) && decide (v ≤ (r.place (k - r.k0)).1)
        && ((bytes[(r.place (k - r.k0)).1 - v]?).map fun b => b.getLsbD (r.place (k - r.k0)).2) == some true
    | none => false

/-- Set bits at these delivery positions enter the read side of the segment check. -/
def Work.takeRead (w : Work) (ks : List Nat) : Work :=
  { w with segRead := ks.foldl (fun t k => put t (k / 131072) (look 0 t (k / 131072) ^^^ w.segTerm k)) w.segRead }

/-- The set data bits of an inbound packet's words that are written (R277). -/
def Work.packetBits (w : Work) : List Nat :=
  match w.pkt with
  | none => []
  | some p => (List.range w.dataBits).filter fun k => ((p.words[k / 36]?).map fun x => x.getLsbD (k % 36)) == some true

/-- The read-side CRC of segment `g`: the gathered terms on a register that starts at all ones (R275). -/
def Work.segReadCrc (w : Work) (g : Nat) : W32 :=
  ~~~ (look 0 w.segRead g ^^^ crc32Bits 0xFFFFFFFF (List.replicate (w.segLen g) false))
/-- The write-side CRC of segment `g`. -/
def Work.segWriteCrc (w : Work) (g : Nat) : W32 := ~~~ look 0xFFFFFFFF w.segWrite g

/-! ### Words that wait in the crucible (R194, R195) -/

/-- A started, live piece of work: not abandoned and with no verdict. -/
def Work.live (w : Work) : Bool := !w.abandoned && w.verdict.isNone

/-- Data bits of a source row that lie before memory byte `o` of it. -/
def SrcRow.before (r : SrcRow) (o : Nat) : Nat :=
  if r.size ≤ o then r.bits
  else min r.held (if isW36X r.layout then 36 * (o / 5) + min (8 * (o % 5)) 36 else 8 * o - r.bo)

/-- Rows that the source has so far. -/
def Work.srcRows (w : Work) : Nat :=
  match w.desc.op with
  | some .gatherIdx | some .frag => w.entries.length
  | some .blockGather => w.entries.length * w.desc.blockH
  | some .scatterIdx => 1
  | _ => w.desc.gridRows

/-- Delivery bits that lie before source byte `v`. -/
def Work.srcBitsBefore (w : Work) (v : Nat) : Nat :=
  min w.dataBits ((List.range w.srcRows).map fun i =>
    match w.srcRow i with
    | some r => if v ≤ r.v0 then 0 else r.before (v - r.v0)
    | none => 0).sum

/-- Words of a transfer that begin before delivery bit `k`. -/
def Work.wordAt (w : Work) (k : Nat) : Nat := k / w.outRowBits * w.outRowWords + (k % w.outRowBits + 35) / 36

/-- What source bytes `off` to `off + n − 1` bring: the first word touched, the first word begun, and the word after the
last one begun. -/
def Work.wordSpan (w : Work) (off n : Nat) : Nat × Nat × Nat :=
  let k := w.srcBitsBefore off
  (k / w.outRowBits * w.outRowWords + k % w.outRowBits / 36, w.wordAt k, w.wordAt (w.srcBitsBefore (off + n)))

/-- A write burst or a request frame of the work that carries one of these delivery bits waits for its answer. -/
def State.inFlight (s : State) (p serial lo hi : Nat) : Bool :=
  s.txns.any (fun t => match t.purpose with
      | .dataWrite q n a b => q == p && n == serial && decide (a < hi) && decide (lo < b)
      | _ => false)
    || s.xez.reqs.any fun q => q.pch == p && q.serial == serial && !q.abandoned && !q.payload.isEmpty
        && decide (8 * q.vlo < hi) && decide (lo < 8 * (q.vlo + q.len))

/-- Every bit of word `i` is delivered. -/
def Work.wordDelivered (w : Work) (i : Nat) : Bool :=
  w.delivered.any fun r => decide (r.1 ≤ w.wordBitsBefore i) && decide (w.wordBitsAfter i ≤ r.2)

/-- Word `i` of the work is not released yet (R195): an outbound one until its beat is written into the outbound queue,
any other until the response or acknowledgement that covers it. Work that has failed or is abandoned keeps only what its
issued writes carry. -/
def State.keepsWord (s : State) (p : Nat) (w : Work) (i : Nat) : Bool :=
  if w.desc.toPort then w.live && decide (w.outWords ≤ i)
  else if w.live then !w.wordDelivered i
  else s.inFlight p w.serial (w.wordBitsBefore i) (w.wordBitsAfter i)

/-- Word slot `i` of a taken packet is not released yet: padding and words beyond the capacity go with the last word. -/
def State.keepsSlot (s : State) (p : Nat) (w : Work) (i : Nat) : Bool :=
  if i < w.takeWords then s.keepsWord p w i else w.live && decide (w.prefixBits ≠ w.dataBits)

/-- Word slots, or cells, that a landed segment holds while the words `keep` stay (R195). -/
def Seg.holds (g : Seg) (port : Bool) (keep : Nat → Bool) : Nat :=
  let ws := (List.range (g.last - g.first)).filter fun i => keep (g.first + i)
  if port then min g.space ws.length
  else min g.space ((List.range ((g.last - g.first + 63) / 64)).filter fun c => ws.any fun i => i / 64 == c).length

/-- The segments after their releases. -/
def trimSegs (port : Bool) (keep : Nat → Bool) (l : List Seg) : List Seg :=
  (l.filter fun g => (List.range (g.last - g.touch)).any fun i => keep (g.touch + i)).map fun g =>
    { g with space := g.holds port keep }

/-- Releases the words of a piece of work that nothing keeps any more, and frees their cells (R195). -/
def State.trimWork (s : State) (p : Nat) (w : Work) : State :=
  match w.pkt with
  | some k =>
    if k.slots = 0 then s
    else
      let free := (List.range k.slots).filter fun i => !s.keepsSlot p w i
      let s1 := s.modPort w.desc.srcAddr fun x => free.foldl (fun x i => x.free (k.pos + i)) x
      if free.length = k.slots then s1.modWork p w.serial fun x => { x with pkt := some { k with slots := 0 } } else s1
  | none =>
    let l := trimSegs w.desc.viaFifo (s.keepsWord p w) w.landed
    (w.landed.foldl (fun t g => t.freeLane (benchOf p) (segLanding w g)
        (g.space - g.holds w.desc.viaFifo (s.keepsWord p w))) s).modWork p w.serial fun x => { x with landed := l }

/-- Every release that is due (R195). -/
def State.trim (s : State) : State :=
  s.chans.foldl (fun t e => e.2.started.foldl (fun u w => u.trimWork e.1 w) t) s

/-- Returns all the crucible space of a piece of work. -/
def State.dropSpace (s : State) (p : Nat) (w : Work) : State :=
  let s1 := w.landed.foldl (fun t g => t.freeLane (benchOf p) (segLanding w g) g.space) s
  match w.pkt with
  | some k => s1.modPort w.desc.srcAddr fun x => (List.range k.slots).foldl (fun x i => x.free (k.pos + i)) x
  | none => s1

/-- Words in the outbound FIFO of a piece of work. -/
def Work.fifoWords (w : Work) : Nat := (w.landed.map Seg.space).sum

/-- Words that outbound FIFO `p` holds. -/
def State.fifoWords (s : State) (p : Nat) : Nat :=
  (s.chans.map fun e => ((e.2.started.filter fun w => w.desc.viaFifo && w.desc.dstAddr == p).map Work.fifoWords).sum).sum

/-- A FIFO holds a word (R196). -/
def State.portHolds (s : State) (p : Nat) : Bool := decide (0 < (s.port p).slots) || decide (0 < s.fifoWords p)

/-- The works that take a packet of inbound port `q` and have words of it still to read (R211): PCH and serial. -/
def State.takingPort (s : State) (q : Nat) : List (Nat × Nat) :=
  s.chans.flatMap fun e => (e.2.started.filter fun w => w.live && w.desc.takes && w.desc.srcAddr == q && w.pkt.isSome
    && decide (w.crcBits < w.dataBits)).map fun w => (e.1, w.serial)

/-- SP_STAT.FULL falls at the first edge after the refusal at which a beat can be taken (R207): `s0` is the state before
this edge. -/
def State.clearFull (s0 s : State) : State :=
  { s with ports := s.ports.map fun e =>
      (e.1, if (s0.port e.1).full && s.hasRoom e.1 then { e.2 with full := false } else e.2) }

/-! ### Outbound packets (R198, R202, R272) -/

/-- Words of the next beat of a work's packet, once they are in the crucible. -/
def Work.nextBeat (w : Work) : Option (List Word36) :=
  let inPkt := w.outWords % w.packetWords
  if w.outTotal ≤ w.outWords then none
  else (List.range (min 4 (w.packetWords - inPkt))).mapM fun i => w.outWord (w.outWords + i)

/-- Forms beats of the packet whose turn it is, from the words that have landed, and writes them into the outbound
queue while it has room. -/
def State.pumpPort (fuel : Nat) (s : State) (p : Nat) : State :=
  match fuel with
  | 0 => s
  | n + 1 =>
    let x := s.port p
    match x.takers with
    | [] => s
    | (pch, serial) :: rest =>
      match s.work? pch serial with
      | none => s
      | some w =>
        if Queue.depth .streamOutbound ≤ x.outq.length then s
        else
          match w.nextBeat with
          | none => s
          | some ws =>
            let pkt := w.outWords / w.packetWords
            let fin := decide ((w.outWords + ws.length) % w.packetWords = 0)
            let beat : OutBeat := { words := ws, last := fin, serial := serial, pkt := pkt,
                                    gap := x.gapNext && !s.member.flagPolicy }
            let w1 := w.takeCrc (w.wordBitsAfter (w.outWords + ws.length - 1))
            let s1 := s.modWork pch serial fun _ => { w1 with outWords := w.outWords + ws.length }
            (s1.setPort p { x with outq := x.outq ++ [beat], gapNext := false,
                                   takers := if fin then rest else x.takers }).pumpPort n p

/-- As many beats as the outbound queue holds can be formed at a time. -/
def State.pump (s : State) (p : Nat) : State := s.pumpPort 32 p

/-! ### The outbound pins (R48 to R50, Table 2-5) -/

/-- TDATA of a beat: word j at [36j+35:36j], the words that are not valid zero. -/
def OutBeat.tdata (b : OutBeat) : BitVec 144 :=
  BitVec.ofNat 144 (b.words.getD 0 0).toNat ||| BitVec.ofNat 144 ((b.words.getD 1 0).toNat * 2 ^ 36)
    ||| BitVec.ofNat 144 ((b.words.getD 2 0).toNat * 2 ^ 72) ||| BitVec.ofNat 144 ((b.words.getD 3 0).toNat * 2 ^ 108)

/-- TUSER of a beat: WORDS, ABORT_PKT, GAP. -/
def OutBeat.tuser (b : OutBeat) : BitVec 5 :=
  BitVec.ofNat 5 ((if b.abort then 0 else if b.last then b.words.length else 4) + (if b.abort then 8 else 0)
    + (if b.gap then 16 else 0))

/-- The outbound set of a port. -/
structure StreamPins where
  tvalid : Bool := false
  tdata : BitVec 144 := 0
  tkeep : BitVec 18 := BitVec.allOnes 18
  tlast : Bool := false
  tuser : BitVec 5 := 0
  deriving DecidableEq, Repr

/-- A beat is presented on the port: the head of the queue, unless it is a TLAST beat that is not released. -/
def Port.presented (p : Port) : Option OutBeat :=
  match p.outq with
  | [] => none
  | b :: _ => if b.last && !b.abort && !p.released.contains (b.serial, b.pkt) then none else some b

/-- What the outbound set of port `p` drives: TVALID low while the port is not an enabled outbound one. -/
def State.streamPins (s : State) (p : Nat) : StreamPins :=
  match (s.port p).presented with
  | some b =>
    if (s.port p).enable && (s.port p).dirOut && sclkUp s p then
      { tvalid := true, tdata := b.tdata, tlast := b.last, tuser := b.tuser }
    else {}
  | none => {}

/-- TREADY of the inbound set (R50). -/
def State.inboundReady (s : State) (p : Nat) : Bool := (s.port p).enable && !(s.port p).dirOut && sclkUp s p

/-- The beat belongs to a packet of `serial` that is not released. -/
def Port.unreleased (p : Port) (serial : Nat) (b : OutBeat) : Bool :=
  b.serial == serial && !b.abort && !p.released.contains (serial, b.pkt)

/-- The kill of R272: the unreleased packets of a work lose every beat not presented, and an abort beat ends the one that
had reached the outbound queue. -/
def State.killPort (s : State) (p pch : Nat) (w : Work) : State :=
  let x := s.port p
  let keep := match x.presented with
    | some b => if x.unreleased w.serial b then 1 else 0
    | none => 0
  let head := x.outq.take keep
  let tail := (x.outq.drop keep).filter fun b => !x.unreleased w.serial b
  let started := decide (w.outWords % w.packetWords ≠ 0) || x.outq.any (x.unreleased w.serial)
  let pkt := (w.outWords - 1) / w.packetWords
  let before := (x.outq.drop keep).takeWhile fun b => !x.unreleased w.serial b
  let ab : OutBeat := { words := [], last := true, serial := w.serial, pkt := pkt, abort := true,
                        gap := (x.outq.drop keep).any fun b => x.unreleased w.serial b && b.gap }
  s.setPort p { x with
    outq := if started then head ++ before ++ [ab] ++ tail.drop before.length else x.outq
    takers := x.takers.filter fun t => !(t.1 == pch && t.2 == w.serial)
    claim := if x.claim = some (pch, w.serial) then none else x.claim }

/-- An abort beat of this work waits on its port. -/
def State.abortBeatWaits (s : State) (serial : Nat) : Bool :=
  s.ports.any fun e => e.2.outq.any fun b => b.serial == serial && b.abort

end Sys2Proof.Machine
end

