-- ==== Sys2Proof/Machine/Pool.lean ====
section
/-! DEFINITION. Shared operations of the Cullet: records (Table 8-2), quotas (R225, R241), freeing (R236), quarantine
(R224) and pins (R232). -/

namespace Sys2Proof.Machine

/-! ### Records -/

def GobState.code : GobState → Nat
  | .free => 0 | .building => 1 | .head => 2 | .member => 3

/-- Bytes 0 to 11 of a record. Fields that do not apply are zero. -/
def GobRec.body (r : GobRec) : List Byte :=
  let q := r.next + (if r.last then 2 ^ 27 else 0) + r.state.code * 2 ^ 28 + (if r.quar then 2 ^ 30 else 0)
    + r.gen * 2 ^ 32 + r.fill * 2 ^ 37
  let head := r.state == .head || r.state == .building
  leBytes 8 (q + (if head then r.freerFn * 2 ^ 49 + r.freerSlot * 2 ^ 53 + r.allocFn * 2 ^ 60 else 0))
    ++ leBytes 4 (if head then r.holdMask.toNat else if r.state == .member then r.head + r.headGen * 2 ^ 27 else 0)

/-- The 16 bytes of gob `g`'s record, with CHECK. -/
def GobRec.bytes (r : GobRec) (g : Nat) : List Byte :=
  r.body ++ leBytes 4 (crc32 (r.body ++ leBytes 4 g)).toNat

/-- Generations run from 1 to 31 (R222). -/
def nextGen (g : Nat) : Nat := if g = 31 then 1 else g + 1

def handleOf (gen gob : Nat) : Nat := gen * 2 ^ 27 + gob
def handleGen (h : Nat) : Nat := h / 2 ^ 27 % 32
def handleGob (h : Nat) : Nat := h % 2 ^ 27

def State.gobRec (s : State) (g : Nat) : GobRec := look {} s.cul.records g

/-- Writes a gob's record: one device-owned 16-byte write with AxQOS 2 (R220). -/
def State.writeRec (s : State) (g : Nat) (r : GobRec) : State :=
  let addr := s.cul.metaBase + 16 * g
  ({ s with cul := { s.cul with records := put s.cul.records g r
                                since := if s.cul.sweep then g :: s.cul.since else s.cul.since } } : State).post
    (deviceWrite s (.record g) (s.portOf addr) addr 2 false (r.bytes g))

/-- A record write of the gob is not answered yet. -/
def State.recBusy (s : State) (g : Nat) : Bool := s.txns.any fun t => t.purpose == .record g

/-- The handle names no gob that has a record, or a chain marked by a force free (R218, R222, R237). -/
def State.staleIndex (s : State) (h : Nat) : Bool :=
  let g := handleGob h
  handleGen h == 0 || decide (s.cul.count ≤ g) || decide (2 ^ s.member.gobBits ≤ g) || decide (s.cul.fresh ≤ g)
    || s.cul.forced.contains g

/-- The gob's record is free, quarantined or of another generation, so the handle is stale (R222). -/
def State.stale (s : State) (h : Nat) : Bool :=
  s.staleIndex h || !((s.gobRec (handleGob h)).state == .head) || (s.gobRec (handleGob h)).gen != handleGen h

/-- A record as read (Table 8-2), when it is valid (R224). -/
def parseRec (g : Nat) (x : BitVec 128) : Option GobRec :=
  let n := x.toNat
  let fld := fun (hi lo : Nat) => n / 2 ^ lo % 2 ^ (hi + 1 - lo)
  let st := fld 29 28
  let head := decide (st = 1 ∨ st = 2)
  let r : GobRec :=
    { next := fld 26 0, last := x.getLsbD 27, quar := x.getLsbD 30, gen := fld 36 32, fill := fld 48 37
      state := if st = 0 then .free else if st = 1 then .building else if st = 2 then .head else .member
      freerFn := if head then fld 52 49 else 0, freerSlot := if head then fld 59 53 else 0
      allocFn := if head then fld 63 60 else 0
      holdMask := if head then BitVec.ofNat 16 (fld 79 64) else 0
      head := if st = 3 then fld 90 64 else 0, headGen := if st = 3 then fld 95 91 else 0 }
  if r.bytes g = leBytes 16 n ∧ r.gen ≠ 0 ∧ (r.quar = true → st = 0)
      ∧ (st = 0 → r.next = 0 ∧ r.last = false ∧ r.fill = 0) then some r else none

/-- STATE and GEN as they stand in a record, valid or not. -/
def rawState (x : BitVec 128) : Nat := x.toNat / 2 ^ 28 % 4
def rawGen (x : BitVec 128) : Nat := x.toNat / 2 ^ 32 % 32

/-- The record of gob `g` in memory bytes that begin with record `pos`. -/
def recordIn (pos : Nat) (bytes : List Byte) (g : Nat) : Option (BitVec 128) :=
  let l := (bytes.drop (16 * (g - pos))).take 16
  if l.length = 16 then some (BitVec.ofNat 128 (ofLeBytes l)) else none

/-- Reads gob `g`'s record: a single-beat device-owned read (R220, R375). -/
def State.readRec (s : State) (purpose : Purpose) (g qos : Nat) : State :=
  let addr := s.cul.metaBase + 16 * g
  s.post (deviceRead s purpose (s.portOf addr) addr 16 qos false)

/-- A read of this purpose is on its way. -/
def State.reading (s : State) (purpose : Purpose) : Bool := s.txns.any fun t => t.purpose == purpose && !t.dropped

/-! ### The pool (R218, R225, R241) -/

def State.cuFree (s : State) : Nat := s.cul.stack.length + (s.cul.count - s.cul.fresh)

def Fn.unused (f : Fn) : Nat := f.reserve - f.charge

/-- Σ unused(g) over every function. -/
def State.unusedSum (s : State) : Nat := (s.fns.map fun e => e.2.unused).sum

/-- A requester of function `f` may take a gob (R225). -/
def State.mayTakeGob (s : State) (f : Nat) : Bool :=
  if s.cul.quota then
    decide ((s.fn f).charge < (s.fn f).ceiling)
      && (decide ((s.fn f).charge < (s.fn f).reserve) || decide (s.unusedSum < s.cuFree)) && decide (0 < s.cuFree)
  else decide (0 < s.cuFree)

/-- available(f) of R241. -/
def State.available (s : State) (f : Nat) : Int :=
  if s.cul.quota then
    min (((s.fn f).ceiling : Int) - (s.fn f).charge) ((s.fn f).unused + ((s.cuFree : Int) - s.unusedSum))
  else s.cuFree

/-- Raises QUOTA_LOW for each function whose availability fell across its mark between the two states (R241;
assumption 28). -/
def quotaLow (before after : State) : State :=
  (List.range after.member.functions).foldl
    (fun t f =>
      if (after.fn f).lowMark ≠ 0 ∧ ((after.fn f).lowMark : Int) < before.available f
          ∧ after.available f ≤ (after.fn f).lowMark then t.raise (fnEvent f 4)
      else t) after

/-- Takes a gob for function `f`: the top of the stack, else the fresh gob (R218). -/
def State.takeGob (s : State) (f : Nat) : Nat × State :=
  let s1 := s.modFn f fun x => { x with charge := x.charge + 1 }
  match s.cul.stack with
  | g :: rest => (g, { s1 with cul := { s1.cul with stack := rest, onBlock := s.cul.onBlock - 1 } })
  | [] => (s.cul.fresh, { s1 with cul := { s1.cul with fresh := s.cul.fresh + 1 } })

/-- Handles in the stack area. -/
def Cullet.inMemory (c : Cullet) : Nat := c.stack.length - c.onBlock

/-- The gobs whose handles a stack burst carries, by the address of its first byte (R220): position 0 of the stack area
holds the bottom of the stack. -/
def State.stackGobs (s : State) (addr bytes : Nat) : List Nat :=
  (s.cul.stack.reverse.drop ((addr - s.cul.stackBase) / 4)).take (bytes / 4)

/-- Spills handles from the bottom of the on-block part, up to the next 1 KiB boundary of the stack area (R220, R182). -/
def State.spill (s : State) : State :=
  let n := 256 - s.cul.inMemory % 256
  let addr := s.cul.stackBase + 4 * s.cul.inMemory
  let bytes := ((s.stackGobs addr (4 * n)).map fun g => leBytes 4 (handleOf (s.gobRec g).gen g)).flatten
  ({ s with cul := { s.cul with onBlock := s.cul.onBlock - n } } : State).post
    (deviceWrite s .spill (s.portOf addr) addr 2 false bytes)

/-- The sweep has not met gob `g` yet: it is one of the records that the sweep covers, and pushes it when it reads a FREE
record of it (R239). -/
def State.sweepAhead (s : State) (g : Nat) : Bool :=
  s.cul.sweep && decide (s.cul.sweepPos ≤ g) && decide (g < s.cul.sweepEnd)

/-- Puts a gob on the free stack, unless it is quarantined or the sweep will push it (R224, R239). A full on-block part
spills first: it holds 16 Ki handles (R220). -/
def State.pushGob (s : State) (g : Nat) : State :=
  if s.cul.quarantined.contains g || s.sweepAhead g then s
  else
    let t := if 16384 ≤ s.cul.onBlock then s.spill else s
    { t with cul := { t.cul with stack := g :: t.cul.stack, onBlock := t.cul.onBlock + 1 } }

/-- Quarantines a gob (R224). -/
def State.quarantine (s : State) (g : Nat) : State :=
  let s1 : State := { s with cul := { s.cul with
    metaCheck := satAdd 16 s.cul.metaCheck 1
    quar := if s.cul.quarantined.contains g then s.cul.quar else s.cul.quar + 1
    quarantined := if s.cul.quarantined.contains g then s.cul.quarantined else s.cul.quarantined ++ [g]
    onBlock := if (s.cul.stack.take s.cul.onBlock).contains g then s.cul.onBlock - 1 else s.cul.onBlock
    stack := s.cul.stack.filter fun x => x != g } }
  (s1.writeRec g { quar := true }).raise 1459

/-! ### Reading a chain (R231) -/

/-- Data bits in `n` content bytes of a layout. -/
def contentBits (layout n : Nat) : Nat := if isW36X layout then 36 * (n / 5) + min (8 * (n % 5)) 36 else 8 * n

/-- Bytes of the chain that the piece of work reads. -/
def Work.chainNeed (w : Work) : Nat := rowBytes w.desc.srcLayout w.desc.length
/-- Content bytes of the gobs whose records it has. -/
def Work.chainHas (w : Work) : Nat := (w.gobs.map ChainGob.bytes).sum

/-- No member is left to read: a chain that holds less than the read needs cuts it (R115, R231). -/
def Work.endChain (w : Work) : Work :=
  { w with nextGob := none
           clip := if w.chainHas < w.chainNeed then some (contentBits w.desc.srcLayout w.chainHas) else w.clip }

/-- A gob of the chain with its record: its content joins, and NEXT leads on unless the read needs no more. A NEXT that
names a gob without a record ends the content. -/
def Work.addGob (w : Work) (fresh g : Nat) (r : GobRec) : Work :=
  let x : Work := { w with gobs := w.gobs ++ [{ gob := g, bytes := r.fill + 1 }] }
  if r.last || decide (fresh ≤ r.next) then x.endChain
  else if x.chainNeed ≤ x.chainHas then { x with nextGob := none }
  else { x with nextGob := some r.next }

/-- A member's record, as read; `none` where the read has failed (R224, Table 11-4). -/
def State.memberRead (s : State) (p serial g : Nat) (x : Option (BitVec 128)) : State :=
  match s.work? p serial with
  | none => s
  | some w =>
    match x.bind (parseRec g) with
    | some r =>
      if r.state = .member ∧ r.head = w.headGob ∧ r.headGen = w.headGen then
        s.modWork p serial fun y => y.addGob s.cul.fresh g r
      else s.modWork p serial Work.endChain
    | none => (s.quarantine g).modWork p serial Work.endChain

/-! ### Freeing (R236) -/

/-- Replaces the freeing of chain `head`. -/
def State.setFreeing (s : State) (head : Nat) (g : Freeing → Option Freeing) : State :=
  { s with cul := { s.cul with freeing := s.cul.freeing.filterMap fun e => if e.head = head then g e else some e } }

/-- The member that follows: the next known one, or the one that NEXT names, if that gob has a record. -/
def Freeing.after (e : Freeing) (fresh : Nat) (r : GobRec) : Option Nat :=
  match e.known with
  | some l => l.head?
  | none => if r.last || decide (fresh ≤ r.next) then none else some r.next

/-- Starts the freeing of a chain: the head record is rewritten FREE with its generation advanced; the walk over the
members begins (R236, R230; assumption 23). `known` are the members of a chain returned without commit. -/
def State.freeMembers (s : State) (head : Nat) (known : Option (List Nat)) : State :=
  let r := s.gobRec head
  let e : Freeing := { head := head, headGen := r.gen, allocFn := r.allocFn, cur := none, known := known }
  let s1 := if s.cul.quarantined.contains head then s else s.writeRec head { gen := nextGen r.gen }
  { s1 with cul := { s1.cul with freeing := s1.cul.freeing ++
      [{ e with cur := e.after s.cul.fresh r, known := known.map (List.drop 1) }] } }

def State.freeChain (s : State) (head : Nat) : State := s.freeMembers head none

/-- The walk of a freed chain has read the record of its member: it is rewritten FREE, or the walk ends at it: an
invalid record, or one that points to another head, is quarantined. -/
def State.walkRead (s : State) (head : Nat) (x : Option (BitVec 128)) : State :=
  match s.cul.freeing.find? fun e => e.head == head && !e.freed with
  | none => s
  | some e =>
    match e.cur with
    | none => s
    | some m =>
      match x.bind (parseRec m) with
      | some r =>
        if r.state = .member ∧ r.head = head ∧ r.headGen = e.headGen then
          (s.writeRec m { gen := nextGen r.gen }).setFreeing head fun y =>
            some { y with freed := true, next := y.after s.cul.fresh r, known := y.known.map (List.drop 1) }
        else
          (if s.cul.quarantined.contains m then s else s.quarantine m).setFreeing head fun y =>
            some { y with cur := none }
      | none => (s.quarantine m).setFreeing head fun y => some { y with cur := none }

/-! ### Record reads that are due (R220, R231, R236, R239) -/

/-- A piece of work that resolves a handle asks for the head record; a chain read keeps up to 8 records ahead of its
data. A read of a record waits until the Cullet's own writes of it are answered (R220). -/
def State.workRecs (s : State) (p : Nat) (w : Work) : State :=
  if !w.live then s
  else if w.chain = .unresolved then
    let g := handleGob w.desc.srcAddr
    if w.headRec.isSome || s.staleIndex w.desc.srcAddr || s.recBusy g || s.reading (.headRec p w.serial) then s
    else s.readRec (.headRec p w.serial) g 2
  else
    match w.nextGob with
    | none => s
    | some g =>
      if w.gobs.length ≤ w.rdExt + 8 && !s.recBusy g && !s.reading (.memberRec p w.serial g) then
        s.readRec (.memberRec p w.serial g) g 2
      else s

/-- The walk of a freed chain reads the member it has reached. -/
def State.freeRecs (s : State) (e : Freeing) : State :=
  match e.cur with
  | none => s
  | some m => if e.freed || s.recBusy m || s.reading (.walkRec e.head) then s else s.readRec (.walkRec e.head) m 2

/-- Sweep reads that are on their way. -/
def State.sweepReads (s : State) : Nat :=
  (s.txns.filter fun t => match t.purpose with | .sweep _ => true | _ => false).length

/-- The next sweep reads, of 1 KiB and with AxQOS 0, while fewer than 64 are outstanding. -/
def State.sweepRecs (fuel : Nat) (s : State) : State :=
  match fuel with
  | 0 => s
  | n + 1 =>
    let g := s.cul.sweepNext
    if s.cul.sweep && decide (g < s.cul.sweepEnd) && decide (s.sweepReads < 64) then
      let addr := s.cul.metaBase + 16 * g
      State.sweepRecs n (({ s with cul := { s.cul with sweepNext := g + 64 } } : State).post
        (deviceRead s (.sweep g) (s.portOf addr) addr (16 * min 64 (s.cul.count - g)) 0 false))
    else s

/-- Every record read that is due. -/
def State.culletReads (s : State) : State :=
  let s1 := s.chans.foldl (fun t e => e.2.started.foldl (fun u w => u.workRecs e.1 w) t) s
  State.sweepRecs 64 (s1.cul.freeing.foldl State.freeRecs s1)

/-- The sweep is over: SWEEP clears and SWEEP_DONE is raised (R239). -/
def State.endSweep (s : State) : State :=
  ({ s with cul := { s.cul with sweep := false, sweepData := [], sweepHead := none, headCache := [], since := [] } } :
    State).raise 1460

/-- The sweep starts over every record below CU_FRESH; over none it is over at once (R239). -/
def State.startSweep (s : State) : State :=
  let s1 : State := { s with cul := { s.cul with
    sweep := true, sweepPos := 0, sweepNext := 0, sweepEnd := s.cul.fresh, quar := 0, quota := false } }
  if s.cul.fresh = 0 then s1.endSweep else s1

/-! ### Pins (R232) -/

/-- A pin ends with the last chain read: no read is left to form and none is on its way, or the work has failed and
none is on its way. -/
def State.pinOver (s : State) (p : Nat) (w : Work) (formed : Bool) : Bool :=
  (formed || !w.live)
    && !(s.txns.any fun t => match t.purpose with | .dataRead q n _ _ => q == p && n == w.serial | _ => false)

/-- The chain is pinned for function `f` by a started descriptor that reads it (R232). -/
def State.pinnedFor (s : State) (f head : Nat) : Bool :=
  s.chans.any fun e => e.2.owner.map Prod.fst == some f
    && e.2.started.any fun w => w.pinned && w.headGob == head

/-- The chain is pinned for some function. -/
def State.pinned (s : State) (head : Nat) : Bool :=
  s.chans.any fun e => e.2.started.any fun w => w.pinned && w.headGob == head

end Sys2Proof.Machine
end

