-- ==== Sys2Proof/Machine/Channels.lean ====
section
/-! DEFINITION. Shared operations of a channel: completion reports and their writes (R87, R88, R94), the stall watchdog
(R283), failing, abandoning, aborting and halting work (R164, R165, R302 to R305, R309). -/

namespace Sys2Proof.Machine

/-- The function of a channel; 0 for a channel that no slot maps. -/
def State.chFn (s : State) (p : Nat) : Nat := (s.fnOfChan p).getD 0

/-! ### Completion reports -/

/-- H in the register layout. -/
def Chan.idxReg (c : Chan) (v : Nat) : Nat := idxLayout c.ring.order v

/-- A completion write of a channel: AxID with the descriptor bit, the ceiling's class (R41, R96, R102). -/
def State.cplTxn (s : State) (p addr : Nat) (coherent : Bool) (bytes : List Byte) : Txn :=
  { deviceWrite s (.completion p) (s.portOf addr) addr (qosOf (s.chan p).cfg.ceiling) coherent bytes with
    axid := chanAxid p true, user := fnUser (s.chFn p) }

/-- Issues the index write of R87 when one is due and none is outstanding: H as it stands now. -/
def State.kickIndex (s : State) (p : Nat) : State :=
  let c := s.chan p
  if !c.cfg.cplRingMode && c.cpl.due && !c.cpl.outstanding then
    (s.setChan p { c with cpl := { c.cpl with
        uncovered := 0, deadline := none, due := false, queue := [], flying := c.cpl.queue,
        flyingIdx := c.ring.h, outstanding := true } }).post
      (s.cplTxn p c.cfg.cplAddr c.cfg.cplCoherent (leBytes 4 (c.idxReg c.ring.h)))
  else s

/-- Adds a completion; `now` forces an index write at once. -/
def State.addReport (s : State) (p : Nat) (r : Report) (now : Bool) : State :=
  let c := s.chan p
  if c.cfg.cplRingMode then s.setChan p { c with cpl := { c.cpl with queue := c.cpl.queue ++ [r] } }
  else
    let n := c.cpl.uncovered + 1
    (s.setChan p { c with cpl := { c.cpl with
      queue := c.cpl.queue ++ [r]
      uncovered := n
      due := c.cpl.due || now || decide (c.cfg.coalCount ≤ n) || decide (c.cfg.coalTime = 0)
      deadline := c.cpl.deadline.or (some (s.now.cclk + c.cfg.coalTime)) } }).kickIndex p

/-- The report that stands for a halt, a lehr stop or an abort without a completion of its own: what the halt-status
registers take if its index write is lost (R307). -/
def stopReport (idx : Nat) (st : Status) (residue : Nat) (crc : W32) : Report :=
  { idx := idx, status := st, residue := residue, crc := crc, done := false, signal := none, loads := some .descriptor }

/-- A halt, a lehr stop or an abort without a completion of its own: an index write is issued at once, which covers every
completion up to H (R87). -/
def State.flushIndex (s : State) (p : Nat) (r : Report) : State :=
  if (s.chan p).cfg.ringMode && !(s.chan p).cfg.cplRingMode then
    (s.modChan p fun c => { c with cpl := { c.cpl with due := true, queue := c.cpl.queue ++ [r] } }).kickIndex p
  else s

/-! ### The stall watchdog (R283) -/

/-- A burst that waits for its reheat is in no request queue. -/
def Txn.waitsReheat (t : Txn) : Bool := match t.phase with | .reheat _ => true | _ => false

/-- Something runs the channel's watchdog: a transaction in a request queue or issued and not abandoned, or a presented
beat. -/
def State.watchRuns (s : State) (p : Nat) : Bool :=
  s.txns.any (fun t => t.purpose.pch? == some p && !t.voided && !t.waitsReheat)
    || s.ports.any fun e => match e.2.presented with
        | some b => (s.chan p).started.any fun w => w.serial == b.serial
        | none => false

/-- Starts the watchdog where it is not running yet. -/
def State.startWatch (s : State) (p : Nat) : State :=
  if s.watchRuns p && (s.chan p).watch.isNone then s.modChan p fun c => { c with watch := some s.now.refclk } else s

/-- A response or an acceptance of the channel restarts it, or stops it when nothing is left. -/
def State.touchWatch (s : State) (p : Nat) : State :=
  s.modChan p fun c => { c with watch := if s.watchRuns p then some s.now.refclk else none }

/-! ### Ending work -/

/-- Returns the space of a read that retires. -/
def State.freeTxn (s : State) (t : Txn) : State :=
  match t.purpose with
  | .table p _ _ | .dataRead p _ _ _ | .fetch p => s.freeLane (benchOf p) t.landing t.space
  | _ => s

/-- Drops the transactions that meet `mine`: their data is discarded, and those awaiting reheat retire (R301). -/
def State.dropWhere (s : State) (mine : Txn → Bool) : State :=
  let gone := fun (t : Txn) => mine t && t.waitsReheat
  let s1 := (s.txns.filter gone).foldl (fun r t => r.freeTxn t) s
  { s1 with txns := mapIf mine (fun t => { t with dropped := true }) (s1.txns.filter fun t => !gone t) }

/-- The piece of work that a record read serves. -/
def Purpose.recFor? : Purpose → Option (Nat × Nat)
  | .headRec p n | .memberRec p n _ => some (p, n)
  | _ => none

/-- Drops the transactions of a piece of work, its record reads among them. -/
def State.dropTxns (s : State) (p serial : Nat) : State :=
  s.dropWhere fun t => t.purpose.serial? == some (p, serial) || t.purpose.recFor? == some (p, serial)

/-- Drops the fetch of a channel. -/
def State.dropFetch (s : State) (p : Nat) : State := s.dropWhere fun t => t.purpose == .fetch p

/-- Returns the landing space of a request. -/
def State.freeReq (s : State) (q : XReq) : State := s.freeLane (benchOf q.pch) q.landing q.space

/-- Takes the requests that meet `mine` out of the outstanding ones; a frame that waits in a transmit queue still goes
out. -/
def dropFrom (mine : XReq → Bool) (l : List XReq) : List XReq :=
  (l.filter fun q => !mine q || q.phase == .queued).map fun q =>
    if mine q then { q with abandoned := true, landing := .none, space := 0 } else q

/-- Abandons outstanding requests (R264, R266; assumption 24). -/
def State.abandonReqs (s : State) (mine : XReq → Bool) : State :=
  let s1 := (s.xez.reqs.filter mine).foldl State.freeReq s
  { s1 with xez := { s1.xez with reqs := dropFrom mine s1.xez.reqs } }

/-- Abandons the outstanding requests of a piece of work (R264). -/
def State.dropReqs (s : State) (p serial : Nat) : State :=
  s.abandonReqs fun q => q.pch == p && q.serial == serial && !q.abandoned

/-- Returns the chain that a piece of work was building (R230). -/
def State.dropChain (s : State) (w : Work) : State :=
  match w.chain with
  | .requesting | .building | .committing =>
    match w.gobs with
    | [] => s
    | h :: t => s.freeMembers h.gob (some (t.map ChainGob.gob))
  | _ => s

/-- A taker that has no packet waits no more. -/
def State.leaveQueue (s : State) (p : Nat) (w : Work) : State :=
  if w.desc.takes then
    s.modPort w.desc.srcAddr fun x => { x with takers := x.takers.filter fun t => !(t == (p, w.serial)) }
  else s

/-- What ends at the failure edge of a piece of work and at its abandonment: its packet is killed, its chain is
returned, its reads and reheats are dropped. Its words go as R195 says. -/
def State.cutWork (s : State) (p : Nat) (w : Work) : State :=
  let s2 := (s.dropTxns p w.serial).leaveQueue p w
  let s3 := if w.desc.toPort then (s2.killPort w.desc.dstAddr p w).pump w.desc.dstAddr else s2
  let s4 := (s3.dropChain w).modWork p w.serial fun x =>
    { x with chain := if x.chain = .committed then .committed else .none,
             gobs := if x.chain = .resolved then x.gobs else [], nextGob := none }
  s4

/-- Abandons a piece of work (R303): no grant, no completion, no event; `reqs` when its remote requests go too. -/
def State.abandonWork (s : State) (p : Nat) (reqs : Bool) (w : Work) : State :=
  let s1 := s.cutWork p w
  let s2 := if reqs then s1.dropReqs p w.serial else s1
  s2.modWork p w.serial fun x => { x with abandoned := true, pinned := false, armed := false }

/-- The pieces of work of a channel after the one with this serial number. -/
def laterThan (serial : Nat) : List Work → List Work
  | [] => []
  | w :: t => if w.serial = serial then t else laterThan serial t

/-- A status is decided for a started descriptor or pass (R302): the first one prevails (R135), later work is abandoned,
the HALT event is raised. In ABORTING no status is decided (R301). -/
def State.failWork (s : State) (p serial : Nat) (st : Status) : State :=
  let c := s.chan p
  match s.work? p serial with
  | none => s
  | some w =>
    if c.state = .aborting ∨ !w.live then s
    else
      let s1 := s.modWork p serial fun x => { x with verdict := some st }
      let s2 := (s1.cutWork p w).dropReqs p serial
      let s3 := (laterThan serial c.started).foldl (fun t x => t.abandonWork p true x) s2
      (s3.modChan p fun x => { x with halt := { x.halt with pending := true }, wantsSignal := none,
                                      gobWait := none }).raise (chanEvent p 3)

/-- A halt point that is not a started descriptor (R305, R307). -/
def State.failPoint (s : State) (p : Nat) (h : HaltPoint) : State :=
  let c := s.chan p
  if c.state = .aborting ∨ c.halt.point.isSome then s
  else
    (s.modChan p fun x => { x with halt := { x.halt with pending := true, point := some h },
                                   wantsSignal := none }).raise (chanEvent p 3)

/-! ### Entries and fetches -/

/-- Discards accepted entries (R85) and the fetch in flight: they are fetched again from H. -/
def State.dropEntries (s : State) (p : Nat) : State :=
  (s.dropFetch p).modChan p fun c =>
    { c with ring := { c.ring with accepted := [], f := c.ring.h, reReadAt := none, again := false, forced := false } }

/-! ### Aborts (R164, R165) -/

/-- Nothing of the channel's work is left to wait for: no transaction of it, no abort beat, no remote request. -/
def State.workDrained (s : State) (p : Nat) : Bool :=
  !(s.txns.any fun t => (t.purpose.serial?.map Prod.fst) == some p)
    && (s.chan p).started.all (fun w => !s.abortBeatWaits w.serial)
    && !(s.xez.reqs.any fun q => q.pch == p && !q.abandoned)

/-- The status registers that an abort or a lehr stop loads (R167). -/
def Chan.loadStop (c : Chan) (cause : Cause) (idx : Nat) (st : Status) (residue : Nat) : Chan :=
  { c with halt := { c.halt with stopSeen := true, cause := cause, status := st, idx := idx, residue := residue,
                                 crc := 0 } }

/-- The status registers that a halt edge loads (R304). -/
def Chan.loadHalt (c : Chan) (cause : Cause) (idx : Nat) (st : Status) (residue : Nat) (crc : W32) : Chan :=
  { c with halt := { c.halt with haltSeen := true, halts := satAdd 16 c.halt.halts 1, cause := cause, status := st,
                                 idx := idx, residue := residue, crc := crc, pending := false, point := none } }

/-- Drops every piece of work of a channel, returning the space that is left. -/
def State.clearWork (s : State) (p : Nat) : State :=
  let s1 := (s.chan p).started.foldl (fun t w => t.dropSpace p w) s
  s1.modChan p fun c => { c with started := [] }

/-- The state that an abort ends in: HALTED for the abort of a function halt, else STOPPED, or IDLE in direct mode. -/
def Chan.abortEnd (c : Chan) : ChState :=
  if c.halt.byFunction then .halted else if c.cfg.ringMode then .stopped else .idle

/-- Ends an abort, whose work has drained. An ABORTED descriptor raises neither the DONE of INT_FULL nor its signal
(assumption 89). -/
def State.finishAbort (s : State) (p : Nat) : State :=
  let c := s.chan p
  let done := fun (x : Chan) => { x with state := c.abortEnd, stopKind := true, stopIdx := x.idxReg x.ring.h,
                                         halt := { x.halt with byFunction := false } }
  match c.started.head? with
  | none =>
    let s1 := (s.dropEntries p).modChan p fun x =>
      if c.halt.byFunction then
        done (x.loadHalt .function (if c.cfg.ringMode then x.idxReg x.ring.h else 0) .aborted 0 0)
      else done x
    (s1.flushIndex p (stopReport c.ring.h .aborted 0 0)).raise (chanEvent p 5)
  | some w =>
    let r : Report := { idx := w.idx, status := .aborted, residue := w.residue, crc := 0, done := false, signal := none,
                        loads := some (if c.halt.byFunction then .function else .abort) }
    let s1 := s.clearWork p
    let s2 := s1.modChan p fun x =>
      if c.cfg.ringMode then { x with ring := { x.ring with h := ringNext x.ring.order x.ring.h } } else x
    let s3 := (s2.dropEntries p).modChan p fun x =>
      if c.halt.byFunction then
        { done (x.loadHalt .function (if c.cfg.ringMode then x.idxReg w.idx else 0) .aborted w.residue 0) with
          lastStatus := if c.cfg.ringMode then x.lastStatus else .aborted }
      else if c.cfg.ringMode then done x
      else done { x.loadStop .abort 0 .aborted w.residue with lastStatus := .aborted }
    if c.cfg.ringMode then s3.addReport p r true else s3.raise (chanEvent p 5)

/-- An abort takes effect (R164); `byFn` when it is part of a function halt (R309). -/
def State.startAbort (s : State) (p : Nat) (byFn : Bool) : State :=
  let c := s.chan p
  let s1 := s.modChan p fun x =>
    { x with
      state := .aborting
      wantsSignal := none
      gobWait := none
      direct := { x.direct with due := false }
      halt := { x.halt with byFunction := x.halt.byFunction || byFn } }
  let s2 := s1.dropFetch p
  match c.started with
  | [] => s2.finishAbort p
  | w :: later =>
    let s3 := later.foldl (fun t x => t.abandonWork p false x) s2
    (s3.cutWork p w).modWork p w.serial fun x => { x with armed := false }

/-- The oldest failed piece of work. -/
def Chan.failed (c : Chan) : Option Work := c.started.find? fun w => !w.abandoned && w.verdict.isSome

/-! ### Function halt (R309) -/

/-- The channels of function `f`. -/
def State.chansOf (s : State) (f : Nat) : List Nat :=
  (s.chans.filter fun e => e.2.owner.map Prod.fst == some f).map Prod.fst

/-- One channel at a malformed edge of its function (assumption 16). -/
def State.haltChan (s : State) (p : Nat) : State :=
  let c := s.chan p
  if c.halt.pending then s
  else
    match c.state with
    | .running | .stopping => (s.raise (chanEvent p 3)).startAbort p true
    | .aborting =>
      (s.raise (chanEvent p 3)).modChan p fun x => { x with halt := { x.halt with byFunction := true } }
    | _ => s

/-- The malformed entry's later entries are abandoned with it: one of them that a failed fetch had made the halt point is
none any more (R309; assumption 13). -/
def State.forgetPoint (s : State) (p : Nat) : State :=
  if (s.chan p).failed.isNone && ((s.chan p).halt.point.map HaltPoint.cause) == some .fetch then
    s.modChan p fun c => { c with halt := { c.halt with pending := false, point := none } }
  else s

/-- The malformed edge of the entry at `idx` of the channel. -/
def State.malformed (s : State) (p idx cond : Nat) (opcode : BitVec 8) : State :=
  let f := s.chFn p
  let slot := ((s.chan p).owner.map Prod.snd).getD 0
  let s1 := s.modFn f fun x =>
    { x with halted := true, haltSeen := true, malformedCount := satAdd 16 x.malformedCount 1, haltSlot := slot,
             haltCond := cond, haltOpcode := opcode, haltIdx := (s.chan p).idxReg idx }
  ((s1.chansOf f).foldl (fun t q => t.haltChan q) (s1.forgetPoint p)).raise (fnEvent f 1)

/-! ### The halt edge (R304) -/

/-- Every condition of R304 holds: the halt point is the oldest unfinished work, and its and the abandoned work's
transactions, abort beats and requests are over (assumptions 13, 84). -/
def State.haltReady (s : State) (p : Nat) : Bool :=
  let c := s.chan p
  c.halt.pending && s.workDrained p
    && (match c.started with
        | [] =>
          match c.halt.point with
          | some h => h.cause != .fetch || (c.ring.accepted.isEmpty && s.chanLoad p == 0)
          | none => false
        | w :: _ => w.abandoned || w.verdict.isSome)

/-- The reported CRC of a failed descriptor (R134): its own only for a mismatch with EXPECT_CRC. -/
def Work.failCrc (w : Work) : W32 :=
  if w.verdict = some .crcMismatch && w.expectFailed then ~~~ w.crcReg else 0

/-- The halt edge. The completion write of a channel that is HALTED already, when it is lost, loads the registers and
issues no further index write (assumption 83). -/
def State.haltEdge (s : State) (p : Nat) : State :=
  let c := s.chan p
  match c.failed with
  | some w =>
    let st := w.verdict.getD .busError
    let s1 := (s.clearWork p).dropEntries p
    let s2 := s1.modChan p fun x =>
      { x.loadHalt (if w.pass then .pass else .descriptor) (if w.pass then 0 else x.idxReg w.idx) st w.residue w.failCrc
        with state := .halted, lastStatus := if w.pass then st else x.lastStatus }
    if w.pass then s2
    else s2.addReport p { idx := w.idx, status := st, residue := w.residue, crc := w.failCrc, done := false,
                          signal := none, loads := some .descriptor } true
  | none =>
    match c.halt.point with
    | none => s
    | some h =>
      let s1 := (s.clearWork p).dropEntries p
      let s2 := s1.modChan p fun x =>
        let y := x.loadHalt h.cause (x.idxReg h.idx) h.status h.residue h.crc
        { y with state := .halted, halt := { y.halt with byFunction := false } }
      if h.record then
        s2.addReport p { idx := h.idx, status := h.status, residue := h.residue, crc := h.crc, done := false,
                         signal := none, loads := some .descriptor } true
      else if c.state == .halted then s2
      else s2.flushIndex p (stopReport h.idx h.status h.residue h.crc)

end Sys2Proof.Machine
end

