-- ==== Sys2Proof/Machine/Guard.lean ====
section
/-! DEFINITION. The freshness guard (R268 to R273). -/

namespace Sys2Proof.Machine

/-- The age of a guarded descriptor: a signed 64-bit difference (R268). -/
def State.age (s : State) (w : Work) : Int := (s.time.tnow - w.desc.captureTime).toInt

/-- Why a guarded descriptor is stale now: 4 NO_BOUND, 3 TIME_INVALID, 1 AGE, 2 FUTURE, in the order of R271. -/
def State.staleCause (s : State) (p : Nat) (w : Work) : Option Nat :=
  let c := s.chan p
  if !w.desc.fresh || w.pass then none
  else if c.ageBound = 0 then some 4
  else if !s.time.valid then some 3
  else if (c.ageBound.toNat : Int) < s.age w then some 1
  else if s.age w < -(c.leadLimit.toNat : Int) then some 2
  else none

/-- The final judgement of a guarded descriptor has been made (R270): its last packet is released, or its last request
frame is formed. On memory the judgement falls with completion. -/
def State.judged (s : State) (w : Work) : Bool :=
  if w.desc.toPort then
    decide (w.outWords = w.outTotal) &&
      !(s.port w.desc.dstAddr).outq.any fun b => (s.port w.desc.dstAddr).unreleased w.serial b
  else if w.desc.toRemote then decide (0 < w.frames) && decide (w.desc.length ≤ 1024 * w.frames)
  else false

/-- The descriptor is guarded, not abandoned, not judged finally, stale now, and was not before: its stale edge. Another
status decided before leaves it judged (R135: every condition counts and raises its own event). -/
def State.isStale (s : State) (p : Nat) (w : Work) : Bool :=
  !w.abandoned && !w.staleDone && !s.judged w && (s.staleCause p w).isSome

/-- The stale edge (R271): STALE is decided, its record, its alarm cause and its events. -/
def State.staleEdge (s : State) (p : Nat) (w : Work) : State :=
  match s.staleCause p w with
  | none => s
  | some cause =>
    let age := s.age w
    let mag := if cause = 1 ∨ cause = 2 then min age.natAbs 0xFFFFFFFF else 0
    let s1 := s.modChan p fun c => { c with fresh :=
      { cause := cause, negative := decide (cause = 2), staleSeen := true,
        staleCount := satAdd 16 c.fresh.staleCount 1, age := BitVec.ofNat 32 mag } }
    let s2 := ((s1.modWork p w.serial fun x => { x with staleDone := true }).failWork p w.serial .stale).raise
      (chanEvent p 6)
    (s2.chanCause p 0).raise 1408

/-! ### Context memories (R282) -/

/-- A channel whose state an uncorrectable context word holds: its oldest unfinished descriptor or pass ends with
ECC_UNCORRECTED; a channel without one halts without completion (assumption 93). -/
def State.ctxLost (s : State) (p : Nat) : State :=
  let c := s.chan p
  (match c.started.find? Work.live with
   | some w => s.failWork p w.serial .eccUncorrected
   | none =>
     if c.owner.isSome && c.started.isEmpty then
       s.failPoint p { cause := .addrState, status := .eccUncorrected, idx := c.ring.h, record := false }
     else s).chanCause p 4

/-- A faulty context word (R282): corrected and rewritten, or its channels halt and its stream port is flushed. -/
def State.ctxFault (s : State) (f : CtxFault) : State :=
  if f.uncorrectable then
    let s1 : State := { s with safety := { s.safety with ctxUe := satAdd 16 s.safety.ctxUe 1 } }
    (match f.word with
     | .channels ps | .xezan ps => ps.foldl State.ctxLost s1
     | .link q => (s1.modPort q fun x => { x with flushWait := true, flushFor := s1.takingPort q }).setCause 4
     | .cullet => s1.setCause 4).raise 1412
  else
    (({ s with safety := { s.safety with ctxCe := satAdd 16 s.safety.ctxCe 1 } } : State).raise 1411).raise 1419

/-- The faulty context words that one command of the block reads. -/
def State.ctxFaults (s : State) (l : List CtxFault) : State := l.foldl State.ctxFault s

end Sys2Proof.Machine
end

