-- ==== Sys2Proof/Machine/Sched.lean ====
section
/-! DEFINITION. What a channel may ask of its bench (R78, R138, R184, R185), the choice of a class and a channel (R139 to
R142), the forming of the granted burst (R143, R182), and the two rows of the bench: SCHEDULER_GRANT and
ADDRESS_STATE_SCAN. -/

namespace Sys2Proof.Machine

/-- What a burst is for: the channel's fetch, or a table read, data read, data write or result write of a started piece of
work. -/
inductive Ask where
  | fetch | table (serial : Nat) | read (serial : Nat) | write (serial : Nat) | result (serial : Nat)
  deriving DecidableEq, Repr

/-- A ready burst with its class. -/
structure Bid where
  ask : Ask
  cls : Nat
  txn : Txn
  deriving DecidableEq, Repr

/-! ### Fetches (R78, R163) -/

/-- A fetch read of the channel is in flight and its result will be used. -/
def State.fetching (s : State) (p : Nat) : Bool := s.txns.any fun t => t.purpose == .fetch p && !t.dropped

/-- Entries that the next fetch covers (R78). -/
def Ring.fetchLen (r : Ring) : Nat :=
  let i := r.f % 2 ^ r.order
  min (min (ringCount r.order r.f r.t) (2 ^ r.order - i)) (min (64 - i % 64) (8 - r.accepted.length))

/-- A fetch of the channel is pending (R78, R138). The entry at F that is a halt point is fetched no more (R302, R305). -/
def State.fetchPending (s : State) (p : Nat) : Bool :=
  let c := s.chan p
  c.cfg.ringMode && c.ring.bound && !c.ring.parked && c.ring.reReadAt.isNone
    && (c.halt.point.map HaltPoint.cause) != some .fetch && (c.state == .running || c.state == .stopping)
    && !(s.txns.any fun t => t.purpose == .fetch p) && decide (0 < c.ring.fetchLen)

/-- The fetch burst, which needs landing space as any read does (R194, R312). -/
def State.fetchBid (s : State) (p : Nat) : Option Bid :=
  let c := s.chan p
  let lo := c.ring.base + 64 * (c.ring.f % 2 ^ c.ring.order)
  let t := deviceRead s (.fetch p) (s.portOf (lo / 128 * 128)) lo (64 * c.ring.fetchLen) (qosOf c.cfg.ceiling)
    c.ring.coherent
  (s.laneLanding (benchOf p) t.beats).map fun l =>
    { ask := .fetch, cls := c.cfg.ceiling,
      txn := { t with axid := chanAxid p true, user := fnUser (s.chFn p), landing := l, space := landingCells t.beats } }

/-! ### Reads -/

/-- A channel's burst of a piece of work. -/
def State.workTxn (s : State) (p : Nat) (w : Work) (purpose : Purpose) (b : Burst) (aux coherent : Bool) : Txn :=
  { id := 0, port := s.portOf b.addr, write := false, purpose := purpose, addr := b.addr, beats := b.beats,
    axid := chanAxid p aux, qos := qosOf w.desc.svc, user := fnUser (s.chFn p), coherent := coherent,
    rlo := b.lo, rlen := b.len }

/-- FENCE holds back the reads of a descriptor until every earlier one is complete (R103). -/
def Chan.unfenced (c : Chan) (w : Work) : Bool :=
  !w.desc.fence || w.pass || (c.started.head?.map Work.serial) == some w.serial

/-- The table is read at most 2 KiB beyond the entry in use (R185). -/
def State.tableBid (s : State) (p : Nat) (w : Work) : Option Bid :=
  match w.desc.op with
  | some o =>
    if !o.usesTable || w.tableEnd then none
    else
      let b := burstAt w.desc.pointer w.desc.tableBytes w.tablePos
      if w.tablePos < w.desc.tableBytes
          ∧ w.tablePos + b.len ≤ (w.entries.length - 1) * w.desc.entrySize + 2048 + w.desc.entrySize then
        (s.laneLanding (benchOf p) b.beats).map fun l =>
          { ask := .table w.serial, cls := w.desc.svc,
            txn := { s.workTxn p w (.table p w.serial w.tablePos) b true w.desc.coherent with
                     landing := l, space := landingCells b.beats } }
      else none
  | none => none

/-- Landing space of a data read: the outbound FIFO of the destination port, or the bench (R193, R194, R198). -/
def State.dataLanding (s : State) (p : Nat) (w : Work) (beats : Nat) : Option (Landing × Nat) :=
  if w.desc.toPort then
    let x := s.port w.desc.dstAddr
    let n := 29 * beats
    if (x.claim.isNone || x.claim == some (p, w.serial)) && decide (x.level + n ≤ x.limit * 64)
        && s.mayTakeCells x.cells x.reserve x.limit ((x.reserved + n + 63) / 64 - (x.reserved + 63) / 64) then
      some (.port w.desc.dstAddr, n)
    else none
  else (s.laneLanding (benchOf p) beats).map fun l => (l, landingCells beats)

def State.readBid (s : State) (p : Nat) (w : Work) : Option Bid :=
  match w.srcExt s.cul.poolBase w.rdExt with
  | none => none
  | some (start, size) =>
    if w.rdPos < size ∧ !(w.desc.fromChain && w.chain != .resolved) then
      let b := burstAt start size w.rdPos
      (s.dataLanding p w b.beats).map fun l =>
        { ask := .read w.serial, cls := w.desc.svc,
          txn := { s.workTxn p w (.dataRead p w.serial w.rdV b.len) b false (w.desc.coherent && !w.desc.fromChain) with
                   landing := l.1, space := l.2 } }
    else none

/-! ### Writes -/

/-- A write of the channel that covers a beat of this burst is outstanding (R184). -/
def State.sharesBeat (s : State) (p : Nat) (b : Burst) : Bool :=
  s.txns.any fun t => t.write && t.purpose.pch? == some p && decide (t.addr < b.addr + 128 * b.beats)
    && decide (b.addr < t.addr + 128 * t.beats)

/-- The next write burst of a piece of work whose data the crucible holds in full. -/
def State.writeBid (s : State) (p : Nat) (w : Work) : Option Bid :=
  if !w.desc.toMemory then none
  else
    match w.dstExt s.cul.poolBase w.wrExt with
    | none => none
    | some (start, size, v0) =>
      let b := burstAt start size w.wrPos
      if w.wrPos < size ∧ !s.sharesBeat p b then
        (w.dstBytes (v0 + w.wrPos) b.len).map fun bytes =>
          { ask := .write w.serial, cls := w.desc.svc,
            txn := { s.workTxn p w (.dataWrite p w.serial (w.dstBitsBefore (v0 + w.wrPos))
                       (if v0 + w.wrPos + b.len = w.dstTotal then w.dataBits
                        else w.dstBitsBefore (v0 + w.wrPos + b.len))) b false
                       (w.desc.coherent && !(w.desc.dstSpace == 2)) with
                     write := true, wlo := b.lo, wdata := bytes, rlo := 0, rlen := 0 } }
      else none

/-- The result block of STREAM_IN_GOB (Table 4-7). -/
def State.resultBytes (s : State) (w : Work) : List Byte :=
  leBytes 4 (handleOf (s.gobRec w.headGob).gen w.headGob) ++ leBytes 4 w.dstRowBytes ++ leBytes 4 w.gobs.length
    ++ leBytes 4 0

def State.resultBid (s : State) (p : Nat) (w : Work) : Option Bid :=
  let b := burstAt w.desc.pointer 16 0
  if w.desc.op = some .streamInGob ∧ w.chain = .committed ∧ w.result = 0 ∧ !s.sharesBeat p b then
    some { ask := .result w.serial, cls := w.desc.svc,
           txn := { s.workTxn p w (.result p w.serial) b false w.desc.coherent with
                    write := true, wlo := b.lo, wdata := s.resultBytes w, rlo := 0, rlen := 0 } }
  else none

/-! ### Order within a channel (R182, R184) -/

/-- The read side of a piece of work is formed to its end: no extent is left after the one just finished. -/
def Work.readsDone (w : Work) (poolBase : Nat) : Bool :=
  (match w.desc.op with | some o => !o.usesTable || o == .scatterIdx || w.tableEnd | none => true)
    && w.nextGob.isNone && (w.srcExt poolBase w.rdExt).isNone
    && (!w.desc.fromRemote || decide (w.desc.length ≤ 1024 * w.frames))

/-- Every write burst of the work has been formed. -/
def Work.writesDone (w : Work) : Bool := decide (w.crcBits = w.dataBits)

/-- The piece of work has memory reads still to form. -/
def Work.readsWait (w : Work) (poolBase : Nat) : Bool :=
  !w.desc.fromRemote && (!w.readsDone poolBase || (w.desc.fromChain && w.desc.op != some .punty && w.chain == .unresolved))

/-- The piece of work has memory writes still to form. -/
def Work.writesWait (w : Work) : Bool :=
  w.desc.toMemory && (!w.writesDone || (w.desc.takes && w.pkt.isNone) || (w.desc.op == some .streamInGob && w.result == 0))

/-- The table reads of a channel's started work: a table is read ahead from the start edge on (R185). -/
def State.workTables (s : State) (p : Nat) (ws : List Work) : List Bid :=
  (ws.filter fun w => !s.isStale p w && (s.chan p).unfenced w).filterMap fun w => s.tableBid p w

/-- The data reads of a channel: those of its first piece of work that has any left (assumption 81). -/
def State.workReads (s : State) (p : Nat) : List Work → List Bid
  | [] => []
  | w :: t =>
    if !w.readsWait s.cul.poolBase then s.workReads p t
    else if s.isStale p w || !(s.chan p).unfenced w then []
    else (s.readBid p w).toList

/-- Every read of a channel. Within an extent the work's class offers nothing but the extent's next burst (R182). -/
def State.allReads (s : State) (p : Nat) (ws : List Work) : List Bid :=
  let fetch := if s.fetchPending p then (s.fetchBid p).toList else []
  match ws.find? fun w => decide (0 < w.rdPos) with
  | some w => (fetch.filter fun b => b.cls != w.desc.svc) ++ s.workReads p ws
  | none => fetch ++ s.workTables p ws ++ s.workReads p ws

/-- The burst shares a byte with what a taker that has no packet yet will write. -/
def Work.awaits (w : Work) (b : Bid) : Bool :=
  let lo := if w.desc.op = some .streamInGob then w.desc.pointer else w.desc.dstAddr
  let n := if w.desc.op = some .streamInGob then 16 else w.desc.length
  decide (b.txn.wlo < lo + n) && decide (lo < b.txn.wlo + b.txn.wdata.length)

/-- The writes of a channel: those of its first piece of work that has any left. A taker without a packet holds back
only writes to its own bytes (assumption 82). -/
def State.workWrites (s : State) (p : Nat) : List Work → List Bid
  | [] => []
  | w :: t =>
    if !w.writesWait then s.workWrites p t
    else if w.desc.takes && w.pkt.isNone then (s.workWrites p t).filter fun b => !w.awaits b
    else if s.isStale p w then []
    else (s.writeBid p w).toList ++ (s.resultBid p w).toList

/-- Every write of a channel: an extent that has begun goes on before any other (R182). -/
def State.allWrites (s : State) (p : Nat) (ws : List Work) : List Bid :=
  match ws.find? fun w => decide (0 < w.wrPos) with
  | some w => if s.isStale p w then [] else (s.writeBid p w).toList
  | none => s.workWrites p ws

/-! ### Eligibility (R138) -/

/-- Requests that wait in a port's queue for one direction, completion writes apart (Table 2-3, R145). -/
def State.queueLen (s : State) (port : Nat) (write : Bool) : Nat :=
  (s.txns.filter fun t => t.port == port && t.write == write && t.phase == .queued
    && !(match t.purpose with | .completion _ => true | _ => false)).length

/-- The bursts that a channel may be granted in one direction. -/
def State.bids (s : State) (p : Nat) (dir : Dir) : List Bid :=
  let c := s.chan p
  if !(c.state == .running || c.state == .stopping) || (s.bench (benchOf p)).resetting
      || decide (c.cfg.maxOut ≤ s.chanLoad p) then []
  else
    let works := c.started.filter Work.live
    let all : List Bid := match dir with
      | .read => s.allReads p works
      | .write => s.allWrites p works
    all.filter fun b => decide (s.queueLen b.txn.port (dir == .write) < Queue.depth .memoryRequest)

/-! ### Class and channel (R139 to R142) -/

/-- CAP of a class in beats (Table 5-8). -/
def capOf (reg : W32) (cls : Nat) : Nat := field32 reg (8 * cls + 7) (8 * cls) + 1

def Bench.sched (b : Bench) : Dir → Sched
  | .read => b.rd
  | .write => b.wr
def Bench.cap (b : Bench) : Dir → W32
  | .read => b.capRd
  | .write => b.capWr
def Bench.setSched (b : Bench) (d : Dir) (x : Sched) : Bench :=
  match d with
  | .read => { b with rd := x }
  | .write => { b with wr := x }

def Sched.cl (x : Sched) (k : Nat) : ClassState := look {} x.cls k

/-- The next burst of channel index `i` in class `k`: `pick` chooses among the channel's ready ones (assumption 22).
-/
def State.nextBid (s : State) (b : Nat) (dir : Dir) (pick k i : Nat) : Option Bid :=
  let l := (s.bids (16 * b + i) dir).filter fun x => x.cls == k
  l[pick % l.length]?

/-- Candidate channels of class `k`: eligible and, under step 1, with a next burst that fits the cap; the CAP of SC3 has
no effect (R141). -/
def State.candidates (s : State) (b : Nat) (dir : Dir) (pick k : Nat) (step1 : Bool) : List Nat :=
  (List.range 16).filter fun i =>
    match s.nextBid b dir pick k i with
    | none => false
    | some x => !step1 || k == 3
        || decide ((((s.bench b).sched dir).cl k).count + x.txn.beats ≤ capOf ((s.bench b).cap dir) k)

/-- The selected class with its candidates (R139). -/
def State.selectClass (s : State) (b : Nat) (dir : Dir) (pick : Nat) : Option (Nat × List Nat) :=
  let try_ := fun (step1 : Bool) =>
    ((List.range 4).map fun k => (k, s.candidates b dir pick k step1)).find? fun e => !e.2.isEmpty
  (try_ true).or (try_ false)

/-- The first of `l` in ascending index from the one after `last`, wrapping at 16. -/
def nextAfter (last : Nat) (l : List Nat) : Option Nat :=
  ((List.range 16).map fun j => (last + 1 + j) % 16).find? fun i => l.contains i

/-- WEIGHT of each channel index of a bench. -/
def State.weights (s : State) (b : Nat) : Tbl Nat := (List.range 16).map fun i => (i, (s.chan (16 * b + i)).cfg.weight)

/-- Turns left of each channel index in the running round; a round in which no turn has been taken has its WEIGHTs. -/
def State.turnsLeft (s : State) (b : Nat) (x : ClassState) : Tbl Nat := if x.left.isEmpty then s.weights b else x.left

/-- Channel index `i` takes its next turn in a round with these turns left. -/
def ClassState.takeTurn (x : ClassState) (left : Tbl Nat) (i : Nat) : ClassState :=
  { x with inTurn := true, last := i, used := 1, left := put left i (look 0 left i - 1) }

/-- The channel that takes the grant, and the class state after it: the running turn goes on, or the next turn goes to
the next candidate with turns left, a new round beginning when none has any (R142; assumption 21). -/
def State.turn (s : State) (b : Nat) (x : ClassState) (cand : List Nat) : Option (Nat × ClassState) :=
  if x.inTurn && cand.contains x.last && decide (x.used < (s.chan (16 * b + x.last)).cfg.burst) then
    some (x.last, { x with used := x.used + 1 })
  else
    match nextAfter x.last (cand.filter fun i => decide (0 < look 0 (s.turnsLeft b x) i)) with
    | some i => some (i, x.takeTurn (s.turnsLeft b x) i)
    | none => (nextAfter x.last cand).map fun i => (i, x.takeTurn (s.weights b) i)

/-- The class state at an edge at which `el` are the eligible channels: a turn ends when its channel is none of them, a
round when none of them has turns left (R142). -/
def ClassState.atEdge (x : ClassState) (el : List Nat) : ClassState :=
  { x with inTurn := x.inTurn && el.contains x.last
           left := if el.any fun i => decide (0 < look 0 x.left i) then x.left else [] }

/-- Ends the turns and rounds that are over in every scheduler. -/
def State.endTurns (s : State) : State :=
  let edge := fun (b : Nat) (dir : Dir) (x : Sched) =>
    { x with cls := x.cls.map fun e => (e.1, e.2.atEdge ((List.range 16).filter fun i =>
        (s.bids (16 * b + i) dir).any fun q => q.cls == e.1)) }
  { s with benches := s.benches.map fun e => (e.1, { e.2 with rd := edge e.1 .read e.2.rd, wr := edge e.1 .write e.2.wr }) }

/-! ### What follows at every cclk edge -/

/-- The watchdog of every channel runs exactly while something runs it (R283). -/
def State.startWatches (s : State) : State :=
  { s with chans := s.chans.map fun e =>
      (e.1, { e.2 with watch := if s.watchRuns e.1 then e.2.watch.or (some s.now.refclk) else none }) }

/-- F_STATUS.DRAINED sets at the first edge at which its condition holds, and stays (R309). -/
def State.markDrained (s : State) : State :=
  { s with fns := s.fns.map fun e => (e.1, { e.2 with drained := e.2.drained || s.fnDrained e.1 }) }

/-- Ends the pins that are over (R232). -/
def State.endPins (s : State) : State :=
  { s with chans := s.chans.map fun e => (e.1, { e.2 with started := e.2.started.map fun w =>
      { w with pinned := w.pinned && !s.pinOver e.1 w (w.chain != .unresolved && w.readsDone s.cul.poolBase) } }) }

/-- What the block decides at the edge of every change: watermarks (R203), stall watchdogs (R283), turns and rounds
(R142), releases (R195), record reads that are due (R220), pins (R232), SP_STAT.FULL (R207) and QUOTA_LOW (R241) against
the state `s0` before the change, DRAINED (R309). -/
def State.settle (s0 s : State) : State :=
  if cclkUp s then
    let s1 := s0.clearFull s.trim.culletReads.endPins
    (quotaLow s0 (((s1.ports.map Prod.fst).foldl State.compareWm s1).startWatches.endTurns)).markDrained
  else s

/-- The outcome of a change of `s0`, settled. -/
def settled (s0 : State) (o : Host.Outcome State Fault Refusal) : Host.Outcome State Fault Refusal :=
  match o with
  | .next s => .next (s0.settle s)
  | .fault r => .fault r
  | .refused r => .refused r

/-- Counts the granted beats; a sum of 256 closes the window; other classes' turns are over (R140, R142). -/
def Sched.account (x : Sched) (k beats : Nat) (c : ClassState) : Sched :=
  let cls := put ((List.range 4).foldl (fun t j => put t j { x.cl j with inTurn := false }) x.cls) k
    { c with count := c.count + beats }
  let total := ((List.range 4).map fun j => (look {} cls j).count).sum
  { cls := if 256 ≤ total then (List.range 4).foldl (fun t j => put t j { look {} t j with count := 0 }) cls else cls,
    lastCls := some k }

/-! ### Table entries (R116, R118, R120, R129, R185) -/

/-- Bytes `off` to `off + n − 1` of the table, once returned. -/
def tableSlice (raw : List (Nat × List Byte)) (off n : Nat) : Option (List Byte) :=
  (List.range n).mapM fun i =>
    (raw.find? fun e => decide (e.1 ≤ off + i) && decide (off + i < e.1 + e.2.length)).bind fun e => e.2[off + i - e.1]?

/-- Every burst of every earlier entry has been granted. -/
def Work.entriesGranted (w : Work) : Bool :=
  match w.desc.op with
  | some .scatterIdx => decide (w.entries.length ≤ w.wrExt)
  | some .blockGather => decide (w.entries.length * w.desc.blockH ≤ w.rdExt)
  | _ => decide (w.entries.length ≤ w.rdExt)

/-- The entry passes its range check. -/
def Work.entryOk (w : Work) (e : BitVec 128) : Bool :=
  let d := w.desc
  match d.op with
  | some .gatherIdx =>
    decide (0 ≤ (d.srcAddr : Int) + entOffset e)
      && decide ((d.srcAddr : Int) + entOffset e + rowBytes d.srcLayout d.length ≤ 2 ^ 52)
  | some .scatterIdx =>
    decide (0 ≤ (d.dstAddr : Int) + entOffset e)
      && decide ((d.dstAddr : Int) + entOffset e + rowBytes d.dstLayout d.length ≤ 2 ^ 52)
  | some .blockGather =>
    decide (entX e + d.blockW ≤ rowWords d.length) && decide (entY e + d.blockH ≤ d.rows)
  | some .frag =>
    let whole := fun l => !(l == 4 || l == 5) || entLen e % 9 == 0
    decide (e.toNat / 2 ^ 52 % 2 ^ 12 = 0) && decide (e.toNat / 2 ^ 101 = 0) && decide (entLen e ≠ 0)
      && decide (entLayout e ≤ 5) && whole (entLayout e) && (whole d.dstLayout || d.toPort)
      && decide (entAddr e + rowBytes (entLayout e) (entLen e) ≤ 2 ^ 52)
      && decide ((w.entries.map entLen).sum + entLen e ≤ d.length)
  | _ => true

/-- Takes the next table entry. A fragment table that ends below LENGTH leaves what its entries hold to deliver, after
which INDEX_RANGE is decided (R120; assumption 42). -/
def Work.addEntry (w : Work) (e : BitVec 128) : Work :=
  let es := w.entries ++ [e]
  let fin := decide (es.length = w.desc.entryCount) || (w.desc.op == some .frag && entLast e)
  { w with entries := es, tableEnd := fin,
           clip := if fin && w.desc.op == some .frag && decide (fragBits es < 8 * w.desc.length) then some (fragBits es)
                   else w.clip }

/-- Decodes the next entry when its bytes have returned and the earlier ones are granted: an entry out of range fails the
descriptor with INDEX_RANGE. -/
def State.decodeEntry (s : State) (p serial : Nat) : State :=
  match s.work? p serial with
  | none => s
  | some w =>
    match w.desc.op with
    | none => s
    | some o =>
      if !o.usesTable || !w.live || w.tableEnd || !w.entriesGranted || decide (w.desc.entryCount ≤ w.entries.length) then s
      else
        match tableSlice w.tableRaw (w.entries.length * w.desc.entrySize) w.desc.entrySize with
        | none => s
        | some bytes =>
          let e := BitVec.ofNat 128 (ofLeBytes bytes)
          if w.entryOk e then
            s.modWork p serial fun x => x.addEntry e
          else s.failWork p serial .indexRange

/-! ### The granted burst -/

/-- A packet of the work is complete in reads at this point: every block ends one (R119), any other work ends one when
its reads are done. -/
def Work.packetRead (w : Work) (poolBase : Nat) : Bool :=
  if w.desc.op = some .blockGather then decide (w.rdExt % w.desc.blockH = 0) && decide (w.rdPos = 0)
  else w.readsDone poolBase

/-- Claims the port for the packet being read, or gives it free at its last read (R198). -/
def State.claimPort (s : State) (p serial : Nat) : State :=
  match s.work? p serial with
  | none => s
  | some w =>
    if !w.desc.toPort then s
    else
      s.modPort w.desc.dstAddr fun x =>
        { x with takers := if x.claim = some (p, serial) then x.takers else x.takers ++ [(p, serial)]
                 claim := if w.packetRead s.cul.poolBase then none else some (p, serial) }

/-- Moves the read cursor past a burst of `n` bytes. -/
def Work.afterRead (w : Work) (poolBase n : Nat) : Work :=
  match w.srcExt poolBase w.rdExt with
  | none => w
  | some (_, size) =>
    if size ≤ w.rdPos + n then { w with rdExt := w.rdExt + 1, rdPos := 0, rdV := w.rdV + n }
    else { w with rdPos := w.rdPos + n, rdV := w.rdV + n }

/-- Moves the write cursor past a burst of `n` bytes. -/
def Work.afterWrite (w : Work) (poolBase n : Nat) : Work :=
  match w.dstExt poolBase w.wrExt with
  | none => w
  | some (_, size, _) =>
    if size ≤ w.wrPos + n then { w with wrExt := w.wrExt + 1, wrPos := 0 } else { w with wrPos := w.wrPos + n }

/-- The last gob's record takes LAST and its FILL once every write of the chain is formed (R229). -/
def State.markLast (s : State) (w : Work) : State :=
  match w.gobs.getLast? with
  | none => s
  | some g => s.writeRec g.gob { s.gobRec g.gob with last := true, next := 0, fill := g.bytes - 1 }

/-- The effect of a granted burst on its channel, once it is in the request queue. -/
def State.formBid (s : State) (p : Nat) (b : Bid) : State :=
  let t := { b.txn with cell := s.nextCell (benchOf p) b.txn.landing }
  let s1 := (s.takeLane (benchOf p) t.landing t.space).post t
  match b.ask with
  | .fetch =>
    s1.modChan p fun c => { c with ring := { c.ring with
      retries := if c.ring.again then c.ring.retries + 1 else c.ring.retries
      again := false, forced := false } }
  | .table n => s1.modWork p n fun w => { w with tablePos := w.tablePos + b.txn.rlen }
  | .read n =>
    let s2 := s1.modWork p n fun w => w.afterRead s.cul.poolBase b.txn.rlen
    (s2.claimPort p n).decodeEntry p n
  | .write n =>
    match b.txn.purpose with
    | .dataWrite _ _ _ hi =>
      let s2 := s1.modWork p n fun w => (w.takeCrc hi).afterWrite s.cul.poolBase b.txn.wdata.length
      let s3 := s2.modWork p n fun w =>
        if w.desc.op = some .streamInGob ∧ w.gobs.length ≤ w.wrExt ∧ !w.writesDone then { w with chain := .requesting }
        else w
      match s3.work? p n with
      | none => s3
      | some w =>
        if w.desc.op = some .streamIn ∧ w.writesDone
            ∧ w.takeWords < (match w.pkt with | some k => k.words.length | none => 0) then
          s3.failWork p n .indexRange
        else if w.desc.op = some .streamInGob ∧ w.writesDone then s3.markLast w
        else s3.decodeEntry p n
    | _ => s1
  | .result n => s1.modWork p n fun w => { w with result := 1 }

/-- A burst whose two addresses differ does not enter the queue (R280; assumption 14). -/
def State.addrFault (s : State) (p : Nat) (a : Ask) : State :=
  let s1 : State := { s with safety := { s.safety with addrBurst := satAdd 16 s.safety.addrBurst 1 } }
  let s2 := match a with
    | .fetch => s1.failPoint p { cause := .fetch, status := .crcMismatch, idx := (s.chan p).ring.f }
    | .table n | .read n | .write n | .result n => s1.failWork p n .crcMismatch
  (s2.chanCause p 2).raise 1410

/-- An uncorrectable crucible word in a burst's data (R214; assumption 18). -/
def State.eccFault (s : State) (p serial : Nat) : State := (s.failWork p serial .eccUncorrected).chanCause p 3

/-- The work whose crucible words a grant reads: the data of a write burst, or the table entries it decodes (R185). -/
def Ask.reads? : Ask → Option Nat
  | .write n | .read n => some n
  | _ => none

/-- The burst of a grant: an uncorrectable word that it reads and a difference of its two addresses are both reported,
the first deciding the status (R135); else it is formed. A write burst with such a word is not formed (assumption 18). -/
def State.issueBid (s : State) (p : Nat) (b : Bid) (addrFault : Bool) (found : List CruFault) : State :=
  let bad := addrFault && s.member.safetyFull
  match b.ask.reads? with
  | some n =>
    let s1 := s.countEcc found
    let s2 := if eccUe found then s1.eccFault p n else s1
    if bad then s2.addrFault p b.ask
    else if eccUe found && b.txn.write then s2
    else s2.formBid p b
  | none => if bad then s.addrFault p b.ask else s.formBid p b

/-- SCHEDULER_GRANT (R139): one burst of the bench in one direction. `found` are the faulty crucible words that the grant
reads, `ctx` the faulty context words. -/
def execSchedulerGrant (bench : Nat) (dir : Dir) (pick : Nat) (addrFault : Bool) (faulty : Faulty)
    (s : State) : Host.Outcome State Fault Refusal :=
  if !(bench < s.member.benches && cclkUp s && s.rst.crucible) then .next s
  else
    match s.selectClass bench dir pick with
    | none => .next s
    | some (k, cand) =>
      let x := (s.bench bench).sched dir
      match s.turn bench (x.cl k) cand with
      | none => .next s
      | some (i, c) =>
        match s.nextBid bench dir pick k i with
        | none => .next s
        | some b =>
          .next (s.settle (((s.modBench bench fun q => q.setSched dir (x.account k b.txn.beats c)).issueBid
            (16 * bench + i) b addrFault faulty.found).ctxFaults faulty.ctx))

/-- ADDRESS_STATE_SCAN (R281): the next channel of the bench is compared; a difference fails its oldest unfinished
descriptor, or halts a channel without one, whatever its state, without completion (assumption 15). -/
def execAddressStateScan (bench : Nat) (mismatch : Bool) (s : State) : Host.Outcome State Fault Refusal :=
  if !(bench < s.member.benches && s.member.safetyFull && cclkUp s) then .next s
  else
    let i := (s.bench bench).scan
    let s1 := s.modBench bench fun q => { q with scan := (i + 1) % 16 }
    if !(mismatch && s.member.chanPresent (16 * bench + i)) then .next s1
    else
      let p := 16 * bench + i
      let s2 : State := { s1 with safety := { s1.safety with addrState := satAdd 16 s1.safety.addrState 1 } }
      let c := s2.chan p
      let s3 := match c.started.find? Work.live with
        | some w => s2.failWork p w.serial .crcMismatch
        | none =>
          if c.owner.isSome && c.started.isEmpty then
            s2.failPoint p { cause := .addrState, status := .crcMismatch, idx := c.ring.h, record := false }
          else s2
      .next (s.settle ((s3.chanCause p 2).raise 1410))

end Sys2Proof.Machine
end

