-- ==== Sys2Proof/Machine/Bus.lean ====
section
/-! DEFINITION. The memory side: address handshakes (R43, R146), read and write responses (R194, R195, R299), reheats
(R299, R301), descriptor fetches (R79), segment checks (R278) and the stall watchdog (R283). -/

namespace Sys2Proof.Machine

/-! ### Handshakes and matching -/

/-- The first of the waiting transactions `q`: a completion write of the lowest PCH, then the oldest device-owned access,
then the queue in order (R146). The rule orders a freed place; the model keeps the order at every handshake
(assumption 91). -/
def firstIssue (q : List Txn) : Option Txn :=
  let cpl := (List.range 128).findSome? fun p => q.find? fun t => t.purpose == .completion p
  (cpl.or (q.find? fun t => t.axid == deviceAxid)).or q.head?

/-- The transaction that takes the next address handshake of a port in a direction: the last place of a full port is
decided over both directions (R146). -/
def State.nextIssue (s : State) (port : Nat) (write : Bool) : Option Txn :=
  let q := s.txns.filter fun t => t.port == port && t.phase == .queued
  if s.portLoad port = 511 then (firstIssue q).filter fun t => t.write == write
  else firstIssue (q.filter fun t => t.write == write)

/-- Replaces transaction `id`. -/
def State.setTxn (s : State) (id : Nat) (g : Txn → Txn) : State :=
  { s with txns := mapIf (fun t => t.id == id) g s.txns }
/-- Removes transaction `id`. -/
def State.delTxn (s : State) (id : Nat) : State := { s with txns := s.txns.filter fun t => t.id != id }

/-- The transaction that a response of this port and ID answers: responses of one ID return in issue order (R41). -/
def State.answered (s : State) (port : Nat) (axid : BitVec 8) (write : Bool) : Option Txn :=
  if !s.canRetire then none
  else s.txns.find? fun t => t.port == port && t.axid == axid && t.write == write && t.isIssued

/-! ### Failing bursts (R299, R301, R307, R308, Table 11-4) -/

/-- The work that builds the chain of gob `g`, with its channel. -/
def State.builderOf (s : State) (g : Nat) : Option (Nat × Nat) :=
  s.chans.findSome? fun e =>
    (e.2.started.find? fun w => w.live && (w.chain == .requesting || w.chain == .building || w.chain == .committing)
        && w.gobs.any fun x => x.gob == g).map fun w => (e.1, w.serial)

/-- Changes request `j` in service at the responder. -/
def State.modJob (s : State) (j : Nat) (g : XJob → XJob) : State :=
  { s with xez := { s.xez with jobs := mapIf (fun x => x.id == j) g s.xez.jobs } }

/-- What the owner of a burst makes of its exhausted reheats. -/
def State.busFail (s : State) (t : Txn) : State :=
  match t.purpose with
  | .fetch p => s.failPoint p { cause := .fetch, status := .busError, idx := (s.chan p).ring.f }
  | .table p n _ | .dataRead p n _ _ | .dataWrite p n _ _ | .result p n => s.failWork p n .busError
  | .completion p =>
    let c := s.chan p
    let last := c.cpl.flying.getLast?
    let h : HaltPoint :=
      match last with
      | some r =>
        if c.cfg.cplRingMode ∨ r.loads.isSome then
          { cause := .cplWrite, status := r.status, idx := r.idx, residue := r.residue, crc := r.crc, record := false }
        else { cause := .cplWrite, status := .ok, idx := c.cpl.flyingIdx, record := false }
      | none => { cause := .cplWrite, status := .ok, idx := c.cpl.flyingIdx, record := false }
    let s1 := s.modChan p fun x => { x with cpl := { x.cpl with flying := [], flyingSlot := none, outstanding := false } }
    let s2 := (s1.chan p).started.foldl (fun r w => r.abandonWork p true w) s1
    (s2.modChan p fun x => { x with halt := { x.halt with pending := true, point := some h },
                                    wantsSignal := none }).raise (chanEvent p 3)
  | .msi v =>
    let x := s.vec v
    ((s.setVec v { x with raises := x.raises + x.covered, covered := 0, outstanding := false }).maskVec v true).raise
      1475
  | .record g =>
    match s.builderOf g with
    | some (p, n) => (s.failWork p n .busError).quarantine g
    | none =>
      if s.cul.quarantined.contains g then s
      else s.quarantine g
  | .spill => (s.stackGobs t.wlo t.wdata.length).foldl State.quarantine s
  | .fill => (s.stackGobs t.rlo t.rlen).foldl State.quarantine s
  | .headRec p n => s.modWork p n fun w => { w with headRec := some none }
  | .memberRec p n g => s.memberRead p n g none
  | .walkRec h => s.walkRead h none
  | .sweep pos => { s with cul := { s.cul with sweepData := s.cul.sweepData ++ [(pos, [])] } }
  | .sweepHead g =>
    ({ s with cul := { s.cul with sweepHead := some (g, none) } } : State).quarantine g
  | .xwrite j | .xread j _ _ =>
    s.modJob j fun x => { x with failed := true }
  | .retired => s

/-- Counts an exhaustion for its owner. -/
def State.countExhausted (s : State) (t : Txn) : State :=
  match t.purpose with
  | .completion p | .fetch p | .table p _ _ | .dataRead p _ _ _ | .dataWrite p _ _ _ | .result p _ =>
    s.modChan p fun c => { c with halt := { c.halt with exhausted := satAdd 16 c.halt.exhausted 1 } }
  | _ => { s with glob := { s.glob with devExhausted := satAdd 16 s.glob.devExhausted 1 } }

/-- Counts a reheat for its owner. -/
def State.countReheat (s : State) (t : Txn) : State :=
  match t.purpose with
  | .completion p | .fetch p | .table p _ _ | .dataRead p _ _ _ | .dataWrite p _ _ _ | .result p _ =>
    s.modChan p fun c => { c with halt := { c.halt with reheats := satAdd 16 c.halt.reheats 1 } }
  | _ => { s with glob := { s.glob with devReheats := satAdd 16 s.glob.devReheats 1 } }

/-- A burst that no scheduler grants: a completion write, a message-signalled interrupt, a Cullet or a Xezan access. -/
def Purpose.ungranted : Purpose → Bool
  | .fetch _ | .table _ _ _ | .dataRead _ _ _ _ | .dataWrite _ _ _ _ | .result _ _ | .retired => false
  | _ => true

/-- A burst that no scheduler grants and whose two addresses differ is not issued: its owner treats it as failed (R280,
R290; assumption 14). -/
def State.addrFailed (s : State) (t : Txn) : State :=
  let s1 : State := { s with safety := { s.safety with addrBurst := satAdd 16 s.safety.addrBurst 1 } }
  let s2 := match t.purpose with
    | .completion p => s1.chanCause p 2
    | _ => s1.setCause 2
  (((s2.delTxn t.id).freeTxn t).busFail t).raise 1410

/-- ADDRESS_HANDSHAKE (R43): the request leaves its queue and counts toward the port's 512. The addresses of a burst that
no scheduler grants are compared here. -/
def execAddressHandshake (port : Nat) (shake : Handshake) (s : State) : Host.Outcome State Fault Refusal :=
  settled s <|
  if s.portUp port && decide (s.portLoad port < 512) then
    match s.nextIssue port (shake.dir == .write) with
    | none => .next s
    | some t =>
      if shake.addrFault && s.member.safetyFull && t.purpose.ungranted then .next (s.addrFailed t)
      else .next { s with txns := (s.delTxn t.id).txns ++ [{ t with phase := .issued }] }
  else .next s

/-- No reheat follows for this burst: its owner has failed, is abandoned or is aborting (R301). -/
def State.noReheat (s : State) (t : Txn) : Bool :=
  t.dropped || t.voided
    || (match t.purpose.pch? with
        | some p => (s.chan p).state == .aborting
        | none => false)

/-- A failed burst: a reheat becomes due 64 cclk cycles later, or its failure is final. -/
def State.burstFailed (s : State) (t : Txn) : State :=
  if s.noReheat t then (s.delTxn t.id).freeTxn t
  else if t.attempt < s.glob.retryLimit then
    s.setTxn t.id fun x => { x with phase := .reheat (s.now.cclk + 64), got := [], failed := false }
  else (((s.delTxn t.id).freeTxn t).countExhausted t).busFail t

/-- REHEAT (R299): the burst re-enters its port's queue, which has a free entry. -/
def execReheat (txn : Nat) (s : State) : Host.Outcome State Fault Refusal := settled s <|
  match s.txns.find? fun t => t.id == txn with
  | none => .next s
  | some t =>
    match t.phase with
    | .reheat due =>
      if (match t.purpose with
        | .completion _ => true
        | _ => decide (s.queueLen t.port t.write < Queue.depth .memoryRequest)) then
        let s1 := (s.reachCclk due).countReheat t
        .next { s1 with txns := (s1.delTxn txn).txns ++ [{ t with phase := .queued, attempt := t.attempt + 1 }] }
      else .next s
    | _ => .next s

/-! ### Reads -/

/-- A reheated burst has succeeded: its recovery is reported (R293, Table 10-6). -/
def State.recovered (s : State) (t : Txn) : State := if 0 < t.attempt then s.raise 1419 else s

/-- The words of a burst land: the space that they do not fill returns (R194). -/
def State.land (s : State) (p serial : Nat) (l : Landing) (space cell vlo : Nat) (bytes : List Byte) : State :=
  match s.work? p serial with
  | none => s.freeLane (benchOf p) l space
  | some w =>
    let at_ := w.wordSpan vlo bytes.length
    let n := at_.2.2 - at_.2.1
    let keep := match l with
      | .port _ => min space n
      | _ => min space ((n + 63) / 64)
    ((s.freeLane (benchOf p) l (space - keep)).wrote (l.holder (benchOf p)) cell 0 n).modWork p serial fun w =>
      let x : Work := { w with landed := w.landed ++ [{ off := vlo, bytes := bytes, space := keep, drain := l == .drain,
                                                        touch := at_.1, first := at_.2.1, last := at_.2.2,
                                                        cell := cell }] }
      x.takeRead (w.sourceBits vlo bytes)

/-- The next beats of outbound port `q` are read from the crucible and written into its queue. An uncorrectable word is
not delivered: its packet ends with an abort beat, and its owner with ECC_UNCORRECTED (R214). -/
def State.pumpRead (s : State) (q : Nat) (found : List CruFault) : State :=
  match (s.port q).takers with
  | [] => s
  | (p, n) :: _ =>
    if Queue.depth .streamOutbound ≤ (s.port q).outq.length then s
    else
      match (s.work? p n).bind Work.nextBeat with
      | none => s
      | some _ => if eccUe found then (s.countEcc found).eccFault p n else (s.countEcc found).pump q

/-- What a read that succeeded brings its owner; `found` are the faulty crucible words that are read at this edge: table
entries, and beats written into an outbound queue. -/
def State.readDone (s : State) (t : Txn) (found : List CruFault) : State :=
  let bytes := beatsSlice t.addr t.got t.rlo t.rlen
  match t.purpose with
  | .table p n off =>
    let s1 := (((s.wrote (t.landing.holder (benchOf p)) t.cell 0 ((8 * bytes.length + 35) / 36)).freeTxn t).modWork p n
      fun w => { w with tableRaw := w.tableRaw ++ [(off, bytes)] }).countEcc found
    if eccUe found then s1.eccFault p n else s1.decodeEntry p n
  | .dataRead p n vlo _ =>
    let s1 := s.land p n t.landing t.space t.cell vlo bytes
    match t.landing with
    | .port q => s1.pumpRead q found
    | _ => s1
  | .fill => { s with cul := { s.cul with onBlock := min (s.cul.onBlock + t.rlen / 4) s.cul.stack.length } }
  | .headRec p n => s.modWork p n fun w => { w with headRec := some (recordIn 0 bytes 0) }
  | .memberRec p n g => s.memberRead p n g (recordIn g bytes g)
  | .walkRec h => s.walkRead h (recordIn 0 bytes 0)
  | .sweep pos => { s with cul := { s.cul with sweepData := s.cul.sweepData ++ [(pos, bytes)] } }
  | .sweepHead g => { s with cul := { s.cul with sweepHead := some (g, recordIn g bytes g) } }
  | .xread j off _ =>
    s.modJob j fun x => { x with data := x.data ++ [(off, bytes)] }
  | _ => s

/-- Restarts the watchdog of a transaction's channel. -/
def State.touchTxn (s : State) (t : Txn) : State :=
  match t.purpose.pch? with
  | some p => s.touchWatch p
  | none => s

/-- READ_RESPONSE (R194, R299): one R beat; the burst's fate is decided at its last beat. A fetch's result comes with
FETCH_RESULT. -/
def execReadResponse (port : Nat) (axid : BitVec 8) (beat : ReadBeat) (resp : Resp) (s : State) :
    Host.Outcome State Fault Refusal := settled s <|
  match s.answered port axid false with
  | none => .next s
  | some t =>
    let t1 := { t with got := t.got ++ [beat.data], failed := t.failed || resp.isError }
    if (match t.purpose with | .fetch _ => true | _ => false) then .next s
    else if t1.got.length < t.beats then .next ((s.setTxn t.id fun _ => t1).touchTxn t)
    else if t.phase = .retiring then .next (s.delTxn t.id)
    else if t1.failed then .next ((s.burstFailed t1).touchTxn t)
    else if t.dropped || t.voided then .next (((s.delTxn t.id).freeTxn t).touchTxn t)
    else .next (((((s.delTxn t.id).recovered t).readDone t1 beat.faulty.found).touchTxn t).ctxFaults beat.faulty.ctx)

/-! ### Writes -/

/-- The half mark is reached (R101, R160): by a failed descriptor's granted writes too (R302). A pass from a port whose
packet stays below the half mark of C_LEN raises no HALF (assumption 90). -/
def State.halfCheck (s : State) (p serial : Nat) : State :=
  match s.work? p serial with
  | none => s
  | some w =>
    if !w.halfRaised && !w.abandoned && (w.pass || w.desc.intHalf) && decide (w.desc.halfMark ≤ w.usedBits / 8) then
      (s.modWork p serial fun x => { x with halfRaised := true }).raise (chanEvent p 0)
    else s

/-- The comparison with EXPECT_CRC once every data bit is delivered (R134). -/
def State.expectCheck (s : State) (p serial : Nat) : State :=
  match s.work? p serial with
  | none => s
  | some w =>
    if w.live && w.clip.isNone && w.desc.crcCheck && (match w.desc.op with | some o => o.comparesCrc | none => false)
        && w.prefixBits == w.dataBits && w.crcBits == w.dataBits && ~~~ w.crcReg != w.desc.expectCrc then
      (s.modWork p serial fun x => { x with expectFailed := true }).failWork p serial .crcMismatch
    else s

/-- Delivery bits `lo` to `hi − 1` are delivered. -/
def State.deliverBits (s : State) (p serial lo hi : Nat) : State :=
  match s.work? p serial with
  | none => s
  | some w =>
    if w.abandoned then s
    else
      ((s.modWork p serial fun x => { x with delivered := addRange lo hi x.delivered }).halfCheck p serial).expectCheck
        p serial

/-- What a write that succeeded brings its owner: the words that it covers are released as the edge settles (R195). -/
def State.writeDone (s : State) (t : Txn) : State :=
  match t.purpose with
  | .dataWrite p n lo hi => s.deliverBits p n lo hi
  | .result p n => s.modWork p n fun w => { w with result := 2 }
  | .msi v => (s.setVec v { s.vec v with covered := 0, outstanding := false }).decideVec v false
  | .record g =>
    match s.builderOf g with
    | some (p, n) => s.modWork p n fun w =>
        if w.chain = .committing ∧ w.headGob = g then { w with chain := .committed } else w
    | none => s
  | _ => s

/-- WRITE_RESPONSE (R195, R299): the B response of a write that is no completion write. -/
def execWriteResponse (port : Nat) (axid : BitVec 8) (resp : Resp) (s : State) : Host.Outcome State Fault Refusal :=
  settled s <|
  match s.answered port axid true with
  | none => .next s
  | some t =>
    if (match t.purpose with | .completion _ => true | _ => false) then .next s
    else if t.phase = .retiring then .next (s.delTxn t.id)
    else if t.voided then .next ((s.delTxn t.id).touchTxn t)
    else if resp.isError then .next ((s.burstFailed t).touchTxn t)
    else .next ((((s.delTxn t.id).recovered t).writeDone t).touchTxn t)

/-! ### Descriptor fetches (R79, R81) -/

/-- Accepts the visible entries of a fetched run, in order: what is left, and the ring after it. -/
def acceptEntries (r : Ring) : List Desc → Ring × Bool
  | [] => (r, true)
  | d :: t =>
    if d.phase = expectedPhase r.order r.f then
      acceptEntries { r with accepted := r.accepted ++ [{ idx := r.f, desc := d }], f := ringNext r.order r.f } t
    else (r, false)

/-- A fetch result on the ring at cclk edge `now`: the new ring and whether the channel parks. -/
def Ring.result (r : Ring) (now : Nat) (ds : List Desc) : Ring × Bool :=
  let (r1, all) := acceptEntries r ds
  let r2 := if r1.f = r.f then r1 else { r1 with retries := 0 }
  if all then ({ r2 with retries := 0, again := false, forced := false }, false)
  else if r2.forced then ({ r2 with forced := false, again := true, reReadAt := none }, false)
  else if 8 ≤ r2.retries then
    ({ r2 with parked := true, staleSeen := true, parkCount := satAdd 16 r2.parkCount 1, again := false }, true)
  else ({ r2 with again := true, reReadAt := some (now + 28) }, false)

/-- The entries in the bytes of a fetch. -/
def fetchedDescs (bytes : List Byte) (n : Nat) : List Desc :=
  (List.range n).map fun j => descOfNat (ofLeBytes ((bytes.drop (64 * j)).take 64))

/-- FETCH_RESULT (R79): the channel's fetch read returns. -/
def execFetchResult (pch : Nat) (beats : List MemBeat) (resp : Resp) (s : State) : Host.Outcome State Fault Refusal :=
  settled s <|
  match s.txns.find? fun t => t.purpose == .fetch pch && t.isIssued with
  | none => .next s
  | some t =>
    if (s.answered t.port t.axid false).map Txn.id != some t.id || beats.length != t.beats then .next s
    else if t.phase = .retiring then .next (s.delTxn t.id)
    else if resp.isError then .next ((s.burstFailed t).touchTxn t)
    else if t.dropped || t.voided then .next (((s.delTxn t.id).freeTxn t).touchTxn t)
    else
      let s1 := (((s.delTxn t.id).freeTxn t).recovered t).touchTxn t
      let out := (s.chan pch).ring.result s.now.cclk (fetchedDescs (beatsSlice t.addr beats t.rlo t.rlen) (t.rlen / 64))
      let s2 := s1.modChan pch fun c => { c with ring := out.1 }
      .next (if out.2 then s2.raise (chanEvent pch 2) else s2)

/-- RE_READ_READY (R79): 28 cclk cycles after the result the re-read may be granted. -/
def execReReadReady (pch : Nat) (s : State) : Host.Outcome State Fault Refusal := settled s <|
  match (s.chan pch).ring.reReadAt with
  | none => .next s
  | some t => .next ((s.reachCclk t).modChan pch fun c => { c with ring := { c.ring with reReadAt := none } })

/-! ### Checks on the way -/

/-- Segment `seg` has both its CRCs (R278). -/
def Work.segmentReady (w : Work) (seg : Nat) : Bool := decide (min (131072 * (seg + 1)) w.dataBits ≤ w.crcBits)

/-- SEGMENT_CHECK (R278, R292): the check edge of the next segment of the piece of work at index value `idx`. Its CRCs
are the block's own (R277); `readFlip` and `writeFlip` are what a fault at either point has changed in its CRC
(assumption 9). A status decided before leaves the check standing (R135). -/
def execSegmentCheck (pch idx seg : Nat) (readFlip writeFlip : W32) (s : State) : Host.Outcome State Fault Refusal :=
  settled s <|
  match (s.chan pch).started.find? fun w => !w.abandoned && w.idx == idx with
  | none => .next s
  | some w =>
    if w.segOk = seg ∧ seg < w.segments s.member ∧ w.segmentReady seg then
      let s1 := s.modWork pch w.serial fun x => { x with segOk := seg + 1 }
      if w.segReadCrc seg ^^^ readFlip = w.segWriteCrc seg ^^^ writeFlip then .next s1
      else
        let s2 : State := { s1 with safety := { s1.safety with segStat := satAdd 32 s1.safety.segStat 1 } }
        .next (((s2.failWork pch w.serial .crcMismatch).chanCause pch 1).raise 1409)
    else .next s

/-- STALL_WATCHDOG_FIRE (R283): S_STALL_LIMIT refclk cycles have passed without progress. -/
def execStallWatchdogFire (pch : Nat) (s : State) : Host.Outcome State Fault Refusal := settled s <|
  match (s.chan pch).watch with
  | none => .next s
  | some t =>
    let s1 := s.reachRefclk (t + s.safety.stallLimit)
    let fetching := s.fetching pch
    let s2 := s1.dropWhere fun x => x.purpose.pch? == some pch
    let s3 : State := { s2 with
      safety := { s2.safety with stallCnt := satAdd 32 s2.safety.stallCnt 1 }
      txns := mapIf (fun x => x.purpose.pch? == some pch) (fun x => { x with voided := true }) s2.txns }
    let s4 := match (s.chan pch).started.head? with
      | some w => s3.failWork pch w.serial .stall
      | none =>
        if fetching then s3.failPoint pch { cause := .fetch, status := .stall, idx := (s.chan pch).ring.f } else s3
    let s5 := (s4.modChan pch fun c => { c with watch := none }).raise (chanEvent pch 7)
    .next ((s5.chanCause pch 5).raise 1413)

end Sys2Proof.Machine
end

