-- ==== Sys2Proof/Machine/Rings.lean ====
section
/-! DEFINITION. Ring indices and doorbells (R75 to R84), the checks of a descriptor (R130) and of a pass (R157), and the
start of work (R131, R153 to R158, R244, R295). -/

namespace Sys2Proof.Machine

/-! ### Doorbells (R76, R81) -/

/-- The tail that a legal doorbell names (R76). -/
def Ring.newTail (r : Ring) (data : W32) : Option Nat :=
  match idxValue r.order data with
  | none => none
  | some t =>
    if ringCount r.order r.h r.t ≤ ringCount r.order r.h t ∧ ringCount r.order r.h t ≤ 2 ^ r.order then some t else none

/-- The doorbell edge of a legal tail with the forced re-read of R81; `fetching` when a read of F is in flight. -/
def Ring.ring (r : Ring) (t : Nat) (fetching : Bool) : Ring :=
  if r.f = t then { r with t := t }
  else if r.parked || r.reReadAt.isSome || r.again then
    { r with t := t, parked := false, retries := 0, reReadAt := none, again := false }
  else if fetching then { r with t := t, retries := 0, forced := true }
  else { r with t := t }

/-- A legal doorbell on a channel. -/
def State.ringDoorbell (s : State) (p t : Nat) : State :=
  s.modChan p fun c => { c with ring := c.ring.ring t (s.fetching p) }

/-- COUNT of a PUSH_COMMIT. -/
def pushCount (data : W32) : Nat := field32 data 26 24

/-- A legal PUSH_COMMIT (R83). -/
def Ring.pushLegal (r : Ring) (data : W32) : Option Nat :=
  match r.newTail data with
  | none => none
  | some t =>
    if 1 ≤ pushCount data ∧ pushCount data ≤ 4 ∧ pushCount data ≤ ringCount r.order r.t t then some t else none

/-- The push copy is used (R84): the channel runs, is not parked, and F stands at the first pushed entry. -/
def Chan.pushUsable (c : Chan) (t n : Nat) : Bool :=
  c.state == .running && !c.ring.parked && ringAdd c.ring.order c.ring.f n == t

/-- A legal PUSH_COMMIT on a channel (assumption 86). -/
def State.pushCommit (s : State) (p t n : Nat) : State :=
  let used := (s.chan p).pushUsable t n
  let ds := (List.range n).map fun j => descOfPush (s.chan p).push j
  (s.ringDoorbell p t).modChan p fun c =>
    if used then { c with ring := (acceptEntries c.ring ds).1, pushUsed := satAdd 16 c.pushUsed 1 }
    else { c with pushMissed := satAdd 16 c.pushMissed 1 }

/-! ### What makes a descriptor malformed (R130; the fields examined: R100, R114) -/

/-- Item 1: the opcode is unknown or excluded in the member. -/
def opExcluded (m : Member) (d : Desc) : Bool :=
  match d.op with
  | none => true
  | some .streamInGob | some .punty => !m.hasCullet
  | some .remoteRead | some .remoteWrite => !m.hasXezan
  | some _ => false

def opUsesSrc (o : Op) : Bool := !o.srcSpaces.isEmpty
def opUsesDst (o : Op) : Bool := !o.dstSpaces.isEmpty

/-- Item 3 for one side: an unknown or excluded SPACE, or bits of ADDRESS that must be zero (R104, R27, R28). -/
def spaceBad (m : Member) (q : W64) : Bool :=
  if spaceOf q = 0 then false
  else if spaceOf q = 1 then decide (64 ≤ addressOf q)
  else if spaceOf q = 2 then !m.hasCullet || decide (2 ^ 32 ≤ addressOf q)
  else if spaceOf q = 0x80 then !m.hasXezan
  else true

/-- Item 5: the port of a SPACE 0x01 side is absent, not held by the function or of the other direction (R105). -/
def State.portBad (s : State) (f : Nat) (q : W64) (out : Bool) : Bool :=
  spaceOf q == 1 && !(s.member.portPresent (addressOf q) && (s.port (addressOf q)).holder == some f
    && (s.port (addressOf q)).dirOut == out)

/-- A side in local memory or a gob chain, which has a layout. -/
def hasLayout (space : Nat) : Bool := space == 0 || space == 2

/-- The layout codes that the descriptor uses (R109): PUNTY's source chain, which has no geometry, has no layout to
examine (assumption 107). -/
def Desc.layouts (d : Desc) (o : Op) : List Nat :=
  (if opUsesSrc o && o != .punty && hasLayout d.srcSpace then [d.srcLayout] else [])
    ++ (if opUsesDst o && hasLayout d.dstSpace then [d.dstLayout] else [])

/-- [lo, lo + n) leaves the address space. -/
def outside (lo : Int) (n : Nat) : Bool := decide (lo < 0) || decide ((2 : Int) ^ 52 < lo + n)

/-- A grid of rows leaves the address space: its first and last rows and planes bound it (R111). -/
def gridOutside (base size : Nat) (stride plane : Int) (rows planes : Nat) : Bool :=
  [0, rows - 1].any fun r => [0, planes - 1].any fun q => outside ((base : Int) + q * plane + r * stride) size

/-- Item 9. -/
def geometryBad (d : Desc) (o : Op) : Bool :=
  let src := d.srcSpace == 0
  let dst := d.dstSpace == 0
  let len := d.length
  match o with
  | .copy | .remoteWrite =>
    (src && outside d.srcAddr (rowBytes d.srcLayout len))
      || (o == .copy && dst && outside d.dstAddr (rowBytes d.dstLayout len))
  | .remoteRead | .frag => dst && outside d.dstAddr (rowBytes d.dstLayout len)
  | .copy2d =>
    gridOutside d.srcAddr (rowBytes d.srcLayout len) d.srcStride 0 d.rows 1
      || gridOutside d.dstAddr (rowBytes d.dstLayout len) d.dstStride 0 d.rows 1
  | .copy3d =>
    gridOutside d.srcAddr (rowBytes d.srcLayout len) d.srcStride d.srcPlaneStride d.rows d.planes
      || gridOutside d.dstAddr (rowBytes d.dstLayout len) d.dstStride d.dstPlaneStride d.rows d.planes
  | .streamOut => src && gridOutside d.srcAddr (rowBytes d.srcLayout len) d.srcStride 0 d.rows 1
  | .gatherIdx => dst && outside d.dstAddr (rowBytes d.dstLayout (d.entryCount * len))
  | .scatterIdx => outside d.srcAddr (rowBytes d.srcLayout (d.entryCount * len))
  | .blockGather =>
    gridOutside d.srcAddr (rowBytes d.srcLayout len) d.srcStride 0 d.rows 1
      || (dst && outside d.dstAddr (wordBytes d.dstLayout (d.blockW * d.blockH * d.entryCount)))
  | .streamIn => outside d.dstAddr len
  | _ => false

/-- Item 10 (R128). -/
def tableBad (d : Desc) (o : Op) : Bool :=
  if o == .streamInGob then decide (d.pointer % 16 ≠ 0) || outside d.pointer 16
  else if o.usesTable then
    decide (d.pointer % d.entrySize ≠ 0) || decide (d.entryCount = 0) || outside d.pointer d.tableBytes
  else false

/-- Item 12: Q5, the gate and the hand-over target (R127). -/
def State.q5Bad (s : State) (f : Nat) (d : Desc) (o : Op) : Bool :=
  decide (Nat.land d.q5.toNat o.q5Reserved ≠ 0)
    || (o == .waitTrig && (d.gate == 3
        || (d.gate == 1 && !((look {} s.ev.timers d.gateNum).holder == some f))
        || (d.gate == 2 && (decide (16 ≤ d.gateNum) || !(look none s.ev.trigIn d.gateNum == some f)))))
    || (o == .punty && (decide (s.member.functions ≤ d.toFunction) || decide (s.member.channels ≤ d.toSlot)))

/-- The lowest item of R130 that holds. Items 8 and 14 are those of R108 and R113; a condition found only in data is none
of them (R132). -/
def State.malformation (s : State) (p : Nat) (d : Desc) : Option Nat :=
  let f := s.chFn p
  let m := s.member
  match d.op with
  | none => some 1
  | some o =>
    let src := opUsesSrc o
    let dst := opUsesDst o
    let items : List (Nat × Bool) := [
      (1, opExcluded m d),
      (2, field64 d.q0 23 18 != 0 || field64 d.q3 63 56 != 0 || (src && field64 d.q1 55 52 != 0)
            || (dst && field64 d.q2 55 52 != 0)),
      (3, (src && spaceBad m d.q1) || (dst && spaceBad m d.q2)),
      (4, (src && !o.srcSpaces.contains d.srcSpace) || (dst && !o.dstSpaces.contains d.dstSpace)),
      (5, (src && s.portBad f d.q1 false) || (dst && s.portBad f d.q2 true)),
      (6, o.isData && d.length == 0),
      (7, (d.layouts o).any (fun l => decide (5 < l)) || (o == .remoteRead && d.srcLayout != 0)
            || (o == .remoteWrite && d.dstLayout != 0)),
      (8, !d.takes && (d.layouts o).any (fun l => l == 4 || l == 5) && d.length % 9 != 0),
      (9, geometryBad d o),
      (10, tableBad d o),
      (11, o == .blockGather && (d.blockW == 0 || d.blockH == 0 || decide (rowWords d.length < d.blockW))),
      (12, s.q5Bad f d o),
      (13, decide (d.svc < (s.chan p).cfg.ceiling)),
      (14, d.fresh && !o.isData),
      (15, !m.safetyFull && (d.fresh || d.crcCheck)),
      (16, (o == .streamInGob && d.dstAddr != 0) || (o == .streamOut && d.srcSpace == 2 && decide (1 < d.rows)))]
    (items.find? fun e => e.2).map Prod.fst

/-! ### Gates of a start (R154, R155) -/

/-- A start takes its credit: it may start, or it waits; a start gated by a signal with no count arms as a waiter. -/
def State.takeCredit (s : State) (p : Nat) : Bool × State :=
  let c := s.chan p
  if c.cfg.paceSrc = 0 then (true, s)
  else if 0 < c.credit then (true, s.modChan p fun x => { x with credit := x.credit - 1 })
  else if c.cfg.paceSrc = 3 then
    if 0 < s.sigCount (s.chFn p) c.cfg.paceNum then
      (true, (s.takeSignal (s.chFn p) c.cfg.paceNum).modChan p fun x => { x with wantsSignal := none })
    else if c.wantsSignal.isSome then (false, s)
    else (false, { s.modChan p (fun x => { x with wantsSignal := some s.ev.order }) with
                   ev := { s.ev with order := s.ev.order + 1 } })
  else (false, s)

/-! ### Packets to takers (R122, R124, R198, R208) -/

/-- The packet's occupancy exceeds the capacity. -/
def Work.oversize (w : Work) (k : Packet) : Bool :=
  decide (w.desc.length < wordBytes w.desc.dstLayout k.words.length)

/-- Gives a committed packet to a started taker. -/
def State.givePacket (s : State) (p serial : Nat) (k : Packet) : State :=
  match s.work? p serial with
  | none => s
  | some w =>
    let s1 := s.modWork p serial fun x =>
      let y : Work := { x with pkt := some k, outWords := 0 }
      y.takeRead y.packetBits
    let s2 := if k.gap then s1.modPort w.desc.srcAddr fun x => { x with gapSeen := true } else s1
    if w.desc.op = some .streamInGob then
      if w.oversize k then s2.failWork p serial .indexRange
      else s2.modWork p serial fun x => { x with chain := .requesting }
    else if wordsFitting w.desc.dstLayout w.desc.length = 0 then s2.failWork p serial .indexRange
    else s2

/-- A started taker takes the oldest committed packet, or waits in the order of starts. -/
def State.wantPacket (s : State) (p serial port : Nat) : State :=
  match (s.port port).packets with
  | k :: rest =>
    (s.modPort port fun x => { x with packets := rest }).givePacket p serial k
  | [] => s.modPort port fun x => { x with takers := x.takers ++ [(p, serial)] }

/-! ### Starting -/

/-- The peer entry bound to an instance that function `f` may send to (R244). -/
def State.peerFor (s : State) (f inst : Nat) : Option (Nat × Peer) :=
  s.xez.peers.find? fun e => e.2.bound && e.2.inst == inst && e.2.funcMask.getLsbD f

/-- A handle is resolved from the start edge on (R231): a reader pins a chain that is not stale from this edge (R232),
and the head record is asked for. -/
def State.beginResolve (s : State) (p : Nat) (w : Work) : State :=
  s.modWork p w.serial fun x =>
    { x with chain := .unresolved, headGob := handleGob w.desc.srcAddr, headGen := handleGen w.desc.srcAddr
             pinned := w.desc.op != some .punty && !s.stale w.desc.srcAddr }

/-- What a started piece of work does at its start edge. -/
def State.beginWork (s : State) (p : Nat) (w : Work) : State :=
  let f := s.chFn p
  match w.desc.op with
  | some .waitTrig =>
    let s1 : State := { s.modWork p w.serial (fun x => { x with armed := true, armedAt := s.ev.order }) with
                        ev := { s.ev with order := s.ev.order + 1 } }
    if w.desc.gate = 0 ∧ 0 < s.sigCount f w.desc.signalId then
      (s1.takeSignal f w.desc.signalId).modWork p w.serial fun x => { x with acted := true }
    else s1
  | some .streamIn | some .streamInGob => s.wantPacket p w.serial w.desc.srcAddr
  | some .remoteRead | some .remoteWrite =>
    match s.peerFor f w.desc.remoteInstance with
    | none => s.failWork p w.serial .windowDenied
    | some (e, x) =>
      let s1 := s.modWork p w.serial fun y =>
        { y with peer := e, remoteFn := x.remoteFn.toNat / 16 ^ f % 16, peerPort := x.port, peerRetry := x.retry }
      if w.desc.fromChain then s1.beginResolve p w else s1
  | some .punty => s.beginResolve p w
  | _ => if w.desc.fromChain then s.beginResolve p w else s

/-- Starts a piece of work: conditions of one edge in the order of R135, an uncorrectable context word before
staleness; a guarded descriptor stale at its start edge issues nothing (R270). -/
def State.startWork (s : State) (p idx : Nat) (d : Desc) (pass : Bool) (ctx : List CtxFault) : State :=
  let w : Work := { serial := s.nextId, idx := idx, desc := d, pass := pass }
  let s1 : State := { s.modChan p (fun c => { c with started := c.started ++ [w] }) with nextId := s.nextId + 1 }
  let s2 := s1.ctxFaults ctx
  let s3 := if s2.isStale p w then s2.staleEdge p w else s2
  if (s3.work? p w.serial).any Work.live then s3.beginWork p w else s3

/-- The next accepted entry may start (R295): in ring order, at most 4 beyond H, after every WAIT_TRIG, and a taker only
at H. -/
def State.startable (s : State) (p : Nat) : Option Entry :=
  let c := s.chan p
  match c.ring.accepted with
  | [] => none
  | e :: _ =>
    if c.cfg.ringMode && c.state == .running
        && (!c.halt.pending || (c.failed.isNone && (c.halt.point.map HaltPoint.cause) == some .fetch))
        && decide (ringCount c.ring.order c.ring.h e.idx ≤ 4)
        && !(c.started.any fun w => w.desc.op == some .waitTrig)
        && (!e.desc.takes || c.ring.h == e.idx) then some e
    else none

/-- DESCRIPTOR_START (R131, R295); `ctx` are the faulty context words that the start reads. -/
def execDescriptorStart (pch : Nat) (ctx : List CtxFault) (s : State) : Host.Outcome State Fault Refusal := settled s <|
  match s.startable pch with
  | none => .next s
  | some e =>
    match s.takeCredit pch with
    | (false, s1) => .next s1
    | (true, s1) =>
      let s2 := s1.modChan pch fun c => { c with ring := { c.ring with accepted := c.ring.accepted.drop 1 } }
      match s.malformation pch e.desc with
      | some cond => .next (s2.malformed pch e.idx cond (BitVec.ofNat 8 e.desc.opcode))
      | none => .next (s2.startWork pch e.idx e.desc false ctx)

/-! ### Direct mode (R157 to R160) -/

/-- The pass as a descriptor: a COPY, a STREAM_OUT or a STREAM_IN of C_LEN bytes in the slot's ceiling class. -/
def Chan.passDesc (c : Chan) : Desc :=
  let code := if spaceOf c.direct.src = 1 then 0x11 else if spaceOf c.direct.dst = 1 then 0x10 else 0x01
  { q0 := BitVec.ofNat 64 (code + c.cfg.ceiling * 2 ^ 16 + c.direct.len.toNat * 2 ^ 32),
    q1 := c.direct.src, q2 := c.direct.dst, q3 := BitVec.ofNat 64 c.direct.layout.toNat }

/-- A pass start is refused (R157; assumption 29). -/
def State.passRefused (s : State) (p : Nat) : Bool :=
  let c := s.chan p
  let d := c.passDesc
  let f := s.chFn p
  let sp := fun (q : W64) => decide (1 < spaceOf q) || (spaceOf q == 1 && decide (64 ≤ addressOf q))
    || field64 q 55 52 != 0
  match d.op with
  | none => true
  | some o =>
    sp d.q1 || sp d.q2 || (d.srcSpace == 1 && d.dstSpace == 1) || s.portBad f d.q1 false || s.portBad f d.q2 true
      || d.length == 0 || (d.layouts o).any (fun l => decide (5 < l))
      || (!d.takes && (d.layouts o).any (fun l => l == 4 || l == 5) && d.length % 9 != 0) || geometryBad d o

/-- Starts the due pass. -/
def State.passBegin (s : State) (p : Nat) : State :=
  (s.modChan p fun c => { c with direct := { c.direct with due := false, first := false } }).startWork p 0
    (s.chan p).passDesc true []

/-- Offset of C_CTL of a channel's slot in its function window. -/
def State.ctlOffset (s : State) (p : Nat) : Nat := 0x10000 + ((s.chan p).owner.map Prod.snd).getD 0 * 0x200

/-- PASS_START (R158, R159): a due pass starts when it has its credit, or is refused by its checks, which returns the
channel to IDLE. -/
def execPassStart (pch : Nat) (s : State) : Host.Outcome State Fault Refusal := settled s <|
  let c := s.chan pch
  if !(c.direct.due && c.state == ChState.running && !c.cfg.ringMode && c.started.isEmpty && !c.halt.pending) then
    .next s
  else
    match s.takeCredit pch with
    | (false, s1) => .next s1
    | (true, s1) =>
      if s.passRefused pch then
        .next (((s1.modChan pch fun x =>
          { x with state := .idle, direct := { x.direct with due := false, first := false } }).ignFn (s.chFn pch)
            (s.ctlOffset pch) 2).raise (chanEvent pch 4))
      else .next (s1.passBegin pch)

/-- A GO on an IDLE direct-mode channel (R159): the first pass starts at once, or waits for its credit; `none` when its
checks refuse it at the GO edge. -/
def State.goPass (s : State) (p : Nat) (circ : Bool) : Option State :=
  let c := s.chan p
  let s0 := s.modChan p fun x =>
    { x with state := .running, direct := { x.direct with circ := circ, due := true, first := true } }
  let ready := decide (c.cfg.paceSrc = 0) || decide (0 < c.credit)
    || (c.cfg.paceSrc == 3 && decide (0 < s.sigCount (s.chFn p) c.cfg.paceNum))
  if ready then if s.passRefused p then none else some ((s0.takeCredit p).2.passBegin p)
  else some (s0.takeCredit p).2

end Sys2Proof.Machine
end

