-- ==== Sys2Proof/Machine/Completion.lean ====
section
/-! DEFINITION. Completion (R87 to R94, R126, R133, R296), the completion of stops, aborts and halts (R162 to R167, R304)
and of direct-mode passes (R159, R160), and stale edges (R271). -/

namespace Sys2Proof.Machine

/-! ### What completes (R296, R126) -/

/-- No transaction and no remote request of the piece of work is left. -/
def State.retired (s : State) (p : Nat) (w : Work) : Bool :=
  !(s.txns.any fun t => t.purpose.serial? == some (p, w.serial))
    && !(s.xez.reqs.any fun q => q.pch == p && q.serial == w.serial && !q.abandoned)

/-- Every condition of R296 but the freshness judgement, for work that every earlier descriptor has completed before. -/
def State.finished (s : State) (p : Nat) (w : Work) : Bool :=
  w.live && w.clip.isNone
    && (match w.desc.op with
        | some .waitTrig | some .punty => w.acted
        | some .signal | some .nop | some .fenceOnly => true
        | some o =>
          s.retired p w && (!w.desc.takes || w.pkt.isSome) && w.crcBits == w.dataBits && w.prefixBits == w.dataBits
            && decide (w.segments s.member ≤ w.segOk) && (o != .streamInGob || w.result == 2)
        | none => false)

/-- A chain read whose content is shorter than LENGTH, or ends at a bad member, has delivered what it can (R115, R231):
no burst, beat or frame more can be formed from it. -/
def State.chainExhausted (s : State) (p : Nat) (w : Work) : Bool :=
  w.live && w.clip.isSome && s.retired p w && (w.srcExt s.cul.poolBase w.rdExt).isNone
    && (if w.desc.toMemory then w.prefixBits == w.dataBits
        else if w.desc.toPort then w.nextBeat.isNone && !(s.port w.desc.dstAddr).outq.any fun b => b.serial == w.serial
        else decide (w.dataBits / 8 < 1024 * (w.frames + 1)))

/-- The report of a descriptor that completes OK. -/
def Work.okReport (w : Work) : Report :=
  { idx := w.idx, status := .ok, residue := if w.desc.takes then w.residue else 0,
    crc := if w.desc.crcCheck then ~~~ w.crcReg else 0, done := w.desc.intFull,
    signal := if w.desc.signalOnDone then some w.desc.signalId else none, loads := none }

/-- The oldest started piece of work leaves the channel, with what space it still holds. -/
def State.retireHead (s : State) (p : Nat) (w : Work) : State :=
  (s.dropSpace p w).modChan p fun c => { c with started := c.started.drop 1 }

/-- The channel executes: running, or completing what it started before a stop. -/
def Chan.executes (c : Chan) : Bool := c.state == .running || c.state == .stopping

/-- The oldest descriptor completes OK: H passes it and it is reported. -/
def State.completeHead (s : State) (p : Nat) (w : Work) : State :=
  let s1 := (s.retireHead p w).modChan p fun c => { c with ring := { c.ring with h := ringNext c.ring.order c.ring.h } }
  let s2 := if w.desc.op = some .signal then s1.raiseSignal (s.chFn p) w.desc.signalId else s1
  s2.addReport p w.okReport false

/-- DESCRIPTOR_COMPLETE (R296): the oldest started descriptor; on memory its freshness is judged at this edge (R270;
assumption 27). -/
def execDescriptorComplete (pch : Nat) (s : State) : Host.Outcome State Fault Refusal := settled s <|
  match (s.chan pch).started with
  | [] => .next s
  | w :: _ =>
    if !(s.chan pch).executes || w.pass then .next s
    else if s.chainExhausted pch w then
      .next (if s.isStale pch w then s.staleEdge pch w else s.failWork pch w.serial .indexRange)
    else if s.finished pch w then .next (if s.isStale pch w then s.staleEdge pch w else s.completeHead pch w)
    else .next s

/-- PASS_COMPLETE (R159, R160): the pass ends; a circular one is followed by the next. -/
def execPassComplete (pch : Nat) (s : State) : Host.Outcome State Fault Refusal := settled s <|
  match (s.chan pch).started with
  | [] => .next s
  | w :: _ =>
    if (s.chan pch).executes && w.pass && s.finished pch w then
      let s1 := (s.retireHead pch w).modChan pch fun c =>
        if c.state = .running then
          if c.direct.circ then { c with lastStatus := .ok, direct := { c.direct with due := true } }
          else { c with lastStatus := .ok, state := .idle }
        else { c with lastStatus := .ok }
      .next (s1.raise (chanEvent pch 1))
    else .next s

/-- STALE_EDGE (R270, R271): the oldest started descriptor that is guarded, not judged finally and stale. -/
def execStaleEdge (pch : Nat) (s : State) : Host.Outcome State Fault Refusal := settled s <|
  match (s.chan pch).started.find? fun w => s.isStale pch w with
  | none => .next s
  | some w => .next (s.staleEdge pch w)

/-! ### Index writes (R87) -/

/-- COAL_TIME_EXPIRY (R87): COAL_TIME has passed since the first completion not covered. -/
def execCoalTimeExpiry (pch : Nat) (s : State) : Host.Outcome State Fault Refusal :=
  match (s.chan pch).cpl.deadline with
  | none => .next s
  | some t =>
    .next (((s.reachCclk t).modChan pch fun c => { c with cpl := { c.cpl with due := true } }).kickIndex pch)

/-! ### Records (R88 to R92) -/

def CplRing.full (r : CplRing) : Bool := r.bound && ringCount r.order r.head r.producer == 2 ^ r.order

def State.modRing (s : State) (f r : Nat) (g : CplRing → CplRing) : State :=
  s.modFn f fun x => { x with rings := put x.rings r (g (look {} x.rings r)) }

/-- The 16 bytes of a completion record at producer value `v` (Table 3-5). -/
def State.recordBytes (s : State) (p v order : Nat) (r : Report) : List Byte :=
  let slot := ((s.chan p).owner.map Prod.snd).getD 0
  let phase := if expectedPhase order v then 1 else 0
  leBytes 4 (r.idx % 2 ^ (s.chan p).ring.order + slot * 2 ^ 16 + phase * 2 ^ 23 + r.status.code * 2 ^ 24)
    ++ leBytes 4 (min r.residue 0xFFFFFFFF) ++ leBytes 4 r.crc.toNat ++ leBytes 4 s.time.tnow.toNat

/-- A record finds its ring full: the episode is counted once (R92). -/
def State.waitRecord (s : State) (p f ring : Nat) : State :=
  let s1 := s.modChan p fun c => { c with cpl := { c.cpl with waiting := true } }
  if (look {} (s.fn f).rings ring).episode then s1
  else
    (s1.modRing f ring fun x =>
      { x with episode := true, fullSeen := true, waitCount := satAdd 16 x.waitCount 1 }).raise (fnEvent f 3)

/-- A record takes the next producer slot and its write enters the reserved completion entry. -/
def State.writeRecord (s : State) (p f ring : Nat) (r : Report) (rest : List Report) : State :=
  let x := look {} (s.fn f).rings ring
  let s1 := s.modRing f ring fun y => { y with producer := ringNext y.order y.producer }
  (s1.modChan p fun c => { c with cpl :=
    { c.cpl with queue := rest, flying := [r], flyingSlot := some x.producer, outstanding := true, waiting := false } }).post
    (s.cplTxn p (x.base + 16 * (x.producer % 2 ^ x.order)) x.coherent (s.recordBytes p x.producer x.order r))

/-- RECORD_ALLOCATE (R89, R91): the oldest record of the channel (assumption 32). -/
def execRecordAllocate (pch : Nat) (s : State) : Host.Outcome State Fault Refusal :=
  let c := s.chan pch
  let f := s.chFn pch
  match c.cpl.queue with
  | [] => .next s
  | r :: rest =>
    if !c.cfg.cplRingMode || c.cpl.outstanding || !(look {} (s.fn f).rings c.cfg.cplRing).bound then .next s
    else if (look {} (s.fn f).rings c.cfg.cplRing).full then .next (s.waitRecord pch f c.cfg.cplRing)
    else .next (s.writeRecord pch f c.cfg.cplRing r rest)

/-! ### Responses of completion writes (R94, R167) -/

/-- CR_TAIL advances over the acknowledged values that follow it. -/
def ackTail (order : Nat) : Nat → Nat → List Nat → Nat × List Nat
  | 0, t, l => (t, l)
  | n + 1, t, l => if l.contains t then ackTail order n (ringNext order t) (l.filter fun x => x != t) else (t, l)

def CplRing.ack (r : CplRing) (v : Nat) : CplRing :=
  let l := r.acked ++ [v]
  let out := ackTail r.order l.length r.tail l
  { r with tail := out.1, acked := out.2 }

/-- What the response brings for one completion that the write covers. -/
def State.reportDone (s : State) (p : Nat) (r : Report) : State :=
  let s1 := if r.done then s.raise (chanEvent p 1) else s
  let s2 := match r.signal with
    | some k => s1.raiseSignal (s.chFn p) k
    | none => s1
  match r.loads with
  | some .lehr => (s2.modChan p fun c => c.loadStop .lehr (c.idxReg r.idx) r.status r.residue).raise (chanEvent p 4)
  | some .abort => (s2.modChan p fun c => c.loadStop .abort (c.idxReg r.idx) r.status r.residue).raise (chanEvent p 5)
  | some .function => s2.raise (chanEvent p 5)
  | _ => s2

/-- A completion write of channel `p` is acknowledged. -/
def State.completionDone (s : State) (p : Nat) : State :=
  let c := s.chan p
  let s1 := match c.cpl.flyingSlot with
    | some v => if c.cfg.cplRingMode then s.modRing (s.chFn p) c.cfg.cplRing fun x => x.ack v else s
    | none => s
  let s2 := s1.modChan p fun x => { x with cpl := { x.cpl with flying := [], flyingSlot := none, outstanding := false } }
  (c.cpl.flying.foldl (fun t r => t.reportDone p r) s2).kickIndex p

/-- COMPLETION_WRITE_RESPONSE (R94, R306). -/
def execCompletionWriteResponse (port : Nat) (axid : BitVec 8) (resp : Resp) (s : State) :
    Host.Outcome State Fault Refusal := settled s <|
  match s.answered port axid true with
  | none => .next s
  | some t =>
    match t.purpose with
    | .completion p =>
      if t.phase = .retiring then .next (s.delTxn t.id)
      else if resp.isError then .next (s.burstFailed t)
      else .next (((s.delTxn t.id).recovered t).completionDone p)
    | _ => .next s

/-! ### The end of a lehr stop (R162, R163) -/

/-- Both conditions of R162 hold. -/
def Chan.lehrReady (c : Chan) : Bool :=
  c.state == .stopping && c.started.isEmpty && !c.halt.pending
    && (!c.cfg.ringMode || !c.ring.accepted.isEmpty || c.ring.f == c.ring.t || c.ring.parked)

/-- The stop completes (assumptions 12, 31, 83). -/
def State.lehrEnd (s : State) (p : Nat) : State :=
  let c := s.chan p
  let s1 := (s.dropEntries p).modChan p fun x =>
    { x with state := if x.cfg.ringMode then .stopped else .idle, stopKind := false, stopIdx := x.idxReg x.ring.h,
             direct := { x.direct with due := false } }
  match c.ring.accepted with
  | e :: _ =>
    s1.addReport p { idx := e.idx, status := .stopped, residue := e.desc.total, crc := 0, done := false, signal := none,
                     loads := some .lehr } true
  | [] => (s1.flushIndex p (stopReport c.ring.h .stopped 0 0)).raise (chanEvent p 4)

/-- LEHR_STOP_COMPLETE. -/
def execLehrStopComplete (pch : Nat) (s : State) : Host.Outcome State Fault Refusal := settled s <|
  .next (if (s.chan pch).lehrReady then s.lehrEnd pch else s)

/-- ABORT_COMPLETE (R165). A halt that is pending, by a lost completion write (R307), ends the abort instead. -/
def execAbortComplete (pch : Nat) (s : State) : Host.Outcome State Fault Refusal := settled s <|
  .next (if (s.chan pch).state == .aborting && !(s.chan pch).halt.pending && s.workDrained pch then s.finishAbort pch
    else s)

/-- CHANNEL_HALT (R304). -/
def execChannelHalt (pch : Nat) (s : State) : Host.Outcome State Fault Refusal := settled s <|
  .next (if s.haltReady pch then s.haltEdge pch else s)

end Sys2Proof.Machine
end

