-- ==== Sys2Proof/Machine/RegMap.lean ====
section
/-! DEFINITION. The register map (chapter 14): which addresses are holes, which registers have a writable field, and what
every register reads as. -/

namespace Sys2Proof.Machine

/-- What stands at an address: a hole (R16, R365), a register whose fields are all RO or RC, or a register with an RW,
RWS, W1C or WO field (R10, R311). -/
inductive RegKind where
  | hole | readOnly | writable
  deriving DecidableEq, Repr

/-- A register that is present only where `c` holds. -/
def RegKind.when (k : RegKind) (c : Bool) : RegKind := if c then k else .hole

/-! ### Kinds -/

/-- Slot registers (Table 14-5). -/
def slotKind (m : Member) (n : Nat) : RegKind :=
  if 0x100 ≤ n then .writable
  else if [0x000, 0x008, 0x00C, 0x010, 0x014, 0x018, 0x01C, 0x028, 0x02C, 0x040, 0x044, 0x060].contains n then .writable
  else if n = 0x088 then RegKind.when .writable m.safetyFull
  else if [0x080, 0x084, 0x08C].contains n then RegKind.when .readOnly m.safetyFull
  else if n < 0x078 then .readOnly
  else .hole

/-- Stream-port block (Table 14-9). -/
def spKind (n : Nat) : RegKind := if n = 0x14 then .writable else if n < 0x30 then .readOnly else .hole

/-- Mailbox block (Table 14-7). -/
def mbKind (n : Nat) : RegKind := if n < 0x10C then .writable else if n = 0x10C then .readOnly else .hole

/-- Completion-ring block (Table 14-6). -/
def crKind (n : Nat) : RegKind :=
  if n = 0x0C ∨ n = 0x14 then .writable else if n < 0x18 then .readOnly else .hole

/-- F_ registers (Table 14-4). -/
def fRegKind (m : Member) (o : Nat) : RegKind :=
  if [0x000, 0x008, 0x00C, 0x024, 0x028, 0x02C, 0x030, 0x134].contains o then .readOnly
  else if [0x020, 0x034, 0x100, 0x130, 0x170].contains o then .writable
  else if 0x110 ≤ o ∧ o < 0x130 then .writable
  else if 0x140 ≤ o ∧ o < 0x150 then .writable
  else if 0x150 ≤ o ∧ o < 0x170 then .readOnly
  else if o = 0x180 ∨ o = 0x184 then RegKind.when .writable m.hasCullet
  else if o = 0x188 ∨ o = 0x18C then RegKind.when .readOnly m.hasCullet
  else if 0x400 ≤ o ∧ o < 0x800 then .readOnly
  else .hole

/-- A function window (Table 14-3). -/
def fnKind (m : Member) (o : Nat) : RegKind :=
  if o < 0x800 then fRegKind m o
  else if o < 0x1000 then RegKind.when (spKind (0x10 + o % 0x20)) (m.portPresent ((o - 0x800) / 0x20))
  else if o < 0x2000 then mbKind (o - 0x1000)
  else if o < 0x2400 then crKind (o % 0x40)
  else if o < 0x10000 then .hole
  else RegKind.when (slotKind m (o % 0x200)) (m.slotPresent ((o - 0x10000) / 0x200))

/-- G_ registers (Table 14-8; assumption 34). -/
def gKind (m : Member) (o : Nat) : RegKind :=
  if o < 0x018 then .readOnly
  else if [0x020, 0x024, 0x028, 0x02C, 0x040, 0x044, 0x048, 0x050].contains o then .readOnly
  else if o = 0x04C then .writable
  else if 0x0C0 ≤ o ∧ o < 0x100 then .readOnly
  else if 0x100 ≤ o ∧ o < 0x140 then RegKind.when .writable (decide ((o - 0x100) / 8 < m.benches))
  else if 0x140 ≤ o ∧ o < 0x14C then .writable
  else if 0x180 ≤ o ∧ o < 0x1C0 then
    RegKind.when .writable (decide (o % 8 = 0) && decide ((o - 0x180) / 8 < m.benches))
  else if 0x200 ≤ o ∧ o < 0x240 then .readOnly
  else if o = 0x240 ∨ o = 0x244 ∨ o = 0x260 then .writable
  else if [0x248, 0x24C, 0x264, 0x268, 0x26C, 0x280, 0x284, 0x288, 0x28C, 0x290, 0x300, 0x304].contains o then
    .readOnly
  else if 0x310 ≤ o ∧ o < 0x330 then .readOnly
  else .hole

/-- Cullet block (Table 14-10). -/
def cuKind (m : Member) (o : Nat) : RegKind :=
  RegKind.when
    (if o = 0x02C then .writable
     else if o < 0x040 then .readOnly
     else if 0x100 ≤ o ∧ o < 0x200 then RegKind.when .readOnly (m.fnPresent ((o - 0x100) / 0x10))
     else if 0x200 ≤ o ∧ o < 0x240 then RegKind.when .readOnly (m.fnPresent ((o - 0x200) / 4))
     else .hole) m.hasCullet

/-- Safety block (Table 14-11). -/
def safetyKind (m : Member) (o : Nat) : RegKind :=
  if o = 0x000 ∨ o = 0x020 then .writable
  else if o = 0x010 ∨ o = 0x014 ∨ o = 0x024 then RegKind.when .readOnly m.safetyFull
  else if o < 0x02C then .readOnly
  else .hole

/-- Xezan block (Table 14-12). -/
def xKind (m : Member) (o : Nat) : RegKind :=
  RegKind.when
    (if o = 0x004 ∨ o = 0x008 then .writable
     else if o < 0x024 then .readOnly
     else if 0x1000 ≤ o ∧ o < 0x2000 then .readOnly
     else if 0x2000 ≤ o ∧ o < 0x3000 then RegKind.when .readOnly (m.fnPresent ((o - 0x2000) / 0x100))
     else .hole) m.hasXezan

/-- What stands at the word-aligned address `a` (Table 14-2). -/
def regKind (m : Member) (a : Nat) : RegKind :=
  if a < 0x200000 then RegKind.when (fnKind m (a % 0x20000)) (m.fnPresent (a / 0x20000))
  else if a < 0x201000 then gKind m (a - 0x200000)
  else if a < 0x202000 then mbKind (a - 0x201000)
  else if a < 0x210000 then .hole
  else if a < 0x214000 then RegKind.when (spKind (a % 0x100)) (m.portPresent ((a - 0x210000) / 0x100))
  else if a < 0x220000 then .hole
  else if a < 0x230000 then cuKind m (a - 0x220000)
  else if a < 0x240000 then safetyKind m (a - 0x230000)
  else if a < 0x250000 then .readOnly
  else if a < 0x260000 then .hole
  else if a < 0x270000 then xKind m (a - 0x260000)
  else .hole

/-- The administrative window (R40). -/
def isAdministrative (a : Nat) : Bool := decide (0x200018 ≤ a)

/-! ### Values -/

/-- A 32-bit word of (value, lowest bit) parts. -/
def pack (l : List (Nat × Nat)) : W32 := BitVec.ofNat 32 ((l.map fun e => e.1 * 2 ^ e.2).sum)

def b2n (b : Bool) : Nat := if b then 1 else 0

/-- The upper half of a wider number. -/
def hiWord (x : Nat) : W32 := BitVec.ofNat 32 (x / 2 ^ 32)

/-- C_STATE.GATE_WAIT: a started WAIT_TRIG, or the next start, waits on a gate. -/
def State.gateWait (s : State) (p : Nat) : Bool :=
  let c := s.chan p
  c.started.any (fun w => w.live && w.armed && !w.acted)
    || (c.cfg.paceSrc != 0 && c.credit == 0
        && !(c.cfg.paceSrc == 3 && decide (0 < s.sigCount (s.chFn p) c.cfg.paceNum))
        && ((s.startable p).isSome || (c.direct.due && c.state == ChState.running && c.started.isEmpty)))

/-- A slot register of a channel (Tables 3-6 to 3-9, 5-7, 10-5, 11-8). -/
def slotValue (c : Chan) (gate : Bool) (n : Nat) : W32 :=
  let k := c.ring.order
  if n = 0x000 then pack [(b2n c.direct.circ, 1)]
  else if n = 0x004 then
    pack [(c.state.code, 0), (b2n gate, 3), (b2n c.stopKind, 4), (c.stopIdx / 2 ^ 16 % 2, 5), (c.lastStatus.code, 8),
          (c.stopIdx % 2 ^ 16, 16)]
  else if n = 0x008 then BitVec.ofNat 32 c.direct.src.toNat
  else if n = 0x00C then hiWord c.direct.src.toNat
  else if n = 0x010 then BitVec.ofNat 32 c.direct.dst.toNat
  else if n = 0x014 then hiWord c.direct.dst.toNat
  else if n = 0x018 then c.direct.len
  else if n = 0x01C then pack [(c.direct.layout.toNat, 0)]
  else if n = 0x020 then pack [(c.cfg.ceiling, 0), (c.cfg.weight, 8), (c.cfg.burst - 1, 16), (c.cfg.maxOut - 1, 24)]
  else if n = 0x024 then
    pack [(c.cfg.paceSrc, 0), (c.cfg.paceNum, 8), (c.cfg.paceDepth, 16), (c.credit, 20), (c.dropped, 24)]
  else if n = 0x028 then pack [(c.evt.toNat, 0)]
  else if n = 0x02C then
    pack [(b2n c.halt.pending, 0), (b2n c.halt.haltSeen, 1), (b2n c.halt.stopSeen, 2), (c.halt.cause.code, 4),
          (c.halt.status.code, 8), (c.halt.halts, 16)]
  else if n = 0x030 then BitVec.ofNat 32 c.halt.idx
  else if n = 0x034 then BitVec.ofNat 32 c.halt.residue
  else if n = 0x038 then c.halt.crc
  else if n = 0x03C then pack [(c.halt.reheats, 0), (c.halt.exhausted, 16)]
  else if n = 0x048 then
    pack [(c.ring.order, 0), (b2n c.ring.coherent, 8), (b2n c.ring.bound, 9), (b2n c.cfg.ringMode, 10)]
  else if n = 0x04C then BitVec.ofNat 32 c.ring.base
  else if n = 0x050 then hiWord c.ring.base
  else if n = 0x054 then BitVec.ofNat 32 (idxLayout k c.ring.t)
  else if n = 0x058 then BitVec.ofNat 32 (idxLayout k c.ring.f)
  else if n = 0x05C then BitVec.ofNat 32 (idxLayout k c.ring.h)
  else if n = 0x060 then
    pack [(b2n c.ring.parked, 0), (c.ring.retries, 1), (b2n c.ring.staleSeen, 8), (c.ring.parkCount, 16)]
  else if n = 0x064 then
    pack [(b2n c.cfg.cplRingMode, 0), (c.cfg.cplRing, 1), (b2n c.cfg.cplCoherent, 5), (c.cfg.coalCount - 1, 8),
          (c.cfg.coalTime, 16)]
  else if n = 0x068 then BitVec.ofNat 32 c.cfg.cplAddr
  else if n = 0x06C then hiWord c.cfg.cplAddr
  else if n = 0x070 then pack [(c.pushUsed, 0), (c.pushMissed, 16)]
  else if n = 0x074 then hiWord c.halt.residue
  else if n = 0x080 then c.ageBound
  else if n = 0x084 then c.leadLimit
  else if n = 0x088 then
    pack [(c.fresh.cause, 0), (b2n c.fresh.negative, 3), (b2n c.fresh.staleSeen, 8), (c.fresh.staleCount, 16)]
  else if n = 0x08C then c.fresh.age
  else 0

/-- SP_STAT.FLUSHING. -/
def Port.flushing (p : Port) : Bool := p.flushWait || p.dropping

/-- Committed packets not yet fully taken, and packets being taken. -/
def State.packetsHeld (s : State) (p : Nat) : Nat :=
  (s.port p).packets.length
    + ((s.chans.map fun e => (e.2.started.filter fun w => w.desc.takes && w.desc.srcAddr == p
        && (match w.pkt with | some k => decide (0 < k.slots) | none => false)).length).sum)

/-- A stream-port register (Table 7-6). -/
def State.spValue (s : State) (p n : Nat) : W32 :=
  let x := s.port p
  if n = 0x00 then
    pack [(b2n x.enable, 0), (b2n x.dirOut, 1), (x.holder.getD 0, 4), (b2n x.holder.isSome, 8)]
  else if n = 0x04 then pack [(x.reserve, 0), (x.limit, 16)]
  else if n = 0x08 then BitVec.ofNat 32 x.highWm
  else if n = 0x0C then BitVec.ofNat 32 x.lowWm
  else if n = 0x10 then pack [(x.level, 0), (b2n x.xoff, 31)]
  else if n = 0x14 then
    pack [(b2n x.full, 0), (b2n x.overrun, 1), (b2n x.wmHighSeen, 2), (b2n x.wmLowSeen, 3), (b2n x.gapSeen, 4),
          (b2n x.flushing, 5)]
  else if n = 0x18 then pack [(x.highCross, 0), (x.lowCross, 16)]
  else if n = 0x1C then pack [(x.badPkt, 0), (x.gaps, 16)]
  else if n = 0x20 then BitVec.ofNat 32 x.ovfWords
  else if n = 0x24 then BitVec.ofNat 32 x.flushDropped
  else if n = 0x28 then BitVec.ofNat 32 (s.packetsHeld p)
  else if n = 0x2C then pack [(x.cells, 0)]
  else 0

/-- A mailbox register (Table 13-2). -/
def mbValue (x : Mailbox) (n : Nat) : W32 :=
  if n < 0x100 then look 0 x.data (n / 4)
  else if n = 0x100 then pack [(x.code.toNat, 0), (x.seq.toNat, 16)]
  else if n = 0x108 then
    pack [(b2n x.busy, 0), (b2n x.done, 1), (b2n x.applied, 2), (b2n x.replay, 3), (x.status.toNat, 8),
          (x.seqEcho.toNat, 16)]
  else if n = 0x10C then BitVec.ofNat 32 x.len
  else 0

/-- A completion-ring register (Table 3-10). -/
def crValue (x : CplRing) (n : Nat) : W32 :=
  if n = 0x00 then BitVec.ofNat 32 x.base
  else if n = 0x04 then hiWord x.base
  else if n = 0x08 then pack [(x.order, 0), (b2n x.coherent, 8), (b2n x.bound, 9)]
  else if n = 0x0C then BitVec.ofNat 32 (idxLayout x.order x.head)
  else if n = 0x10 then BitVec.ofNat 32 (idxLayout x.order x.tail)
  else if n = 0x14 then pack [(b2n x.full, 0), (b2n x.fullSeen, 1), (x.waitCount, 16)]
  else 0

/-- Merged raises of the two TRIG_OUT outputs 2i and 2i + 1 as far as `who` holds them. -/
def State.mergedValue (s : State) (who i : Nat) : W32 :=
  let one := fun n => if (s.tout n).holder = some who then (s.tout n).merged else 0
  pack [(one (2 * i), 0), (one (2 * i + 1), 16)]

/-- F_SPEVTi: the events of the ports 8i to 8i + 7 that function `f` holds. -/
def State.spEvtValue (s : State) (f i : Nat) : W32 :=
  pack ((List.range 8).map fun j =>
    (if (s.port (8 * i + j)).holder = some f then (s.port (8 * i + j)).evt.toNat else 0, 4 * j))

/-- A register of function `f`'s window other than its mailbox, as it stands. -/
def State.fnValue (s : State) (f o : Nat) : W32 :=
  let x := s.fn f
  if o < 0x800 then
    if o = 0x000 then pack [(f, 0), (b2n x.ready, 8), (b2n s.rst.gaffer, 9), (b2n x.snap.valid, 10)]
    else if o = 0x008 then BitVec.ofNat 32 s.time.tnow.toNat
    else if o = 0x00C then hiWord x.snap.value.toNat
    else if o = 0x020 then
      pack [(b2n x.halted, 0), (b2n x.drained, 1), (b2n x.haltSeen, 2), (x.malformedCount, 16)]
    else if o = 0x024 then pack [(x.haltSlot, 0), (x.haltCond, 8), (x.haltOpcode.toNat, 16)]
    else if o = 0x028 then BitVec.ofNat 32 x.haltIdx
    else if o = 0x02C then BitVec.ofNat 32 x.ignored
    else if o = 0x030 then pack [(x.ignOffset, 0), (x.ignKind, 18)]
    else if o = 0x100 then pack [(x.evt.toNat, 0)]
    else if 0x110 ≤ o ∧ o < 0x130 then s.spEvtValue f ((o - 0x110) / 4)
    else if o = 0x134 then BitVec.ofNat 32 x.sigOvf
    else if 0x140 ≤ o ∧ o < 0x150 then BitVec.ofNat 32 (x.msiMask.toNat / 2 ^ (8 * (o - 0x140)))
    else if 0x150 ≤ o ∧ o < 0x170 then s.mergedValue f ((o - 0x150) / 4)
    else if o = 0x180 then x.gobHandle
    else if o = 0x188 then pack [(b2n x.gobBusy, 0), (b2n x.gobDone, 1), (x.gobResult, 4)]
    else if o = 0x18C then BitVec.ofNat 32 x.charge
    else if 0x400 ≤ o then BitVec.ofNat 32 (look 0 x.sigCnt ((o - 0x400) / 4))
    else 0
  else if o < 0x1000 then
    if (s.port ((o - 0x800) / 0x20)).holder = some f then s.spValue ((o - 0x800) / 0x20) (0x10 + o % 0x20) else 0
  else if o < 0x2400 then crValue (look {} x.rings ((o - 0x2000) / 0x40)) (o % 0x40)
  else
    match s.pchOf f ((o - 0x10000) / 0x200) with
    | some p => slotValue (s.chan p) (s.gateWait p) (o % 0x200)
    | none => slotValue {} false (o % 0x200)

/-- The same register at its Reset value: what it reads as while the function is not ready (R338, R370). -/
def fnResetValue (f o : Nat) : W32 :=
  if o = 0x000 then BitVec.ofNat 32 f
  else if 0x140 ≤ o ∧ o < 0x150 then 0xFFFFFFFF
  else if 0x10000 ≤ o then slotValue {} false (o % 0x200)
  else 0

def GafState.code : GafState → Nat
  | .booting => 0 | .running => 1 | .paused => 2 | .recovery => 3
def OptReason.code : OptReason → Nat
  | .none => 0 | .crc => 1 | .timeout => 2 | .content => 3

/-- A memory port is retiring (R330). -/
def State.retiring (s : State) : Bool := s.txns.any fun t => t.phase == .retiring

/-- What the TAP's IDCODE instruction reads (R64): the manufacturer identity of the option map, the member code, and the
major block version. -/
def State.idcode (s : State) : W32 := pack [(1, 0), (s.opt.mfrId.toNat, 1), (s.member.code.toNat, 12), (4, 28)]

/-- A G_ register (Tables 5-8, 7-7, 11-8, 12-8, 13-15, 14-13, 14-15, 14-17, 14-18; R372, R373). -/
def State.gValue (s : State) (o : Nat) : W32 :=
  let m := s.member
  let sumBits := fun (g : Fn → Bool) => ((List.range 16).map fun f => b2n (g (s.fn f)) * 2 ^ f).sum
  if o = 0x000 then pack [(m.code.toNat, 0), (0x564E, 16)]
  else if o = 0x004 then 0x00040100
  else if o = 0x008 then pack [(m.benches, 0), (m.chPerBench, 8), (m.functions, 16), (m.mPorts, 24)]
  else if o = 0x00C then pack [(m.spPerBench, 0), (m.crucibleLog2, 8), (m.gobBits, 16), (m.xezanPorts, 24)]
  else if o = 0x010 then
    pack [(b2n m.safetyFull, 0), (b2n m.flagPolicy, 1), (m.channels, 8), (m.reservable, 16)]
  else if o = 0x014 then pack [(m.benches * m.spPerBench, 0), (m.functions * 128, 8)]
  else if o = 0x020 then BitVec.ofNat 32 s.time.tnow.toNat
  else if o = 0x024 then hiWord s.time.snap.value.toNat
  else if o = 0x028 then pack [(b2n s.time.valid, 0), (b2n s.time.snap.valid, 1), (s.time.backsteps, 16)]
  else if o = 0x02C then BitVec.ofNat 32 s.glob.regDrop
  else if o = 0x040 then
    pack [(sumBits Fn.ready, 0), (b2n s.rst.crucible, 16), (b2n s.rst.gaffer, 17), (b2n s.rst.gafferFail, 18)]
  else if o = 0x044 then pack [(s.rst.stable.toNat, 0), (s.rst.waiting.toNat, 16)]
  else if o = 0x048 then
    pack [(b2n s.opt.loaded, 0), (b2n s.opt.bad, 1), (s.opt.reason.code, 2), (b2n s.opt.debugLock, 4),
          (b2n s.opt.pmapXor, 5), (s.opt.fcxRst.toNat, 8),
          (((List.range 5).map fun i => s.opt.pmap.getD i 0 * 2 ^ (3 * i)).sum, 16)]
  else if o = 0x04C then pack [(s.rst.last, 0), (b2n s.retiring, 4), (s.rst.warmCount, 16)]
  else if o = 0x050 then pack [(sumBits Fn.enabled, 0)]
  else if o < 0x100 then look 0 s.opt.words ((o - 0x0C0) / 4)
  else if o < 0x140 then
    if o % 8 = 0 then (s.bench ((o - 0x100) / 8)).capRd else (s.bench ((o - 0x100) / 8)).capWr
  else if o < 0x14C then BitVec.ofNat 32 (s.ev.glob.toNat / 2 ^ (8 * (o - 0x140)))
  else if o < 0x1C0 then
    pack [((s.bench ((o - 0x180) / 8)).laneRes, 0), ((s.bench ((o - 0x180) / 8)).laneLim, 16)]
  else if o < 0x240 then pack [(look 0 s.cru.ce ((o - 0x200) / 4), 0), (look 0 s.cru.ue ((o - 0x200) / 4), 16)]
  else if o = 0x240 then pack [(s.cru.scrub, 0)]
  else if o = 0x244 then pack [(s.cru.thresh, 0)]
  else if o = 0x248 then if s.rst.crucible then BitVec.ofNat 32 s.cruFree else 0
  else if o = 0x24C then if s.rst.crucible then BitVec.ofNat 32 s.cruReserved else 0
  else if o = 0x260 then pack [(s.glob.retryLimit, 0)]
  else if o = 0x264 then pack [(s.glob.devReheats, 0), (s.glob.devExhausted, 16)]
  else if o = 0x268 then BitVec.ofNat 32 s.glob.admIgn
  else if o = 0x26C then pack [(s.glob.admIgnOffset, 0), (s.glob.admIgnKind, 24)]
  else if o = 0x280 then
    pack [(s.gaf.state.code, 0), (s.gaf.slot, 4), (s.gaf.bank, 5), (b2n s.gaf.staging, 6)]
  else if o = 0x284 then s.gaf.fwVersion
  else if o = 0x288 then
    pack [(s.gaf.resLockstep, 0), (s.gaf.resWatchdog, 8), (s.gaf.resActivate, 16), (s.gaf.resRollback, 24)]
  else if o = 0x28C then BitVec.ofNat 32 s.gaf.logNext
  else if o = 0x290 then BitVec.ofNat 32 s.gaf.logLost
  else if o = 0x300 ∨ o = 0x304 then
    pack ((List.range 32).map fun j => (b2n (s.intLevel (8 * (o - 0x300) + j)), j))
  else if 0x310 ≤ o then s.mergedValue 16 ((o - 0x310) / 4)
  else 0

/-- A Cullet register (Table 8-9). -/
def State.cuValue (s : State) (o : Nat) : W32 :=
  let c := s.cul
  let fw := fun (x : Nat) (k : Nat) => if k % 2 = 0 then (BitVec.ofNat 32 x : W32) else hiWord x
  if o < 0x008 then fw c.poolBase (o / 4)
  else if o < 0x010 then fw c.metaBase (o / 4)
  else if o < 0x018 then fw c.stackBase (o / 4)
  else if o = 0x018 then BitVec.ofNat 32 c.count
  else if o = 0x01C then BitVec.ofNat 32 c.fresh
  else if o = 0x020 then pack [(b2n c.quota, 0), (b2n c.sweep, 4)]
  else if o = 0x024 then BitVec.ofNat 32 s.cuFree
  else if o = 0x028 then BitVec.ofNat 32 c.sweepPos
  else if o = 0x02C then 0
  else if o = 0x030 then pack [(c.premature, 0), (c.doubleFree, 16)]
  else if o = 0x034 then pack [(c.nonHolder, 0), (c.metaCheck, 16)]
  else if o = 0x038 then BitVec.ofNat 32 c.quar
  else if o = 0x03C then BitVec.ofNat 32 c.exhausted
  else if o < 0x200 then
    let f := s.fn ((o - 0x100) / 0x10)
    if o % 0x10 = 0 then BitVec.ofNat 32 f.reserve
    else if o % 0x10 = 4 then BitVec.ofNat 32 f.ceiling
    else if o % 0x10 = 8 then BitVec.ofNat 32 f.lowMark
    else BitVec.ofNat 32 f.gobWait
  else BitVec.ofNat 32 (s.fn ((o - 0x200) / 4)).charge

/-- A register of the safety block (Table 10-5). -/
def State.safetyValue (s : State) (o : Nat) : W32 :=
  let x := s.safety
  if o = 0x000 then pack [(x.cause.toNat, 0)]
  else if o = 0x004 then pack [(b2n x.asserted, 0), (b2n x.ackLevel, 1)]
  else if o = 0x008 then pack [(x.alarmEn.toNat, 0)]
  else if o = 0x00C then BitVec.ofNat 32 x.stallLimit
  else if o = 0x010 then BitVec.ofNat 32 x.segStat
  else if o = 0x014 then pack [(x.addrBurst, 0), (x.addrState, 16)]
  else if o = 0x018 then pack [(x.ctxCe, 0), (x.ctxUe, 16)]
  else if o = 0x01C then BitVec.ofNat 32 x.stallCnt
  else if o = 0x020 then pack [(x.clkLoss.toNat, 0)]
  else if o = 0x024 then BitVec.ofNat 32 x.lockstep
  else if o = 0x028 then pack [(x.ackAccepted, 0), (x.ackRefused, 16)]
  else 0

/-- Requests that hold one of the 1,024 places (X_OUT). -/
def Xezan.outstanding (x : Xezan) : Nat := (x.reqs.filter fun q => !q.abandoned).length

/-- A Xezan register (Table 9-8). -/
def State.xValue (s : State) (o : Nat) : W32 :=
  let x := s.xez
  if o = 0x000 then BitVec.ofNat 32 s.opt.instanceId
  else if o = 0x004 then BitVec.ofNat 32 x.tmo
  else if o = 0x008 then BitVec.ofNat 32 x.hold
  else if o = 0x00C then BitVec.ofNat 32 x.outstanding
  else if o = 0x010 then pack [(x.link, 0), (x.format, 16)]
  else if o = 0x014 then pack [(x.unknownPeer, 0), (x.noSpace, 16)]
  else if o = 0x018 then pack [(x.late, 0), (x.retries, 16)]
  else if o = 0x01C then pack [(x.voids, 0), (x.seqOld, 16)]
  else if o = 0x020 then pack [(x.exhausted, 0), (x.refused, 16)]
  else if o < 0x2000 then
    let e : Peer := look {} x.peers ((o - 0x1000) / 0x10)
    if o % 0x10 = 0 then pack [(e.inst, 0), (b2n e.bound, 31)]
    else if o % 0x10 = 4 then pack [(e.port, 0), (e.retry, 4), (e.funcMask.toNat, 16)]
    else if o % 0x10 = 8 then BitVec.ofNat 32 e.remoteFn.toNat
    else hiWord e.remoteFn.toNat
  else
    let w : Window := look {} (s.fn ((o - 0x2000) / 0x100)).windows ((o - 0x2000) / 0x10 % 16)
    if o % 0x10 = 0 then BitVec.ofNat 32 w.base
    else if o % 0x10 = 4 then hiWord w.base
    else if o % 0x10 = 8 then BitVec.ofNat 32 w.pages
    else pack [(b2n w.read, 0), (b2n w.write, 1), (b2n w.coherent, 2), (b2n w.sigEn, 3), (w.sigId, 8)]

/-- SEQNO of the record that stands at position `i` of the log, and its 32 bytes (Table 13-9). -/
def Gaffer.seqAt (g : Gaffer) (i : Nat) : Nat := g.logNext - 1 - (g.logNext - 1 - i) % 2048

def LogRec.bytes (r : LogRec) (seq : Nat) : List Byte :=
  let body := leBytes 8 r.time.toNat ++ leBytes 4 seq ++ leBytes 2 r.kind ++ leBytes 1 r.source ++ leBytes 1 r.flags
    ++ (r.data ++ List.replicate 12 0).take 12
  body ++ leBytes 4 (crc32 body).toNat

/-- A word of the log window; a record that has not been written since cold reset reads zero. -/
def State.logValue (s : State) (o : Nat) : W32 :=
  match s.gaf.logs.find? fun e => e.1 == o / 32 with
  | none => 0
  | some e => BitVec.ofNat 32 (ofLeBytes ((LogRec.bytes e.2 (s.gaf.seqAt (o / 32))).drop (o % 32) |>.take 4))

/-- The registers of a function that is not ready and not in a function reset read their Reset values (R338); its mailbox
and a function in a reset read as they stand (R332). -/
def State.fnOpen (s : State) (f : Nat) : Bool := (s.fn f).ready || (s.fn f).resetting

/-- What the register at `a` reads as. -/
def State.regValue (s : State) (a : Nat) : W32 :=
  if a < 0x200000 then
    let f := a / 0x20000
    let o := a % 0x20000
    if 0x1000 ≤ o ∧ o < 0x2000 then mbValue (s.mailbox f) (o - 0x1000)
    else if s.fnOpen f then s.fnValue f o
    else fnResetValue f o
  else if a < 0x201000 then s.gValue (a - 0x200000)
  else if a < 0x202000 then mbValue (s.mailbox 16) (a - 0x201000)
  else if a < 0x214000 then s.spValue ((a - 0x210000) / 0x100) (a % 0x100)
  else if a < 0x230000 then s.cuValue (a - 0x220000)
  else if a < 0x240000 then s.safetyValue (a - 0x230000)
  else if a < 0x250000 then s.logValue (a - 0x240000)
  else s.xValue (a - 0x260000)

end Sys2Proof.Machine
end

