-- ==== Sys2Proof/Machine/Regs.lean ====
section
/-! DEFINITION. What a write of each register does when it becomes visible, what a read clears or loads, and the register
port REG (R10 to R16, R38 to R40, R161, R166, R233 to R235, R291, R310, R311, R329, R332, R338, R339, R366, R368). -/

namespace Sys2Proof.Machine

/-! ### Slot registers -/

/-- Low or high half of a 64-bit register replaced. -/
def setHalf (q : W64) (hi : Bool) (d : W32) : W64 :=
  if hi then BitVec.ofNat 64 (q.toNat % 2 ^ 32 + d.toNat * 2 ^ 32)
  else BitVec.ofNat 64 (q.toNat / 2 ^ 32 * 2 ^ 32 + d.toNat)

/-- A lehr stop takes effect (R162): it completes at once when nothing has to finish. -/
def State.startLehr (s : State) (p : Nat) : State :=
  let s1 := s.modChan p fun c =>
    { c with state := .stopping, wantsSignal := none, direct := { c.direct with due := false } }
  if (s1.chan p).lehrReady then s1.lehrEnd p else s1

/-- A RESUME takes effect (R314): the park state goes with it, from STOPPED as from HALTED, though R80 names no RESUME
among the ways out of it (assumption 98). -/
def State.resume (s : State) (p : Nat) : State :=
  s.modChan p fun c =>
    { c with state := .running, ring := { c.ring with parked := false, retries := 0, reReadAt := none, again := false } }

/-- A write of C_CTL (R161, Table 5-2); `none` where it is an illegal sequence (assumption 87). -/
def State.writeCtl (s : State) (f p : Nat) (d : W32) : Option State :=
  let c := s.chan p
  let circ := d.getLsbD 1
  let acts := b2n (d.getLsbD 0) + b2n (d.getLsbD 2) + b2n (d.getLsbD 3) + b2n (d.getLsbD 4)
  let sc := s.modChan p fun x => { x with direct := { x.direct with circ := circ } }
  if 1 < acts then none
  else if acts = 0 then some sc
  else if d.getLsbD 0 then
    if !c.cfg.ringMode && c.state == .idle && !(s.fn f).halted then s.goPass p circ else none
  else if d.getLsbD 2 then
    if c.state == .running && !c.halt.pending then some (sc.startLehr p) else none
  else if d.getLsbD 3 then
    if (c.state == .running || c.state == .stopping) && !c.halt.pending then some (sc.startAbort p false) else none
  else if c.cfg.ringMode && !(s.fn f).halted
      && (c.state == .stopped || (c.state == .halted && !c.halt.pending && !c.halt.haltSeen)) then
    some (sc.resume p)
  else none

/-- The state of a doorbell or PUSH_COMMIT that R67 allows. -/
def State.mayRing (s : State) (f p : Nat) : Bool :=
  (s.chan p).cfg.ringMode && (s.chan p).ring.bound && !(s.fn f).halted

/-- Clears bits of a W1C field. -/
def clearBits {n : Nat} (x : BitVec n) (d : W32) : BitVec n := x &&& ~~~ BitVec.ofNat n d.toNat

/-- A write of a register of slot `p`'s channel; `none` where it is an illegal sequence (assumption 47). -/
def State.writeSlot (s : State) (f p n : Nat) (d : W32) : Option State :=
  if 0x100 ≤ n then some (s.modChan p fun c => { c with push := put c.push ((n - 0x100) / 4) d })
  else if n = 0x000 then (s.writeCtl f p d).map s.settle
  else if n = 0x008 ∨ n = 0x00C then
    some (s.modChan p fun c => { c with direct := { c.direct with src := setHalf c.direct.src (n == 0x00C) d } })
  else if n = 0x010 ∨ n = 0x014 then
    some (s.modChan p fun c => { c with direct := { c.direct with dst := setHalf c.direct.dst (n == 0x014) d } })
  else if n = 0x018 then some (s.modChan p fun c => { c with direct := { c.direct with len := d } })
  else if n = 0x01C then
    some (s.modChan p fun c => { c with direct := { c.direct with layout := BitVec.ofNat 8 d.toNat } })
  else if n = 0x028 then some (s.modChan p fun c => { c with evt := clearBits c.evt d })
  else if n = 0x02C then
    some (s.modChan p fun c =>
      { c with
        state := if d.getLsbD 1 && c.halt.haltSeen && !c.cfg.ringMode && c.state == .halted then .idle else c.state
        halt := { c.halt with haltSeen := c.halt.haltSeen && !d.getLsbD 1, stopSeen := c.halt.stopSeen && !d.getLsbD 2 } })
  else if n = 0x040 then
    if s.mayRing f p then ((s.chan p).ring.newTail d).map fun t => s.ringDoorbell p t else none
  else if n = 0x044 then
    if s.mayRing f p then ((s.chan p).ring.pushLegal d).map fun t => s.pushCommit p t (pushCount d) else none
  else if n = 0x060 then
    some (s.modChan p fun c => { c with ring := { c.ring with staleSeen := c.ring.staleSeen && !d.getLsbD 8 } })
  else if n = 0x088 then
    some (s.modChan p fun c => { c with fresh := { c.fresh with staleSeen := c.fresh.staleSeen && !d.getLsbD 8 } })
  else some s

/-! ### Holding operations (R233 to R235, Table 8-4) -/

def countBits (x : BitVec 16) : Nat := ((List.range 16).map fun i => b2n (x.getLsbD i)).sum

/-- The result of an operation: 1 SHARE, 2 RELEASE, 3 FREE (Table 8-5); the first failing check decides. -/
def State.gobOpResult (s : State) (f op slot tgt : Nat) : Nat :=
  let h := (s.fn f).gobHandle.toNat
  let r := s.gobRec (handleGob h)
  let holds := r.holdMask.getLsbD f
  if op = 0 ∨ (op = 1 ∧ s.member.functions ≤ tgt) then 8
  else if s.stale h then 1
  else if op = 1 then
    if r.freerFn ≠ f ∨ r.freerSlot ≠ slot then 3
    else if s.pinnedFor f (handleGob h) then 7
    else if r.holdMask.getLsbD tgt ∨ 15 ≤ countBits r.holdMask then 5
    else 0
  else if op = 2 then
    if !holds then 2
    else if r.freerFn = f then 6
    else if s.pinnedFor f (handleGob h) then 7
    else 0
  else
    if !holds then 2
    else if r.freerFn ≠ f ∨ r.freerSlot ≠ slot then 3
    else if s.pinnedFor f (handleGob h) then 7
    else if countBits r.holdMask ≠ 1 then 4
    else 0

/-- The counts and events of a refused FREE (R235). -/
def State.refusedFree (s : State) (result : Nat) : State :=
  if result = 1 then
    ({ s with cul := { s.cul with doubleFree := satAdd 16 s.cul.doubleFree 1 } } : State).raise 1457
  else if result = 2 then
    ({ s with cul := { s.cul with nonHolder := satAdd 16 s.cul.nonHolder 1 } } : State).raise 1458
  else if result = 4 then
    ({ s with cul := { s.cul with premature := satAdd 16 s.cul.premature 1 } } : State).raise 1456
  else s

/-- The change that an accepted operation makes to the chain. -/
def State.gobOpApply (s : State) (f op tgt g : Nat) : State :=
  let r := s.gobRec g
  if op = 1 then s.writeRec g { r with holdMask := r.holdMask ||| BitVec.ofNat 16 (2 ^ tgt) }
  else if op = 2 then s.writeRec g { r with holdMask := r.holdMask &&& ~~~ BitVec.ofNat 16 (2 ^ f) }
  else s.freeChain g

/-- A write of F_GOB_OP; `none` while an operation is in progress. -/
def State.gobOp (s : State) (f : Nat) (d : W32) : Option State :=
  if (s.fn f).gobBusy then none
  else
    let op := field32 d 1 0
    let tgt := field32 d 19 16
    let res := s.gobOpResult f op (field32 d 10 4) tgt
    let g := handleGob (s.fn f).gobHandle.toNat
    if res = 0 then
      some ((s.gobOpApply f op tgt g).modFn f fun x =>
        { x with gobBusy := true, gobDone := false, gobResult := 0, gobTarget := g })
    else
      some ((if op = 3 then s.refusedFree res else s).modFn f fun x =>
        { x with gobBusy := false, gobDone := true, gobResult := res })

/-! ### Function registers -/

/-- A channel has a started descriptor or pass that names the port (R212, R196). -/
def State.portNamed (s : State) (p : Nat) : Bool :=
  s.chans.any fun e => e.2.started.any fun w =>
    (w.desc.toPort && w.desc.dstAddr == p) || (w.desc.takes && w.desc.srcAddr == p)

/-- A write of F_SP_FLUSH (R211, R212). -/
def State.flushPort (s : State) (f : Nat) (d : W32) : Option State :=
  let p := field32 d 5 0
  if !d.getLsbD 8 then some s
  else if (s.port p).holder ≠ some f ∨ ((s.port p).dirOut ∧ s.portNamed p) then none
  else some (s.modPort p fun x => { x with flushWait := true, flushFor := s.takingPort p })

/-- The vectors of function `f` that the administrator holds: their mask bits read 1 whatever is written. -/
def State.adminVecs (s : State) (f : Nat) : Nat :=
  ((List.range 128).map fun j => b2n (s.vec (128 * f + j)).admin * 2 ^ j).sum

/-- A write of one F_MSI_MASK register: unmasking a vector with uncovered raises decides its write (R172). -/
def State.writeMask (s : State) (f i : Nat) (d : W32) : State :=
  let old := (s.fn f).msiMask
  let new := BitVec.ofNat 128 ((old &&& ~~~ (BitVec.ofNat 128 0xFFFFFFFF <<< (32 * i))).toNat + d.toNat * 2 ^ (32 * i))
    ||| BitVec.ofNat 128 (s.adminVecs f)
  let s1 := s.modFn f fun x => { x with msiMask := new }
  (List.range 32).foldl
    (fun t j => if old.getLsbD (32 * i + j) && !new.getLsbD (32 * i + j) then t.decideVec (128 * f + 32 * i + j) true
                else t) s1

/-- A write of F_SPEVTi: the bits of ports that the function holds. -/
def State.writeSpEvt (s : State) (f i : Nat) (d : W32) : State :=
  (List.range 8).foldl
    (fun t j => if (t.port (8 * i + j)).holder = some f then
        t.modPort (8 * i + j) fun x => { x with evt := x.evt &&& ~~~ BitVec.ofNat 4 (d.toNat / 16 ^ j) }
      else t) s

/-- The sticky bits of SP_STAT. -/
def Port.clearStat (x : Port) (d : W32) : Port :=
  { x with overrun := x.overrun && !d.getLsbD 1, wmHighSeen := x.wmHighSeen && !d.getLsbD 2,
           wmLowSeen := x.wmLowSeen && !d.getLsbD 3, gapSeen := x.gapSeen && !d.getLsbD 4 }

/-- A legal write of CR_HEAD (R93). -/
def CplRing.headLegal (r : CplRing) (d : W32) : Option Nat :=
  match idxValue r.order d with
  | none => none
  | some c => if r.bound ∧ ringCount r.order c r.producer ≤ ringCount r.order r.head r.producer then some c else none

/-- A write of a completion-ring register. -/
def State.writeCr (s : State) (f ring n : Nat) (d : W32) : Option State :=
  let r := look {} (s.fn f).rings ring
  if n = 0x0C then
    (r.headLegal d).map fun c => s.modRing f ring fun x =>
      let y := { x with head := c }
      { y with episode := y.episode && y.full }
  else if n = 0x14 then some (s.modRing f ring fun x => { x with fullSeen := x.fullSeen && !d.getLsbD 1 })
  else some s

/-- A write of an F_ register; `none` where it is an illegal sequence. -/
def State.writeF (s : State) (f o : Nat) (d : W32) : Option State :=
  let x := s.fn f
  if o = 0x020 then some (s.modFn f fun y => { y with haltSeen := y.haltSeen && !d.getLsbD 2 })
  else if o = 0x034 then
    if !d.getLsbD 0 then some s
    else if x.halted && x.drained && !x.haltSeen then
      some (s.modFn f fun y => { y with halted := false, drained := false })
    else none
  else if o = 0x100 then some (s.modFn f fun y => { y with evt := clearBits y.evt d })
  else if 0x110 ≤ o ∧ o < 0x130 then some (s.writeSpEvt f ((o - 0x110) / 4) d)
  else if o = 0x130 then some (s.raiseSignal f (field32 d 7 0))
  else if 0x140 ≤ o ∧ o < 0x150 then some (s.writeMask f ((o - 0x140) / 4) d)
  else if o = 0x170 then s.flushPort f d
  else if o = 0x180 then some (s.modFn f fun y => { y with gobHandle := d })
  else if o = 0x184 then (s.gobOp f d).map s.settle
  else some s

/-- The writes that a function reset in progress makes illegal (R332). -/
def heldInReset (o : Nat) : Bool :=
  o == 0x130 || o == 0x170 || o == 0x184 || o == 0x034
    || (decide (0x10000 ≤ o) && (o % 0x200 == 0x000 || o % 0x200 == 0x040 || o % 0x200 == 0x044))

/-- Why a write of a function window is an illegal sequence whatever its register: window states (R332, R338, R366) and
views of ports that the function does not hold. -/
def State.windowShut (s : State) (f o : Nat) : Bool :=
  !s.fnOpen f || ((s.fn f).resetting && heldInReset o)
    || (decide (0x10000 ≤ o) && (s.pchOf f ((o - 0x10000) / 0x200)).isNone)
    || (decide (0x800 ≤ o) && decide (o < 0x1000) && (s.port ((o - 0x800) / 0x20)).holder != some f)

/-- A write of a function window outside the mailbox, when it becomes visible. -/
def State.writeFn (s : State) (f o : Nat) (d : W32) : State :=
  if s.windowShut f o then s.ignFn f o 2
  else if fnKind s.member o = .readOnly then s.ignFn f o 0
  else
    (if o < 0x800 then s.writeF f o d
     else if o < 0x1000 then some (s.modPort ((o - 0x800) / 0x20) fun x => x.clearStat d)
     else if o < 0x10000 then s.writeCr f ((o - 0x2000) / 0x40) (o % 0x40) d
     else
       match s.pchOf f ((o - 0x10000) / 0x200) with
       | some p => s.writeSlot f p (o % 0x200) d
       | none => none).getD (s.ignFn f o 2)

/-! ### Administrative registers -/

/-- A write of G_LANE_RES (R191). -/
def State.writeLane (s : State) (b : Nat) (d : W32) : Option State :=
  let res := field32 d 15 0
  let lim := field32 d 31 16
  if lim < res ∨ s.member.reservable < s.cruReserved - (s.bench b).laneRes + res then none
  else some (s.modBench b fun x => { x with laneRes := res, laneLim := lim })

/-- A write of a G_ register; `none` where it is an illegal sequence. -/
def State.writeG (s : State) (o : Nat) (d : W32) : Option State :=
  if o = 0x04C then some { s with rst := { s.rst with warmCount := field32 d 31 16 } }
  else if 0x100 ≤ o ∧ o < 0x140 then
    some (s.modBench ((o - 0x100) / 8) fun x => if o % 8 = 0 then { x with capRd := d } else { x with capWr := d })
  else if 0x140 ≤ o ∧ o < 0x14C then
    some { s with ev := { s.ev with glob := s.ev.glob &&& ~~~ BitVec.ofNat 68 (d.toNat * 2 ^ (8 * (o - 0x140))) } }
  else if 0x180 ≤ o ∧ o < 0x1C0 then s.writeLane ((o - 0x180) / 8) d
  else if o = 0x240 then some { s with cru := { s.cru with scrub := field32 d 15 0 } }
  else if o = 0x244 then some { s with cru := { s.cru with thresh := field32 d 15 0 } }
  else if o = 0x260 then some { s with glob := { s.glob with retryLimit := field32 d 2 0 } }
  else some s

/-- Causes whose condition still holds (R291): a lost clock, an invalid time input while a guarded descriptor runs, and a
Gaffer still rebooting. -/
def State.causeHolds (s : State) : BitVec 16 :=
  let stale := !s.time.valid && s.chans.any fun e => e.2.started.any fun w => w.desc.fresh && w.live
  let clock := s.rst.lost != 0 || s.rst.refLost
  let lockstep := s.gaf.state == .booting
  BitVec.ofNat 16 (b2n stale + b2n clock * 2 ^ 6 + b2n lockstep * 2 ^ 7)

/-- A write of the safety block. -/
def State.writeSafety (s : State) (o : Nat) (d : W32) : State :=
  if o = 0x000 then
    { s with safety := { s.safety with cause := s.safety.cause &&& ~~~ (BitVec.ofNat 16 d.toNat &&& ~~~ s.causeHolds) } }
  else
    let held := BitVec.ofNat 10 (s.rst.lost.toNat + b2n s.rst.refLost * 2 ^ 9)
    { s with safety := { s.safety with clkLoss := s.safety.clkLoss &&& ~~~ (BitVec.ofNat 10 d.toNat &&& ~~~ held) } }

/-- A write of CU_FORCE (R237): a stale handle has no effect and is counted. -/
def State.forceFree (s : State) (d : W32) : Option State :=
  if s.stale d.toNat then none
  else some { s with cul := { s.cul with forced := s.cul.forced ++ [handleGob d.toNat] } }

/-- A write of X_TMO or X_HOLD (Table 9-8). -/
def State.writeX (s : State) (o : Nat) (d : W32) : Option State :=
  let n := field32 d 22 0
  if n < 20 ∨ 5000000 < n then none
  else if o = 0x004 then some { s with xez := { s.xez with tmo := n } }
  else some { s with xez := { s.xez with hold := n } }

/-- A write of the administrative area outside the mailbox, when it becomes visible. -/
def State.writeAdm (s : State) (a : Nat) (d : W32) : State :=
  if regKind s.member a = .readOnly then s.ignAdm a 0
  else
    (if a < 0x201000 then s.writeG (a - 0x200000) d
     else if a < 0x214000 then some (s.modPort ((a - 0x210000) / 0x100) fun x => x.clearStat d)
     else if a < 0x230000 then s.forceFree d
     else if a < 0x240000 then some (s.writeSafety (a - 0x230000) d)
     else s.writeX (a - 0x260000) d).getD (s.ignAdm a 2)

/-- An entry of the register-write queue becomes visible in cclk. -/
def State.applyEntry (s : State) (e : RegEntry) : State :=
  match e.ign with
  | some k => s.ignore e.addr k
  | none => if e.addr < 0x200000 then s.writeFn (e.addr / 0x20000) (e.addr % 0x20000) e.data else s.writeAdm e.addr e.data

/-- An entry enters the register-write queue: cclk pops it at once, or it waits, or it finds 16 entries and is dropped
(R39, R373). -/
def State.pushEntry (s : State) (e : RegEntry) : State :=
  if cclkUp s then s.applyEntry e
  else if s.regq.length < Queue.depth .registerWrite then { s with regq := s.regq ++ [e] }
  else { s with glob := { s.glob with regDrop := satAdd 32 s.glob.regDrop 1 } }

/-- A refused read crosses as a write does, but finding 16 entries it is not counted as a dropped write (R373). -/
def State.pushRefusedRead (s : State) (a : Nat) : State :=
  if cclkUp s ∨ s.regq.length < Queue.depth .registerWrite then s.pushEntry { addr := a, data := 0, ign := some 3 } else s

/-! ### Mailboxes (R339, R342, R362) -/

/-- The buffer with these bytes, and zero beyond them. -/
def bufferOf (bytes : List Byte) : Tbl W32 :=
  (List.range ((bytes.length + 3) / 4)).map fun i => (i, BitVec.ofNat 32 (ofLeBytes ((bytes.drop (4 * i)).take 4)))

/-- The reply of mailbox `m` becomes visible, with its event (R342). -/
def State.mbReply (s : State) (m : Nat) (status : BitVec 8) (reply : List Byte) : State :=
  let x := s.mailbox m
  (s.setMailbox m { x with data := bufferOf reply, busy := false, done := true, status := status, seqEcho := x.seq,
                           len := reply.length }).raiseUp (if m = 16 then 1448 else fnEvent m 2)

/-- Byte address of mailbox `m`'s block. -/
def mbBase (m : Nat) : Nat := if m = 16 then 0x201000 else m * 0x20000 + 0x1000

/-- The administrative mailbox comes before the functions' ones in ascending number (R340). -/
def goFirst (m n : Nat) : Bool := m == 16 || (n != 16 && decide (m < n))

/-- A mailbox among those whose GOs one gclk edge makes visible. -/
def tieIn (m : Nat) : List Nat → List Nat
  | [] => [m]
  | n :: t => if goFirst m n then m :: n :: t else n :: tieIn m t

/-- A GO crosses to gclk (R340): it is last in take order, or it becomes visible with the GO before it, if none of that
edge has been taken (assumption 95). -/
def State.queueGo (s : State) (m : Nat) : State :=
  let last := if Config.goTied s.goCount then tieIn m s.goTied else [m]
  let before := if Config.goTied s.goCount then s.goOrder.take (s.goOrder.length - s.goTied.length) else s.goOrder
  { s with goOrder := before ++ last, goTied := last, goCount := s.goCount + 1 }

/-- A write of a mailbox register at its hclk edge (assumption 35). -/
def State.writeMb (s : State) (m n : Nat) (d : W32) : State :=
  let x := s.mailbox m
  let bad := s.pushEntry { addr := mbBase m + n, data := d, ign := some 2 }
  if n < 0x100 then
    if x.busy then bad else s.setMailbox m { x with data := put x.data (n / 4) d }
  else if n = 0x100 then
    if x.busy then bad
    else s.setMailbox m { x with code := BitVec.ofNat 16 d.toNat, seq := BitVec.ofNat 16 (d.toNat / 2 ^ 16) }
  else if n = 0x104 then
    if !d.getLsbD 0 then s
    else if x.busy then bad
    else
      let s1 := s.setMailbox m { x with busy := true, done := false, applied := false, replay := false }
      if s.gaf.down then s1.mbReply m 1 [] else s1.queueGo m
  else if n = 0x108 then s.setMailbox m { x with done := x.done && !d.getLsbD 1 }
  else s.pushEntry { addr := mbBase m + n, data := d, ign := some 0 }

/-- The mailbox that the address belongs to. -/
def mbOf (a : Nat) : Option Nat :=
  if a < 0x200000 then
    if 0x1000 ≤ a % 0x20000 ∧ a % 0x20000 < 0x2000 then some (a / 0x20000) else none
  else if 0x201000 ≤ a ∧ a < 0x202000 then some 16 else none

/-! ### What a read clears or loads -/

/-- RC fields of a slot. -/
def Chan.readClear (c : Chan) (n : Nat) : Chan :=
  if n = 0x024 then { c with dropped := 0 }
  else if n = 0x02C then { c with halt := { c.halt with halts := 0 } }
  else if n = 0x03C then { c with halt := { c.halt with reheats := 0, exhausted := 0 } }
  else if n = 0x060 then { c with ring := { c.ring with parkCount := 0 } }
  else if n = 0x070 then { c with pushUsed := 0, pushMissed := 0 }
  else if n = 0x088 then { c with fresh := { c.fresh with staleCount := 0 } }
  else c

/-- RC fields of a stream port. -/
def Port.readClear (x : Port) (n : Nat) : Port :=
  if n = 0x18 then { x with highCross := 0, lowCross := 0 }
  else if n = 0x1C then { x with badPkt := 0, gaps := 0 }
  else if n = 0x20 then { x with ovfWords := 0 }
  else if n = 0x24 then { x with flushDropped := 0 }
  else x

/-- Clears the merged counts of two TRIG_OUT outputs that `who` holds. -/
def State.clearMerged (s : State) (who i : Nat) : State :=
  [2 * i, 2 * i + 1].foldl
    (fun t n => if (t.tout n).holder = some who then t.setTout n { t.tout n with merged := 0 } else t) s

def State.takeSnap (s : State) : Snap := { value := s.time.tnow, valid := s.time.valid }

/-- What a read of a function window does besides answering. -/
def State.readFn (s : State) (f o : Nat) : State :=
  if o = 0x008 then s.modFn f fun x => { x with snap := s.takeSnap }
  else if o = 0x020 then s.modFn f fun x => { x with malformedCount := 0 }
  else if o = 0x02C then s.modFn f fun x => { x with ignored := 0 }
  else if o = 0x134 then s.modFn f fun x => { x with sigOvf := 0 }
  else if 0x150 ≤ o ∧ o < 0x170 then s.clearMerged f ((o - 0x150) / 4)
  else if 0x800 ≤ o ∧ o < 0x1000 then
    if (s.port ((o - 0x800) / 0x20)).holder = some f then
      s.modPort ((o - 0x800) / 0x20) fun x => x.readClear (0x10 + o % 0x20)
    else s
  else if 0x2000 ≤ o ∧ o < 0x2400 then
    if o % 0x40 = 0x14 then s.modRing f ((o - 0x2000) / 0x40) fun x => { x with waitCount := 0 } else s
  else if 0x10000 ≤ o then
    match s.pchOf f ((o - 0x10000) / 0x200) with
    | some p => s.modChan p fun c => c.readClear (o % 0x200)
    | none => s
  else s

/-- What a read of the administrative area does besides answering. -/
def State.readAdm (s : State) (a : Nat) : State :=
  let o := a - 0x200000
  if a < 0x201000 then
    if o = 0x020 then { s with time := { s.time with snap := s.takeSnap } }
    else if o = 0x028 then { s with time := { s.time with backsteps := 0 } }
    else if o = 0x02C then { s with glob := { s.glob with regDrop := 0 } }
    else if 0x200 ≤ o ∧ o < 0x240 then
      { s with cru := { s.cru with ce := put s.cru.ce ((o - 0x200) / 4) 0, ue := put s.cru.ue ((o - 0x200) / 4) 0 } }
    else if o = 0x264 then { s with glob := { s.glob with devReheats := 0, devExhausted := 0 } }
    else if o = 0x268 then { s with glob := { s.glob with admIgn := 0 } }
    else if o = 0x288 then
      { s with gaf := { s.gaf with resLockstep := 0, resWatchdog := 0, resActivate := 0, resRollback := 0 } }
    else if o = 0x290 then { s with gaf := { s.gaf with logLost := 0 } }
    else if 0x310 ≤ o ∧ o < 0x330 then s.clearMerged 16 ((o - 0x310) / 4)
    else s
  else if 0x210000 ≤ a ∧ a < 0x214000 then s.modPort ((a - 0x210000) / 0x100) fun x => x.readClear (a % 0x100)
  else if a = 0x220030 then { s with cul := { s.cul with premature := 0, doubleFree := 0 } }
  else if a = 0x220034 then { s with cul := { s.cul with nonHolder := 0, metaCheck := 0 } }
  else if a = 0x22003C then { s with cul := { s.cul with exhausted := 0 } }
  else if a = 0x230010 then { s with safety := { s.safety with segStat := 0 } }
  else if a = 0x230014 then { s with safety := { s.safety with addrBurst := 0, addrState := 0 } }
  else if a = 0x230018 then { s with safety := { s.safety with ctxCe := 0, ctxUe := 0 } }
  else if a = 0x23001C then { s with safety := { s.safety with stallCnt := 0 } }
  else if a = 0x230024 then { s with safety := { s.safety with lockstep := 0 } }
  else if a = 0x230028 then { s with safety := { s.safety with ackAccepted := 0, ackRefused := 0 } }
  else if a = 0x260010 then { s with xez := { s.xez with link := 0, format := 0 } }
  else if a = 0x260014 then { s with xez := { s.xez with unknownPeer := 0, noSpace := 0 } }
  else if a = 0x260018 then { s with xez := { s.xez with late := 0, retries := 0 } }
  else if a = 0x26001C then { s with xez := { s.xez with voids := 0, seqOld := 0 } }
  else if a = 0x260020 then { s with xez := { s.xez with exhausted := 0, refused := 0 } }
  else s

/-- What a carried-out read does besides answering. -/
def State.readEffect (s : State) (a : Nat) : State :=
  if a < 0x200000 then
    if (mbOf a).isNone && s.fnOpen (a / 0x20000) then s.readFn (a / 0x20000) (a % 0x20000) else s
  else s.readAdm a

/-! ### REG -/

/-- The word that an access addresses: PADDR [1:0] is ignored (R39). -/
def wordAddr (addr : BitVec 22) : Nat := addr.toNat / 4 * 4

/-- PPROT refuses the access (R40). -/
def protRefused (a : Nat) (prot : BitVec 3) : Bool := isAdministrative a && !(prot.getLsbD 0 && !prot.getLsbD 1)

/-- PSLVERR of the completed access; a write returns no data, and the last read's stays (assumption 33). -/
def State.answer (s : State) (err : Bool) : State := { s with apb := { prdata := s.apb.prdata, pslverr := err } }

/-- PREADY as the block drives it between accesses (R39, R329): low while a reset or a lost clock holds hclk. -/
def State.pready (s : State) : Bool := hclkUp s

/-- An access waits in its access phase until hclk is released: the outputs are low (R329; assumption 99). -/
def State.hold (s : State) : State := { s with apb := { held := true } }

/-- At the release of hclk a waiting access completes: a read returns zero, a write has no effect, nothing is counted
and PSLVERR stays low (R329). -/
def State.hclkReleased (s : State) : State := { s with apb := {} }

/-- A write access (R39, R40). -/
def State.apbWrite (s : State) (addr : BitVec 22) (d : W32) (strb : BitVec 4) (prot : BitVec 3) : State :=
  let a := wordAddr addr
  if !hclkUp s then s.hold
  else if regKind s.member a = .hole then s.answer true
  else
    (if protRefused a prot then s.pushEntry { addr := a, data := d, ign := some 3 }
     else if strb ≠ 0b1111 then s.pushEntry { addr := a, data := d, ign := some 1 }
     else
       match mbOf a with
       | some m => s.writeMb m (a % 0x1000) d
       | none => s.pushEntry { addr := a, data := d }).answer false

/-- A read access. -/
def State.apbRead (s : State) (addr : BitVec 22) (prot : BitVec 3) : State :=
  let a := wordAddr addr
  if !hclkUp s then s.hold
  else if regKind s.member a = .hole then { s with apb := { prdata := 0, pslverr := true } }
  else if protRefused a prot then
    { s.pushRefusedRead a with apb := { prdata := 0, pslverr := false } }
  else { s.readEffect a with apb := { prdata := s.regValue a, pslverr := false } }

/-! ### The rows of the register port -/

def slotReg (fn slot n : Nat) : BitVec 22 := BitVec.ofNat 22 (fn % 16 * 0x20000 + 0x10000 + slot % 128 * 0x200 + n)
def fnReg (fn o : Nat) : BitVec 22 := BitVec.ofNat 22 (fn % 16 * 0x20000 + o)

/-- REGISTER_WRITE. -/
def execRegisterWrite (addr : BitVec 22) (data : W32) (strb : BitVec 4) (prot : BitVec 3) (s : State) :
    Host.Outcome State Fault Refusal := .next (s.apbWrite addr data strb prot)

/-- REGISTER_READ. -/
def execRegisterRead (addr : BitVec 22) (prot : BitVec 3) (s : State) : Host.Outcome State Fault Refusal :=
  .next (s.apbRead addr prot)

/-- APB_HOLE_ACCESS (R16): PSLVERR, a read of zero, and nothing else. -/
def execApbHoleAccess (addr : BitVec 22) (write : Bool) (s : State) : Host.Outcome State Fault Refusal :=
  if regKind s.member (wordAddr addr) = .hole then
    .next (if write then s.apbWrite addr 0 0b1111 1 else s.apbRead addr 1)
  else .next s

/-- TIME_SNAPSHOT (R368): a read of F_TNOW_LO of window `win`, or of G_TNOW_LO for 16. -/
def execTimeSnapshot (win : Nat) (prot : BitVec 3) (s : State) : Host.Outcome State Fault Refusal :=
  .next (s.apbRead (if win = 16 then 0x200020 else fnReg win 0x008) prot)

/-- S_CAUSE_CLEAR (R291). -/
def execSCauseClear (data : W32) (strb : BitVec 4) (prot : BitVec 3) (s : State) : Host.Outcome State Fault Refusal :=
  .next (s.apbWrite 0x230000 data strb prot)

/-- HALT_SEEN_CLEAR (R314). -/
def execHaltSeenClear (fn slot : Nat) (strb : BitVec 4) (s : State) : Host.Outcome State Fault Refusal :=
  .next (s.apbWrite (slotReg fn slot 0x02C) 0x2 strb 0)

/-- DOORBELL (R75, R76, R81). -/
def execDoorbell (fn slot : Nat) (data : W32) (strb : BitVec 4) (s : State) : Host.Outcome State Fault Refusal :=
  .next (s.apbWrite (slotReg fn slot 0x040) data strb 0)

/-- PUSH_AREA_WRITE (R82). -/
def execPushAreaWrite (fn slot word : Nat) (data : W32) (strb : BitVec 4) (s : State) :
    Host.Outcome State Fault Refusal := .next (s.apbWrite (slotReg fn slot (0x100 + 4 * (word % 64))) data strb 0)

/-- PUSH_COMMIT (R83, R84). -/
def execPushCommit (fn slot : Nat) (data : W32) (strb : BitVec 4) (s : State) : Host.Outcome State Fault Refusal :=
  .next (s.apbWrite (slotReg fn slot 0x044) data strb 0)

/-- CR_HEAD_WRITE (R93). -/
def execCrHeadWrite (fn ring : Nat) (data : W32) (strb : BitVec 4) (s : State) : Host.Outcome State Fault Refusal :=
  .next (s.apbWrite (fnReg fn (0x2000 + ring % 16 * 0x40 + 0x0C)) data strb 0)

/-- SIG_RAISE (R152). -/
def execSigRaise (fn : Nat) (sig : BitVec 8) (strb : BitVec 4) (s : State) : Host.Outcome State Fault Refusal :=
  .next (s.apbWrite (fnReg fn 0x130) (sig.setWidth 32) strb 0)

/-- SP_FLUSH (R211, R212): a write with FLUSH 1. -/
def execSpFlush (fn : Nat) (port : BitVec 6) (strb : BitVec 4) (s : State) : Host.Outcome State Fault Refusal :=
  .next (s.apbWrite (fnReg fn 0x170) (port.setWidth 32 ||| 0x100) strb 0)

/-- RESTART (R310). -/
def execRestart (fn : Nat) (strb : BitVec 4) (s : State) : Host.Outcome State Fault Refusal :=
  .next (s.apbWrite (fnReg fn 0x034) 1 strb 0)

/-- A write of C_CTL with one action bit and CIRC. -/
def ctlWord (bit : Nat) (circ : Bool) : W32 := BitVec.ofNat 32 (2 ^ bit + (if circ then 2 else 0))

/-- GO (R159, R161). -/
def execGo (fn slot : Nat) (circ : Bool) (strb : BitVec 4) (s : State) : Host.Outcome State Fault Refusal :=
  .next (s.apbWrite (slotReg fn slot 0) (ctlWord 0 circ) strb 0)

/-- LEHR (R161, R162). -/
def execLehr (fn slot : Nat) (circ : Bool) (strb : BitVec 4) (s : State) : Host.Outcome State Fault Refusal :=
  .next (s.apbWrite (slotReg fn slot 0) (ctlWord 2 circ) strb 0)

/-- ABORT (R161, R164). -/
def execAbort (fn slot : Nat) (circ : Bool) (strb : BitVec 4) (s : State) : Host.Outcome State Fault Refusal :=
  .next (s.apbWrite (slotReg fn slot 0) (ctlWord 3 circ) strb 0)

/-- RESUME (R161, R314). -/
def execResume (fn slot : Nat) (circ : Bool) (strb : BitVec 4) (s : State) : Host.Outcome State Fault Refusal :=
  .next (s.apbWrite (slotReg fn slot 0) (ctlWord 4 circ) strb 0)

/-- F_GOB_OP's word. -/
def gobWord (op slot tgt : Nat) : W32 := BitVec.ofNat 32 (op + slot * 2 ^ 4 + tgt * 2 ^ 16)

/-- GOB_SHARE (R233, Table 8-4). -/
def execGobShare (fn : Nat) (slot : BitVec 7) (toFn : BitVec 4) (strb : BitVec 4) (s : State) :
    Host.Outcome State Fault Refusal := .next (s.apbWrite (fnReg fn 0x184) (gobWord 1 slot.toNat toFn.toNat) strb 0)

/-- GOB_RELEASE (R233, Table 8-4). -/
def execGobRelease (fn : Nat) (strb : BitVec 4) (s : State) : Host.Outcome State Fault Refusal :=
  .next (s.apbWrite (fnReg fn 0x184) (gobWord 2 0 0) strb 0)

/-- GOB_FREE (R233 to R236, Table 8-4). -/
def execGobFree (fn : Nat) (slot : BitVec 7) (strb : BitVec 4) (s : State) : Host.Outcome State Fault Refusal :=
  .next (s.apbWrite (fnReg fn 0x184) (gobWord 3 slot.toNat 0) strb 0)

/-- GOB_BAD_OP (Table 8-5): an OP code not defined, or a SHARE to a function that the member lacks. -/
def execGobBadOp (fn : Nat) (data : W32) (strb : BitVec 4) (s : State) : Host.Outcome State Fault Refusal :=
  if field32 data 1 0 = 0 ∨ (field32 data 1 0 = 1 ∧ s.member.functions ≤ field32 data 19 16) then
    .next (s.apbWrite (fnReg fn 0x184) data strb 0)
  else .next s

/-- FORCE_FREE (R237). -/
def execForceFree (handle : W32) (strb : BitVec 4) (prot : BitVec 3) (s : State) : Host.Outcome State Fault Refusal :=
  .next (s.apbWrite 0x22002C handle strb prot)

end Sys2Proof.Machine
end

