-- ==== Sys2Proof/Machine/Pacing.lean ====
section
/-! DEFINITION. Time, pacing gates and pulses: the time input (R58, R59, R320), timers (R149, R150), triggers (R151, R55,
R173) and message-vector deadlines (R172). -/

namespace Sys2Proof.Machine

/-- Replaces the time input; TIME_INVALID is raised when TNOW becomes invalid (R168). -/
def State.setTime (s : State) (t : TimeIn) : State :=
  let s1 : State := { s with time := t }
  if s.time.valid && !t.valid then s1.raise 1474 else s1

/-- TIME_SAMPLE (R58, R59, R320): a sample reaches cclk; the first one with TIME_VALID high after a reset is taken whatever
its value. -/
def execTimeSample (value : W64) (valid : Bool) (s : State) : Host.Outcome State Fault Refusal :=
  if !cclkUp s then .next s
  else if !valid then .next (s.setTime { s.time with lastValid := false })
  else if s.time.unset then .next (s.setTime { s.time with tnow := value, lastValid := true, unset := false })
  else if value.toNat < s.time.tnow.toNat then
    .next (({ s with time := { s.time with backsteps := satAdd 16 s.time.backsteps 1 } } : State).raise 1473)
  else .next (s.setTime { s.time with tnow := value, lastValid := true })

/-- The next value of a 4-bit Gray-coded count. -/
def grayNext (g : BitVec 4) : BitVec 4 :=
  let b := g ^^^ (g >>> 1) ^^^ (g >>> 2) ^^^ (g >>> 3)
  let n := b + 1
  n ^^^ (n >>> 1)

/-- A rising tclk edge at the time sampler (R59): the advance count goes up when TIME_VALID is high and TIME_NS is greater
than at the previous such edge. -/
def TimeIn.sampled (t : TimeIn) (ns : W64) (valid : Bool) : TimeIn :=
  if !valid then t
  else
    { t with
      advNs := some ns
      advance := match t.advNs with
        | some p => if p.toNat < ns.toNat then grayNext t.advance else t.advance
        | none => t.advance }

/-- A refclk edge at the time-input checker (R59): the count moves through the two flops and is compared with its value
at the edge before. -/
def TimeIn.checked (t : TimeIn) : TimeIn :=
  { t with atEdge := t.advance, flop1 := t.atEdge, flop2 := t.flop1, seen := t.flop2,
           equal := if t.flop2 = t.seen then min 8 (t.equal + 1) else 0 }

/-- TIME_STALL (R59): the synchronised count has been equal for 8 consecutive refclk edges; TNOW is invalid until the
stall is withdrawn and a new valid sample is taken. -/
def execTimeStall (s : State) : Host.Outcome State Fault Refusal :=
  .next (if s.time.equal = 8 then s.setTime { s.time with stalled := true, lastValid := false } else s)

/-- TIME_STALL_WITHDRAWN (R59): the synchronised count has changed. -/
def execTimeStallWithdrawn (s : State) : Host.Outcome State Fault Refusal :=
  .next (if s.time.equal = 0 then s.setTime { s.time with stalled := false } else s)

/-- NEXT and MISSED after a firing at TNOW (R149). -/
def Timer.advance (t : Timer) (tnow : Nat) : Timer :=
  if t.period = 0 then { t with armed := false, spent := true }
  else
    let k := (tnow - t.next) / t.period + 1
    { t with next := t.next + k * t.period, missed := satAdd 32 t.missed (k - 1) }

/-- TIMER_FIRE (R149, R150). -/
def execTimerFire (timer : Nat) (s : State) : Host.Outcome State Fault Refusal :=
  let t : Timer := look {} s.ev.timers timer
  match t.holder with
  | none => .next s
  | some f =>
    if s.time.valid && t.armed && decide (t.next ≤ s.time.tnow.toNat) then
      .next (({ s with ev := { s.ev with timers := put s.ev.timers timer (t.advance s.time.tnow.toNat) } } :
        State).fireGate f 1 timer)
    else .next s

/-- TRIG_IN (R151): an input that no function holds fires nothing. -/
def execTrigIn (n : Nat) (s : State) : Host.Outcome State Fault Refusal :=
  match look none s.ev.trigIn n with
  | some f => if cclkUp s && decide (f < 16) then .next (s.fireGate f 2 n) else .next s
  | none => .next s

/-- A TRIG_OUT at the refclk edge of its next change (R55, R173): a raise that has crossed starts a pulse, becomes the
pending pulse or merges; with none, the pulse gives way to its low time, and the low time to the pending pulse or to
rest (assumption 37). -/
def TrigOut.pulse (t : TrigOut) : TrigOut :=
  if 0 < t.queued then
    if t.phase = .idle then { t with queued := t.queued - 1, phase := .high }
    else if !t.pending then { t with queued := t.queued - 1, pending := true }
    else { t with queued := t.queued - 1, merged := satAdd 16 t.merged 1 }
  else
    match t.phase with
    | .idle => t
    | .high => { t with phase := .low }
    | .low => if t.pending then { t with phase := .high, pending := false } else { t with phase := .idle }

/-- Level of TRIG_OUT[n] (R55). -/
def State.trigLevel (s : State) (n : Nat) : Bool := (s.tout n).phase == .high

/-- TRIG_OUT_PULSE. -/
def execTrigOutPulse (n : Nat) (s : State) : Host.Outcome State Fault Refusal := .next (s.setTout n (s.tout n).pulse)

/-- MSI_TIME_EXPIRY (R172). -/
def execMsiTimeExpiry (vec : Nat) (s : State) : Host.Outcome State Fault Refusal :=
  match (s.vec vec).deadline with
  | none => .next s
  | some t => .next ((s.reachCclk t).decideVec vec false)

end Sys2Proof.Machine
end

