-- ==== Sys2Proof/Machine/Streams.lean ====
section
/-! DEFINITION. Stream ports and crucible maintenance: inbound packing, commit, rewind, refusal and flush (R199 to R212,
R384), outbound delivery, release and ECC (R202, R210, R214, R272), and the scrubber (R213 to R216). -/

namespace Sys2Proof

/-! ### Beats (R48, R49) -/

def StreamBeat.abortPkt (b : StreamBeat) : Bool := b.user.getLsbD 3
/-- WORDS of TUSER. -/
def StreamBeat.count (b : StreamBeat) : Nat := b.user.toNat % 8
def StreamBeat.countValid (b : StreamBeat) : Bool := decide (1 ≤ b.count ∧ b.count ≤ 4)
/-- The beat is the last of its packet: TLAST or ABORT_PKT. -/
def StreamBeat.ends (b : StreamBeat) : Bool := b.last || b.abortPkt
/-- Words that the beat counts for (R384). -/
def StreamBeat.counted (b : StreamBeat) : Nat := if b.last && !b.abortPkt && b.countValid then b.count else 4
/-- The first `n` words of the beat, word 0 first. -/
def StreamBeat.words (b : StreamBeat) (n : Nat) : List Word36 :=
  (List.range n).map fun j => BitVec.ofNat 36 (b.data.toNat / 2 ^ (36 * j))

end Sys2Proof

namespace Sys2Proof.Machine

/-! ### Refusal, rewind and commit -/

/-- The parison's word slots leave the tail. -/
def Port.dropParison (x : Port) : Port := { x.retract x.parison.length with parison := [] }

/-- The first refusal of a packet (R207, R208): the parison is rewound, and `words` more are counted. -/
def State.firstRefusal (s : State) (p words : Nat) : State :=
  let x := s.port p
  let y := { x.dropParison with ovfWords := satAdd 32 x.ovfWords (x.parison.length + words) }
  let z := if s.member.flagPolicy then { y with full := true, overrun := true }
           else { y with marker := true, gaps := satAdd 16 y.gaps 1 }
  (s.setPort p z).raise (portEvent p 2)

/-- A rewind (R201). -/
def State.rewind (s : State) (p : Nat) : State :=
  (s.modPort p fun x => { x.dropParison with badPkt := satAdd 16 x.badPkt 1 }).raise (portEvent p 3)

/-- The commit of the parison with its last beat (R200): the packet goes to the taker that has waited longest (R198). -/
def State.commit (s : State) (p : Nat) (b : StreamBeat) : State :=
  let x := s.port p
  let k : Packet := { words := x.parison ++ b.words b.count, slots := x.parison.length + 4,
                      pos := x.tailPos - x.parison.length, gap := x.marker }
  let y := { x with parison := [], marker := false, tailPos := x.tailPos + 4 }
  match x.takers with
  | (q, serial) :: rest => (s.setPort p { y with takers := rest }).givePacket q serial k
  | [] => s.setPort p { y with packets := x.packets ++ [k] }

/-! ### Inbound -/

/-- The port takes beats: enabled inbound with its clock running. -/
def State.inboundOn (s : State) (p : Nat) : Bool := (s.port p).enable && !(s.port p).dirOut && sclkUp s p

/-- Beats of the inbound queue up to and with the last one that ends a packet, and those after it. -/
def splitTail (l : List StreamBeat) : List StreamBeat × List StreamBeat :=
  let tail := (l.reverse.takeWhile fun b => !b.ends).reverse
  (l.take (l.length - tail.length), tail)

/-- A beat that finds the inbound queue full (R209): its packet is refused from its first beat on (assumption 39). -/
def State.refuseIn (s : State) (p : Nat) (b : StreamBeat) : State :=
  let x := s.port p
  if x.refusingIn then
    s.setPort p { x with ovfWords := satAdd 32 x.ovfWords b.counted, refusingIn := !b.ends }
  else
    let (kept, tail) := splitTail x.inq
    let words := (tail.map StreamBeat.counted).sum + b.counted
    let here := kept.isEmpty && (x.refusing || x.dropping)
    let y := { x with inq := kept, refusingIn := !b.ends, refusing := x.refusing && !kept.isEmpty,
                      dropping := x.dropping && !kept.isEmpty }
    if here then s.setPort p { y with ovfWords := satAdd 32 x.ovfWords words }
    else if kept.isEmpty then (s.setPort p y).firstRefusal p words
    else
      let z := s.setPort p { y with parison := [] }
      (z.firstRefusal p words).modPort p fun q => { q with parison := x.parison }

/-- INBOUND_BEAT_ACCEPT (R50, R209): a beat enters the inbound queue. -/
def execInboundBeatAccept (port : Nat) (beat : StreamBeat) (s : State) : Host.Outcome State Fault Refusal := settled s <|
  if !s.inboundOn port then .next s
  else if (s.port port).refusingIn || decide (Queue.depth .streamInbound ≤ (s.port port).inq.length) then
    .next (s.refuseIn port beat)
  else .next (s.modPort port fun x => { x with inq := x.inq ++ [beat] })

/-- A popped beat that is neither dropped nor refused: its four slots are written at the tail (R199). -/
def State.packBeat (s : State) (p : Nat) (b : StreamBeat) : State :=
  let x := s.port p
  let s1 := s.wrote p x.cellBase x.tailPos 4
  if b.abortPkt || (b.last && !b.countValid) then s.rewind p
  else if b.last then s1.commit p b
  else s1.setPort p { x with parison := x.parison ++ b.words 4, tailPos := x.tailPos + 4 }

/-- INBOUND_BEAT_POP (R199 to R201, R207, R211). -/
def execInboundBeatPop (port : Nat) (s : State) : Host.Outcome State Fault Refusal := settled s <|
  let x := s.port port
  match x.inq with
  | [] => .next s
  | b :: rest =>
    if !(cclkUp s && s.rst.crucible) then .next s
    else
      let s1 := s.setPort port { x with inq := rest }
      if x.cut then .next (s1.modPort port fun y => { y with cut := !b.ends })
      else if x.dropping then
        .next (s1.modPort port fun y =>
          { y with flushDropped := satAdd 32 y.flushDropped b.counted, dropping := !b.ends })
      else if x.refusing then
        .next (s1.modPort port fun y => { y with ovfWords := satAdd 32 y.ovfWords b.counted, refusing := !b.ends })
      else if s.hasRoom port then .next (s1.packBeat port b)
      else
        .next ((s1.firstRefusal port b.counted).modPort port fun y => { y with refusing := !b.ends })

/-- A packet that was being taken when the flush became visible has words still to be read (R211). -/
def State.beingRead (s : State) (p : Nat) : Bool := (s.port p).flushFor.any fun e => (s.takingPort p).contains e

/-- What an inbound flush discards and how it leaves the port (assumption 40). -/
def Port.flushIn (x : Port) : Port :=
  let words := (x.packets.map fun k => k.words.length).sum + x.parison.length
  let slots := (x.packets.map Packet.slots).sum + x.parison.length
  { x.retract slots with
    packets := [], parison := [], marker := false, flushWait := false, flushFor := []
    dropping := x.dropping || x.refusing || !x.parison.isEmpty
    refusing := false
    flushDropped := satAdd 32 x.flushDropped words }

/-- INBOUND_FLUSH_EDGE (R211). -/
def execInboundFlushEdge (port : Nat) (s : State) : Host.Outcome State Fault Refusal := settled s <|
  if (s.port port).flushWait && !(s.port port).dirOut && !s.beingRead port then .next (s.modPort port Port.flushIn)
  else .next s

/-! ### Outbound -/

/-- The FIFO stands at a packet boundary: no packet whose first beat has entered the outbound queue is still to be ended
(R212). -/
def State.atBoundary (s : State) (p : Nat) : Bool :=
  match (s.port p).takers with
  | [] => true
  | (q, n) :: _ =>
    match s.work? q n with
    | some w => decide (w.outWords % w.packetWords = 0)
    | none => true

/-- The words of outbound FIFO `p` are discarded: what is left is the landing that reads have reserved (R212; assumption
40). -/
def State.discardOut (s : State) (p : Nat) : State :=
  s.chans.foldl (fun t e => e.2.started.foldl (fun u w =>
    if w.desc.viaFifo && w.desc.dstAddr == p then
      (u.modPort p fun x => { x with reserved := x.reserved - w.fifoWords }).modWork e.1 w.serial fun y =>
        { y with landed := [] }
    else u) t) s

/-- OUTBOUND_FLUSH_EDGE (R212, R210, R384): no word of an outbound FIFO is padding. -/
def execOutboundFlushEdge (port : Nat) (s : State) : Host.Outcome State Fault Refusal := settled s <|
  if (s.port port).flushWait && (s.port port).dirOut && s.atBoundary port then
    let n := s.fifoWords port
    .next ((s.discardOut port).modPort port fun x =>
      { x with flushWait := false, flushFor := [], flushDropped := satAdd 32 x.flushDropped n,
               gapNext := x.gapNext || decide (0 < n) })
  else .next s

/-- The channel whose started work has this serial number. -/
def State.workOf (s : State) (serial : Nat) : Option (Nat × Work) :=
  s.chans.findSome? fun e => (e.2.started.find? fun w => w.serial == serial).map fun w => (e.1, w)

/-- A beat of a packet is accepted by the consumer. -/
def State.beatDelivered (s : State) (p : Nat) (b : OutBeat) : State :=
  let s1 := s.modPort p fun x =>
    { x with outq := x.outq.drop 1
             released := if b.last then x.released.filter fun r => r != (b.serial, b.pkt) else x.released }
  match s.workOf b.serial with
  | none => s1
  | some (q, w) =>
    if b.abort then s1
    else
      let n := w.wordAt w.prefixBits
      s1.deliverBits q b.serial (w.wordBitsBefore n) (w.wordBitsAfter (n + b.words.length - 1))

/-- OUTBOUND_BEAT_ACCEPT (R50, R136, R214): the presented beat is accepted, and the next beats are read into the queue;
`found` are the faulty words of that read. -/
def execOutboundBeatAccept (port : Nat) (found : List CruFault) (s : State) : Host.Outcome State Fault Refusal :=
  settled s <|
  if !((s.port port).enable && (s.port port).dirOut && sclkUp s port) then .next s
  else
    match (s.port port).presented with
    | none => .next s
    | some b =>
      let s1 := (s.beatDelivered port b).pumpRead port found
      .next (match s.workOf b.serial with | some (q, _) => s1.touchWatch q | none => s1)

/-- The first packet of the queue whose TLAST beat is held. -/
def Port.heldPacket (x : Port) : Option (Nat × Nat) :=
  (x.outq.find? fun b => b.last && !b.abort && !x.released.contains (b.serial, b.pkt)).map fun b => (b.serial, b.pkt)

/-- The final segment check of packet `k` has passed: the check edges of every segment that ends within it. A segment that
goes on into the next packet does not hold it (assumption 109). -/
def Work.packetChecked (m : Member) (w : Work) (k : Nat) : Bool :=
  let e := w.wordBitsAfter ((k + 1) * w.packetWords - 1)
  !m.safetyFull || decide (w.segments m ≤ w.segOk) || (decide (e < w.dataBits) && decide (e / 131072 ≤ w.segOk))

/-- PACKET_RELEASE (R272). -/
def execPacketRelease (port : Nat) (s : State) : Host.Outcome State Fault Refusal := settled s <|
  match (s.port port).heldPacket with
  | none => .next s
  | some (serial, k) =>
    match s.workOf serial with
    | none => .next s
    | some (q, w) =>
      if !(w.live && w.packetChecked s.member k) then .next s
      else if s.isStale q w then .next (s.staleEdge q w)
      else .next (s.modPort port fun x => { x with released := x.released ++ [(serial, k)] })

/-! ### Scrubbing (R214 to R216) -/

/-- Holder `h`, which counts its cells from number `n`, has one of these in cell `c`. -/
def State.inCells (s : State) (h : Nat) (l : List Nat) (c : Nat) : Bool :=
  l.any fun i => (s.cruAddr h i 0).toNat / 64 == c

/-- A holder's words stand in cell `c` (R214): a stream FIFO's, or landed ones (assumption 11). -/
def State.cellHeld (s : State) (c : Nat) : Bool :=
  s.ports.any (fun e => s.inCells e.1 (e.2.cellList.map fun i => e.2.cellBase + i) c)
    || s.chans.any fun e => e.2.started.any fun w => w.landed.any fun g =>
        s.inCells ((segLanding w g).holder (benchOf e.1)) ((List.range ((g.last - g.first + 63) / 64)).map fun i =>
          g.cell + i) c

/-- One faulty word that the scrubber finds: a single-bit error is to be rewritten corrected, an uncorrectable word of a
free cell as zero (R214, R215). -/
def State.scrubbed (s : State) (f : CruFault) : State :=
  let s1 := s.countFault f
  let queue := fun (t : State) =>
    ({ t with cru := { t.cru with rewrites := t.cru.rewrites ++ [{ addr := f.addr, zero := f.uncorrectable }] } } :
      State)
  if f.uncorrectable then (if s.cellHeld f.cell then s1 else queue s1).setCause 3
  else if f.corrected then queue s1
  else s1

/-- SCRUB_CELL (R215): the next cell; `found` are its faulty words, `ctx` the faulty words of the link memory and others
that tell whether the cell is held (R282). -/
def execScrubCell (ctx : List CtxFault) (found : List CruFault) (s : State) : Host.Outcome State Fault Refusal :=
  settled s <|
  if s.cru.scrub = 0 ∨ !(cclkUp s && s.rst.crucible) then .next s
  else
    let c := s.cru.scrubCell
    let s1 := (found.filter fun f => f.cell == c).foldl State.scrubbed (s.ctxFaults ctx)
    .next { s1 with cru := { s1.cru with scrubCell := (c + 1) % s.member.cells } }

/-- The bank of a rewrite (R189). -/
def Rewrite.bank (r : Rewrite) : Nat := r.addr.toNat / 64 % 16

/-- SCRUB_REWRITE (R215, R216): the oldest rewrite of a bank, cancelled when the word has been written since the scrubber
read it, or is written at this edge (`written`); a rewrite that is made is a completed recovery (R293). The words of the
model carry no error, so neither outcome changes a word that is read. -/
def execScrubRewrite (bank : Nat) (written : Bool) (s : State) : Host.Outcome State Fault Refusal :=
  match takeFirst (fun (r : Rewrite) => r.bank == bank) s.cru.rewrites with
  | none => .next s
  | some (r, rest) =>
    let s1 : State := { s with cru := { s.cru with rewrites := rest } }
    .next (if r.written || written then s1 else s1.raise 1419)

end Sys2Proof.Machine
end

