-- ==== Sys2Proof/Machine/Cullet.lean ====
section
/-! DEFINITION. The Cullet's own acts: grants and losses (R225 to R229), commit (R229), resolves and hand-overs (R231,
R232, R126), freeing (R233, R236, R237), stack traffic (R220) and the sweep (R239). -/

namespace Sys2Proof.Machine

/-! ### Register operations -/

/-- GOB_OP_DONE (R233): the head record's write is answered. -/
def execGobOpDone (fn : Nat) (s : State) : Host.Outcome State Fault Refusal := settled s <|
  if (s.fn fn).gobBusy && !s.recBusy (s.fn fn).gobTarget then
    .next (s.modFn fn fun x => { x with gobBusy := false, gobDone := true })
  else .next s

/-- FORCE_FREE_APPLY (R237): a marked chain that no function has pinned. -/
def execForceFreeApply (gob : Nat) (s : State) : Host.Outcome State Fault Refusal := settled s <|
  if s.cul.forced.contains gob && !s.pinned gob then
    let s1 : State := { s with cul := { s.cul with forced := s.cul.forced.filter fun g => g != gob } }
    .next ((s1.freeChain gob).raise 1462)
  else .next s

/-! ### Grants (R227 to R229) -/

/-- The work of channel `p` that requests a gob. -/
def State.requester (s : State) (p : Nat) : Option Work :=
  (s.chan p).started.find? fun w => w.live && w.chain == .requesting

/-- Channels that request a gob, from the pointer in rotation. -/
def State.requesters (s : State) : List Nat :=
  ((List.range 128).map fun i => (s.cul.pointer + i) % 128).filter fun p => (s.requester p).isSome

/-- A gob can be handed out now: the on-block part holds one, or the stack is empty and the gob is fresh (R218, R221). -/
def State.gobReady (s : State) : Bool := s.cul.stack.isEmpty || decide (0 < s.cul.onBlock)

/-- The records of a granted gob (R229; assumption 41). -/
def State.recordGrant (s : State) (p : Nat) (w : Work) (g : Nat) : State :=
  let f := s.chFn p
  let gen := (s.gobRec g).gen
  match w.gobs.getLast? with
  | none =>
    s.writeRec g { state := .building, gen := gen, freerFn := f,
                   freerSlot := ((s.chan p).owner.map Prod.snd).getD 0, allocFn := f,
                   holdMask := BitVec.ofNat 16 (2 ^ f) }
  | some prev =>
    (s.writeRec g { state := .member, gen := gen, head := w.headGob, headGen := (s.gobRec w.headGob).gen }).writeRec
      prev.gob { s.gobRec prev.gob with next := g, fill := 4095 }

/-- Grants a gob to the request of channel `p`. -/
def State.grantGob (s : State) (p : Nat) (w : Work) : State :=
  let (g, s1) := s.takeGob (s.chFn p)
  let bytes := min 4096 (w.dstRowBytes - 4096 * w.gobs.length)
  ((s1.recordGrant p w g).modWork p w.serial fun x =>
    { x with chain := .building, gobs := x.gobs ++ [{ gob := g, bytes := bytes }],
             headGob := if x.gobs.isEmpty then g else x.headGob }).modChan p fun c => { c with gobWait := none }

/-- The request of channel `p` ends with GOB_EXHAUSTED (R228, R124). -/
def State.exhaust (s : State) (p : Nat) : State :=
  match s.requester p with
  | none => s
  | some w =>
    (({ s.failWork p w.serial .gobExhausted with
        cul := { (s.failWork p w.serial .gobExhausted).cul with
          exhausted := satAdd 32 (s.failWork p w.serial .gobExhausted).cul.exhausted 1 } } : State).raise 1461)

/-- A request that was not granted, when no gob remains that its function may take: it loses or begins its wait. -/
def State.loseGob (s : State) (p : Nat) : State :=
  let f := s.chFn p
  if s.mayTakeGob f || (s.chan p).gobWait.isSome then s
  else if (s.fn f).gobWait = 0 then s.exhaust p
  else s.modChan p fun c => { c with gobWait := some (s.now.cclk + 1024 * (s.fn f).gobWait) }

/-- GOB_GRANT: one edge of the rotating grant. -/
def execGobGrant (s : State) : Host.Outcome State Fault Refusal := settled s <|
  if !(s.member.hasCullet && cclkUp s) then .next s
  else
    let reqs := s.requesters
    match (reqs.find? fun p => s.mayTakeGob (s.chFn p) && s.gobReady) with
    | none => .next (reqs.foldl State.loseGob s)
    | some p =>
      match s.requester p with
      | none => .next s
      | some w =>
        let s1 := s.grantGob p w
        let s2 : State := { s1 with cul := { s1.cul with pointer := (p + 1) % 128 } }
        .next ((reqs.filter fun q => q != p).foldl State.loseGob s2)

/-- GOB_WAIT_EXPIRY (R228). -/
def execGobWaitExpiry (pch : Nat) (s : State) : Host.Outcome State Fault Refusal := settled s <|
  match (s.chan pch).gobWait with
  | none => .next s
  | some t => .next ((((s.reachCclk t).modChan pch fun c => { c with gobWait := none })).exhaust pch)

/-- CHAIN_COMMIT (R229): every data write and every other record write of the chain is answered. -/
def execChainCommit (pch : Nat) (s : State) : Host.Outcome State Fault Refusal := settled s <|
  match (s.chan pch).started.find? fun w => w.live && w.chain == .building with
  | none => .next s
  | some w =>
    if w.writesDone && w.prefixBits == w.dataBits && !(w.gobs.any fun g => s.recBusy g.gob) then
      .next ((s.writeRec w.headGob { s.gobRec w.headGob with state := .head }).modWork pch w.serial fun x =>
        { x with chain := .committing })
    else .next s

/-! ### Resolves and hand-overs (R231, R232, R126, R127) -/

/-- A hand-over by the named freer (Table 8-4; assumption 44). -/
def State.handOver (s : State) (p : Nat) (w : Work) (head : Nat) : State :=
  let f := s.chFn p
  let slot := ((s.chan p).owner.map Prod.snd).getD 0
  let r := s.gobRec head
  if r.freerFn ≠ f ∨ r.freerSlot ≠ slot ∨ s.pinnedFor f head then s.failWork p w.serial .indexRange
  else
    (s.writeRec head { r with
      freerFn := w.desc.toFunction
      freerSlot := w.desc.toSlot
      holdMask := (r.holdMask &&& ~~~ BitVec.ofNat 16 (2 ^ f)) ||| BitVec.ofNat 16 (2 ^ w.desc.toFunction) }).modWork p
        w.serial fun x => { x with acted := true, chain := .none }

/-- The resolve of work `w` fails with INDEX_RANGE: its pin ends. -/
def State.resolveFailed (s : State) (p : Nat) (w : Work) : State :=
  (s.modWork p w.serial fun x => { x with pinned := false }).failWork p w.serial .indexRange

/-- The checks of R231 on the head record as read, in their order: not stale, valid, held. A read that failed brings an
invalid record (Table 11-4). Every invalid record that is read quarantines its gob (R224). -/
def State.resolved (s : State) (p : Nat) (w : Work) (x : Option (BitVec 128)) : State :=
  let h := w.desc.srcAddr
  let head := handleGob h
  let s1 := if (x.bind (parseRec head)).isNone then s.quarantine head else s
  let notHead := match x with
    | some y => rawState y != 2 || rawGen y != handleGen h
    | none => true
  if notHead || (x.bind (parseRec head)).isNone || s.stale h || !(s.gobRec head).holdMask.getLsbD (s.chFn p) then
    s1.resolveFailed p w
  else if w.desc.op = some .punty then s1.handOver p w head
  else
    s1.modWork p w.serial fun y =>
      ({ y with chain := .resolved, headGob := head, headGen := handleGen h, pinned := true, gobs := [] } :
        Work).addGob s.cul.fresh head (s.gobRec head)

/-- A handle that names no record fails at once; else the head record has been read. -/
def State.resolveHead (s : State) (pch : Nat) : State :=
  match (s.chan pch).started.find? fun w => w.live && w.chain == .unresolved with
  | none => s
  | some w =>
    if s.staleIndex w.desc.srcAddr then s.resolveFailed pch w
    else
      match w.headRec with
      | none => s
      | some x => s.resolved pch w x

/-- HANDLE_RESOLVE (R231). `ctx` are the faulty context words that the Cullet reads, its caches among them (R282). -/
def execHandleResolve (pch : Nat) (ctx : List CtxFault) (s : State) : Host.Outcome State Fault Refusal :=
  settled s <|
  if (s.chan pch).started.any fun w => w.live && w.chain == .unresolved then
    .next ((s.ctxFaults ctx).resolveHead pch)
  else .next s

/-! ### Freeing (R236) -/

/-- A gob of a freed chain goes back: pushed and uncharged, unless it is quarantined, or the sweep has not met and
charged it yet (R239). -/
def State.returnGob (s : State) (g allocFn : Nat) : State :=
  if s.cul.quarantined.contains g || s.sweepAhead g then s
  else (s.pushGob g).modFn allocFn fun x => { x with charge := x.charge - 1 }

/-- The FREE write of the gob that the walk of a freed chain has reached is answered: it is pushed, and the walk goes on;
the head comes last. A write that failed has quarantined its gob and ends the walk (Table 11-4; assumption 45). -/
def State.memberFreed (s : State) (gob : Nat) : State :=
  if s.recBusy gob then s
  else
    match s.cul.freeing.find? fun e => if e.cur.isSome then e.freed && e.cur == some gob else e.head == gob with
    | none => s
    | some e =>
      if e.cur.isNone then (s.setFreeing e.head fun _ => none).returnGob gob e.allocFn
      else if s.cul.quarantined.contains gob then
        s.setFreeing e.head fun y => some { y with cur := none, freed := false }
      else
        (s.returnGob gob e.allocFn).setFreeing e.head fun y => some { y with cur := y.next, freed := false, next := none }

/-- GOB_MEMBER_FREED (R236); `ctx` as at HANDLE_RESOLVE. -/
def execGobMemberFreed (gob : Nat) (ctx : List CtxFault) (s : State) : Host.Outcome State Fault Refusal :=
  settled s <|
  if s.cul.freeing.any fun e => e.cur == some gob || e.head == gob then .next ((s.ctxFaults ctx).memberFreed gob)
  else .next s

/-! ### Stack traffic (R220) -/

/-- FREE_STACK_SPILL: handles from the bottom of the on-block part, one burst (assumption 46). -/
def execFreeStackSpill (s : State) : Host.Outcome State Fault Refusal := settled s <|
  if s.cul.onBlock < 256 then .next s else .next s.spill

/-- FREE_STACK_FILL: one burst of handles back, when no stack burst is outstanding; it ends at a 1 KiB boundary of the
stack area. -/
def execFreeStackFill (s : State) : Host.Outcome State Fault Refusal := settled s <|
  if s.cul.inMemory = 0 ∨ 16384 < s.cul.onBlock + 256
      ∨ s.txns.any (fun t => t.purpose == .spill || t.purpose == .fill) then .next s
  else
    let n := (s.cul.inMemory - 1) % 256 + 1
    let addr := s.cul.stackBase + 4 * (s.cul.inMemory - n)
    .next (s.post (deviceRead s .fill (s.portOf addr) addr (4 * n) 2 false))

/-! ### The sweep (R239) -/

/-- Takes a record over as it was read. -/
def State.keepRec (s : State) (g : Nat) (r : GobRec) : State :=
  { s with cul := { s.cul with records := put s.cul.records g r } }

/-- An unfinished or orphaned gob goes back to the pool. -/
def State.reclaim (s : State) (g : Nat) (r : GobRec) : State :=
  ((s.keepRec g r).writeRec g { gen := nextGen r.gen }).pushGob g

/-- Head records that the sweep's cache holds (R239). -/
def headCacheSize : Nat := 4096

/-- One record of the sweep: `x` as parsed, and for a member the record at its HEAD index, as parsed. A gob that was
quarantined since the sweep began is counted already. -/
def State.sweepParsed (s : State) (g : Nat) (x : Option GobRec) (headOf : Option GobRec) : State :=
  match x with
  | none => s.quarantine g
  | some r =>
    match r.state with
    | .free =>
      if r.quar then
        let t := s.keepRec g r
        if s.cul.quarantined.contains g then t
        else { t with cul := { t.cul with quar := s.cul.quar + 1, quarantined := s.cul.quarantined ++ [g] } }
      else (s.keepRec g r).pushGob g
    | .head =>
      let t := (s.keepRec g r).modFn r.allocFn fun f => { f with charge := f.charge + 1 }
      { t with cul := { t.cul with headCache := ((g, r) :: t.cul.headCache).take headCacheSize } }
    | .building => s.reclaim g r
    | .member =>
      match headOf with
      | some h =>
        if h.state = .head ∧ h.gen = r.headGen then
          (s.keepRec g r).modFn h.allocFn fun f => { f with charge := f.charge + 1 }
        else s.reclaim g r
      | none => s.reclaim g r

/-- The record of gob `g` that the sweep's reads have brought: the Cullet's own where it has written it since; the outer
`none` while no read that covers it has returned. -/
def State.sweepRec (s : State) (g : Nat) : Option (Option GobRec) :=
  if s.cul.since.contains g then some (some (s.gobRec g))
  else (s.cul.sweepData.find? fun e => decide (e.1 ≤ g) && decide (g < e.1 + 64)).map fun e =>
    (recordIn e.1 e.2 g).bind (parseRec g)

/-- The head record for the MEMBER test: the Cullet's own, the cached one, or one read aside; a head without a record is
no head; the outer `none` while it is to be read. -/
def State.sweepHeadRec (s : State) (h : Nat) : Option (Option GobRec) :=
  if s.cul.sweepEnd ≤ h then some none
  else if s.cul.since.contains h then some (some (s.gobRec h))
  else
    match (s.cul.headCache.find? fun e => e.1 == h), s.cul.sweepHead with
    | some e, _ => some (some e.2)
    | none, some (k, x) => if k = h then some (x.bind (parseRec h)) else none
    | none, none => none

/-- A head that is not in the cache is read with a 128-byte read. -/
def State.askHead (s : State) (h : Nat) : State :=
  if s.reading (.sweepHead h) || s.recBusy h then s
  else
    let addr := s.cul.metaBase + 16 * h
    s.post { deviceRead s (.sweepHead h) (s.portOf addr) (addr / 128 * 128) 128 0 false with rlo := addr, rlen := 16 }

/-- The sweep passes record `g`; it ends with the last one (assumption 67). -/
def State.sweepOn (s : State) (g : Nat) (x headOf : Option GobRec) : State :=
  let s1 := (({ s with cul := { s.cul with
      sweepPos := g + 1, sweepHead := none
      sweepData := s.cul.sweepData.filter fun e => decide (g + 1 < e.1 + 64) } } : State).sweepParsed g x headOf)
  if s.cul.sweepEnd ≤ g + 1 then s1.endSweep else s1

/-- The next record, once the read that covers it and, for a member, its head's record have returned. -/
def State.sweepNextRec (s : State) : State :=
  let g := s.cul.sweepPos
  match s.sweepRec g with
  | none => s
  | some x =>
    match (x.filter fun r => r.state == .member).map fun r => (r.head, s.sweepHeadRec r.head) with
    | none => s.sweepOn g x none
    | some (_, some y) => s.sweepOn g x y
    | some (h, none) => s.askHead h

/-- SWEEP_RECORD (R239); `record` and `head` are the faulty context words that the Cullet reads for the record and, in its
cache of head records, for the head (R282). -/
def execSweepRecord (record head : List CtxFault) (s : State) : Host.Outcome State Fault Refusal := settled s <|
  if s.cul.sweep then .next ((s.ctxFaults record).ctxFaults head).sweepNextRec else .next s

end Sys2Proof.Machine
end

