-- ==== Sys2Proof/Machine/Flash.lean ====
section
/-! DEFINITION. The boot flash: the image and the activation record of a slot (Tables 13-11 and 13-12, R356), the flash
commands of a staging (R63, R357), and how reads are made (R336). -/

namespace Sys2Proof.Machine

/-- The first `n` bytes that flash programmed with `l` reads as: erased flash reads 0xFF. -/
def imageBytes (l : List Byte) (n : Nat) : List Byte := (l ++ List.replicate (n - l.length) 0xFF).take n

def imageField (l : List Byte) (i n : Nat) : Nat := ofLeBytes ((l.drop i).take n)

/-- MAGIC, FORMAT, the range of LENGTH and the zero bytes of the header (Table 13-11). -/
def formatOk (h : List Byte) : Bool :=
  let len := imageField h 0x0C 4
  imageField h 0 4 == 0x46474E56 && imageField h 4 2 == 1 && decide (1024 ≤ len) && decide (len ≤ 131072)
    && decide (len % 256 = 0) && imageField h 0x14 12 == 0 && imageField h 0x50 48 == 0 && imageField h 0xE0 32 == 0

/-- The checks of an image, as RESULT of an END codes the first that fails (R357); 0 when the image verifies. -/
def imageResult (l : List Byte) : Nat :=
  let h := imageBytes l 256
  let img := imageBytes l (imageField h 0x0C 4)
  if !formatOk h then 1
  else if !Config.digestMatches img then 2
  else if !Config.signatureVerifies img then 3
  else if imageField h 7 1 ≠ 2 then 4
  else 0

end Sys2Proof.Machine

namespace Sys2Proof

open Machine

/-- The image meets every check of "An image verifies". -/
def FlashSlot.verifies (x : FlashSlot) : Bool := imageResult x.image == 0

def FlashSlot.version (x : FlashSlot) : W32 := BitVec.ofNat 32 (imageField (imageBytes x.image 256) 8 4)
def FlashSlot.length (x : FlashSlot) : Nat := imageField (imageBytes x.image 256) 0x0C 4
def FlashSlot.digestLo (x : FlashSlot) : W32 := BitVec.ofNat 32 (imageField (imageBytes x.image 256) 0x20 4)

/-- ACT_SEQ and DIGEST_LO of the activation record, when its MAGIC and CHECK match (Table 13-12). -/
def FlashSlot.record (x : FlashSlot) : Option (Nat × W32) :=
  let r := imageBytes x.recordBytes 16
  if imageField r 0 4 = 0x41435456 ∧ imageField r 12 4 = (crc32 (r.take 12)).toNat then
    some (imageField r 4 4, BitVec.ofNat 32 (imageField r 8 4))
  else none

/-- The ACT_SEQ of an eligible slot (R356). -/
def FlashSlot.seq? (x : FlashSlot) : Option Nat :=
  match x.record with
  | some (n, d) => if d = x.digestLo then some n else none
  | none => none

end Sys2Proof

namespace Sys2Proof.Machine

/-- An activation record (Table 13-12). -/
def actRecord (seq : Nat) (digestLo : W32) : List Byte :=
  let body := leBytes 4 0x41435456 ++ leBytes 4 seq ++ leBytes 4 digestLo.toNat
  body ++ leBytes 4 (crc32 body).toNat

/-! ### Flash commands of a staging -/

/-- Flash address of a slot's byte 0. -/
def slotBase (slot : Nat) : Nat := slot * 0x40000

/-- The erases of BEGIN: sectors 0 to 31 and the sector of the activation record (R357). -/
def beginErases (slot : Nat) : List FlashOp :=
  (List.range 32).map (fun i => FlashOp.erase (slotBase slot + 4096 * i)) ++ [.erase (slotBase slot + 0x3F000)]

/-- The Page Programs of `bytes` at flash address `addr`, split at 256-byte pages; `fuel` bounds the pages. -/
def pagePrograms : Nat → Nat → List Byte → List FlashOp
  | 0, _, _ => []
  | fuel + 1, addr, bytes =>
    if bytes.isEmpty then []
    else
      let n := 256 - addr % 256
      .program addr (bytes.take n) :: pagePrograms fuel (addr + n) (bytes.drop n)

/-- `bytes` programmed at offset `off` of the programmed bytes `l`; a gap stays erased. -/
def programAt (l : List Byte) (off : Nat) (bytes : List Byte) : List Byte :=
  imageBytes l off ++ bytes ++ l.drop (off + bytes.length)

/-- What a flash command makes of the contents of slot `slot`. Erasing a sector leaves none of the programmed bytes in it;
BEGIN erases them all. -/
def FlashOp.apply (slot : Nat) (x : FlashSlot) : FlashOp → FlashSlot
  | .erase a =>
    if a = slotBase slot + 0x3F000 then { x with recordBytes := [] }
    else
      let o := a - slotBase slot
      { x with image := if x.image.length ≤ o + 4096 then x.image.take o
                        else programAt x.image o (List.replicate 4096 0xFF) }
  | .program a bytes =>
    if slotBase slot + 0x3F000 ≤ a then { x with recordBytes := programAt x.recordBytes (a - slotBase slot - 0x3F000) bytes }
    else { x with image := programAt x.image (a - slotBase slot) bytes }

/-! ### Reading (R63, R336) -/

/-- The division of gclk before SFDP is read: FL_SCK = gclk / (2 × (FL_DIV + 1)) (Table 12-5). -/
def bootDiv (flDiv : Nat) : Nat := 2 * (flDiv + 1)

/-- The least even division of a gclk of `khz` kHz that keeps FL_SCK at or below 100 MHz. -/
def fastestDiv (khz : Nat) : Nat := max 2 (2 * ((khz + 199999) / 200000))

/-- The Gaffer has found SFDP (R336): the clock rises to its fastest, Quad I/O is used where QUAD_ALLOW and SFDP allow
it. -/
def Gaffer.foundSfdp (g : Gaffer) (allow : Bool) (x : Sfdp) : Gaffer :=
  { g with sckDiv := some (fastestDiv x.gclkKhz), quad := allow && x.quad, addr4 := x.addr4 }

/-- The division of gclk in force. -/
def State.flashDiv (s : State) : Nat := s.gaf.sckDiv.getD (bootDiv s.opt.flDiv)

/-- FL_SCK, FL_CS_N and the driven lines of FL_IO between flash commands: all low in reset (Table 12-4); SPI mode 0 rests
with FL_SCK low, the device deselected and FL_IO not driven. -/
def State.flashPins (s : State) : Bool × Bool × Option (BitVec 4) :=
  if gclkUp s then (false, true, none) else (false, false, some 0)

end Sys2Proof.Machine
end

