-- ==== Sys2Proof/Machine/Xezan.lean ====
section
/-! DEFINITION. Xezan remote transfers: frames (R245, R246), requests (R247 to R252, R259 to R265), and the responder
(R253 to R258). -/

namespace Sys2Proof.Machine

/-! ### Frames (R245, R246) -/

def kindWriteReq : BitVec 8 := 0x01
def kindReadReq : BitVec 8 := 0x02
def kindWriteResp : BitVec 8 := 0x81
def kindReadResp : BitVec 8 := 0x82

/-- Header bytes 0 to 59 (Table 9-1). -/
def FrameHdr.bytes (h : FrameHdr) : List Byte :=
  leBytes 1 0x01 ++ leBytes 1 h.kind.toNat ++ leBytes 2 h.payloadLen ++ leBytes 4 h.srcId ++ leBytes 4 h.dstId
    ++ leBytes 4 h.seq.toNat ++ leBytes 1 h.chan ++ leBytes 1 (h.window + 16 * h.fn)
    ++ leBytes 1 (h.svc + 4 * b2n h.sync + 8 * b2n h.last) ++ leBytes 1 h.status.toNat ++ leBytes 4 h.token.toNat
    ++ leBytes 8 h.offset ++ leBytes 4 h.readLen ++ leBytes 24 0

/-- A frame: the header with its CRC, the payload, and zero bytes to the end of its last beat. -/
def frameBytes (h : FrameHdr) (payload : List Byte) : List Byte :=
  h.bytes ++ leBytes 4 (crc32 (h.bytes ++ payload)).toNat ++ payload
    ++ leBytes ((64 - payload.length % 64) % 64) 0

/-- A little-endian field of a frame. -/
def frameField (l : List Byte) (i n : Nat) : Nat := ofLeBytes ((l.drop i).take n)

def frameHdr (l : List Byte) : FrameHdr :=
  { kind := BitVec.ofNat 8 (frameField l 1 1), payloadLen := frameField l 2 2, srcId := frameField l 4 4,
    dstId := frameField l 8 4, seq := BitVec.ofNat 32 (frameField l 12 4), chan := frameField l 16 1,
    window := frameField l 17 1 % 16, fn := frameField l 17 1 / 16, svc := frameField l 18 1 % 4,
    sync := decide (frameField l 18 1 / 4 % 2 = 1), last := decide (frameField l 18 1 / 8 % 2 = 1),
    status := BitVec.ofNat 8 (frameField l 19 1), token := BitVec.ofNat 32 (frameField l 20 4),
    offset := frameField l 24 8, readLen := frameField l 32 4 }

def FrameHdr.isRequest (h : FrameHdr) : Bool := h.kind == kindWriteReq || h.kind == kindReadReq
def FrameHdr.isResponse (h : FrameHdr) : Bool := h.kind == kindWriteResp || h.kind == kindReadResp

/-- The zero fields of Table 9-1 are zero, and the fields lie in their ranges. READ_LEN is zero but in a READ_REQ and in
the READ_RESP that copies it (R245). -/
def FrameHdr.zeroesOk (h : FrameHdr) (l : List Byte) : Bool :=
  decide (h.srcId < 2 ^ 18) && decide (h.dstId < 2 ^ 18) && decide (h.chan < 128) && decide (frameField l 18 1 < 16)
    && decide (h.offset < 2 ^ 52) && (frameField l 36 24 == 0)
    && (if h.kind == kindReadReq || h.kind == kindReadResp then decide (1 ≤ h.readLen ∧ h.readLen ≤ 1024)
        else h.readLen == 0)
    && (if h.isRequest then h.status == 0 else h.token == 0 && decide (h.status.toNat ≤ 7))

/-- What becomes of a received frame under R246. -/
inductive Received where
  /-- discarded, counted as LINK -/
  | link
  /-- discarded, counted as FORMAT -/
  | format
  | good
  deriving DecidableEq, Repr

/-- The checks of R246: the link error and the CRC first, then the format (assumption 49). -/
def State.receive (s : State) (l : List Byte) (linkError : Bool) : Received :=
  let h := frameHdr l
  if s.opt.bad then .format
  else if linkError then .link
  else if (leBytes 4 (crc32 (l.take 60 ++ (l.drop 64).take h.payloadLen)).toNat) ≠ (l.drop 60).take 4 then .link
  else if frameField l 0 1 = 1 ∧ (h.isRequest || h.isResponse) ∧ h.payloadLen ≤ 1024
      ∧ l.length = 64 * (1 + (h.payloadLen + 63) / 64) ∧ h.zeroesOk l ∧ h.dstId = s.opt.instanceId then .good
  else .format

/-- A frame is discarded: while OPT_BAD is 1 it is only counted (R327). -/
def State.discardFrame (s : State) (why : Received) : State :=
  if s.opt.bad then { s with xez := { s.xez with format := satAdd 16 s.xez.format 1 } }
  else if why = .link then ({ s with xez := { s.xez with link := satAdd 16 s.xez.link 1 } } : State).raise 1464
  else ({ s with xez := { s.xez with format := satAdd 16 s.xez.format 1 } } : State).raise 1464

/-- The peer entry bound to an instance. -/
def State.peerOf (s : State) (inst : Nat) : Option Nat :=
  (s.xez.peers.find? fun e => e.2.bound && e.2.inst == inst).map Prod.fst

/-- A frame from an instance that no entry names is discarded. -/
def State.unknownPeer (s : State) : State :=
  ({ s with xez := { s.xez with unknownPeer := satAdd 16 s.xez.unknownPeer 1 } } : State).raise 1465

/-- The Xezan block's cclk side works: its buffers are crucible cells (Table 7-1, R335). -/
def State.xezanUp (s : State) : Bool := s.member.hasXezan && cclkUp s && s.rst.crucible

/-- The Xezan ports take and send frames: the member has them and their clock runs. -/
def State.xezanOn (s : State) (port : Nat) : Bool :=
  decide (port < s.member.xezanPorts) && xclkUp s && cclkUp s && s.rst.crucible

/-! ### Transmit queues (Table 2-3) -/

/-- Beats of a request frame. -/
def XReq.beats (q : XReq) : Nat := 1 + (q.payload.length + 63) / 64

/-- Beats that wait in the transmit queue of a port. -/
def State.txBeats (s : State) (port : Nat) : Nat :=
  ((s.xez.reqs.filter fun q => q.port == port && q.phase == .queued).map XReq.beats).sum
    + ((s.xez.respq.filter fun r => r.1 == port).map fun r => r.2.length / 64).sum

/-- The transmit queue of 64 beats takes a frame of `n` beats (R35, R37). -/
def State.txRoom (s : State) (port n : Nat) : Bool := decide (s.txBeats port + n ≤ Queue.depth .xezan)

/-! ### Forming requests (R247 to R252) -/

/-- The key of a channel's sequence state toward a peer entry. -/
def seqKey (peer chan : Nat) : Nat := 128 * peer + chan

def State.sendState (s : State) (peer pch : Nat) : SendState := look {} s.xez.send (seqKey peer pch)

/-- Takes the next sequence number of a channel toward a peer. -/
def State.takeSeq (s : State) (peer pch : Nat) : State :=
  let x := s.sendState peer pch
  { s with xez := { s.xez with send := put s.xez.send (seqKey peer pch) { x with counter := x.counter + 1 } } }

/-- Outstanding requests of a channel. -/
def State.reqsOf (s : State) (pch : Nat) : List XReq := s.xez.reqs.filter fun q => q.pch == pch && !q.abandoned

/-- The bytes that delivery bits spell. -/
def bytesOfBits : Nat → List Bool → List Byte
  | 0, _ => []
  | n + 1, l => BitVec.ofNat 8 (ofBits (l.take 8)) :: bytesOfBits n (l.drop 8)

/-- The remote side's byte offset in its window. -/
def Work.remoteOffset (w : Work) : Nat := if w.desc.toRemote then w.desc.dstAddr else w.desc.srcAddr

/-- Bytes of the next request frame of a piece of work. -/
def Work.frameLen (w : Work) : Nat := min 1024 (w.desc.length - 1024 * w.frames)

/-- The next request of a piece of work, without its payload (R247). -/
def State.nextReq (s : State) (p : Nat) (w : Work) : XReq :=
  let x := s.sendState w.peer p
  let vlo := 1024 * w.frames
  { id := s.nextId, pch := p, serial := w.serial, fn := s.chFn p, peer := w.peer, port := w.peerPort,
    retryLimit := w.peerRetry, payload := [], vlo := vlo, len := w.frameLen,
    hdr :=
      { kind := if w.desc.toRemote then kindWriteReq else kindReadReq
        payloadLen := if w.desc.toRemote then w.frameLen else 0
        srcId := s.opt.instanceId, dstId := w.desc.remoteInstance, seq := x.counter, chan := p
        window := w.desc.remoteWindow, fn := w.remoteFn, svc := w.desc.svc, sync := x.sync
        last := decide (vlo + w.frameLen = w.desc.length), status := 0, token := w.desc.accessToken
        offset := w.remoteOffset + vlo, readLen := if w.desc.toRemote then 0 else w.frameLen } }

/-- The request must wait for an outstanding one (R249), or for the first response of its channel and peer (R252). -/
def State.reqWaits (s : State) (q : XReq) : Bool :=
  (s.reqsOf q.pch).any fun r =>
    r.peer == q.peer
      && (q.hdr.sync
          || (r.hdr.window == q.hdr.window && r.hdr.fn == q.hdr.fn
              && (r.hdr.kind == kindWriteReq || q.hdr.kind == kindWriteReq)
              && decide (r.hdr.offset < q.hdr.offset + q.len) && decide (q.hdr.offset < r.hdr.offset + r.len)))

/-- The next request of a piece of work with its payload and its landing space, when it is ready (R248) (assumption
43). -/
def State.readyReq (s : State) (p : Nat) (w : Work) : Option XReq :=
  if !w.live || !(w.desc.toRemote || w.desc.fromRemote) || decide (w.desc.length ≤ 1024 * w.frames)
      || s.reqWaits (s.nextReq p w) then none
  else if w.desc.toRemote then
    (w.bits (8 * 1024 * w.frames) (8 * w.frameLen)).map fun l =>
      { s.nextReq p w with payload := bytesOfBits w.frameLen l }
  else if !(s.chan p).unfenced w then none
  else if w.desc.toPort && !((s.port w.desc.dstAddr).claim.isNone || (s.port w.desc.dstAddr).claim == some (p, w.serial))
    then none
  else
    (s.laneLanding (benchOf p) ((w.frameLen + 127) / 128)).map fun l =>
      { s.nextReq p w with landing := l, space := landingCells ((w.frameLen + 127) / 128) }

/-- The first piece of work of a channel with a request ready (assumption 54). -/
def State.readyWork (s : State) (p : Nat) : Option (Work × XReq) :=
  if !(s.chan p).executes || decide (64 ≤ (s.reqsOf p).length) then none
  else (s.chan p).started.findSome? fun w => ((s.readyReq p w).filter fun q => s.txRoom q.port q.beats).map fun q => (w, q)

/-- Forms a request frame and puts it into its port's transmit queue. -/
def State.formReq (s : State) (p : Nat) (w : Work) (q : XReq) : State :=
  let s1 := (s.takeLane (benchOf p) q.landing q.space).takeSeq w.peer p
  let q1 := { q with cell := s.nextCell (benchOf p) q.landing }
  let s2 : State := { s1 with nextId := s1.nextId + 1, xez := { s1.xez with reqs := s1.xez.reqs ++ [q1] } }
  if w.desc.toRemote then
    s2.modWork p w.serial fun x => { x.takeCrc (8 * (q.vlo + q.len)) with frames := x.frames + 1 }
  else
    (s2.modWork p w.serial fun x => { x with frames := x.frames + 1, rdV := x.rdV + q.len }).claimPort p w.serial

/-- XEZAN_PLACE_GRANT (R248, R250): one ready channel, in rotating order, takes a place; a stale descriptor forms no frame
(R270, R271), nor does one whose words are uncorrectable (R214). -/
def execXezanPlaceGrant (found : List CruFault) (s : State) : Host.Outcome State Fault Refusal := settled s <|
  if !s.xezanUp || s.opt.bad || decide (1024 ≤ s.xez.outstanding) then .next s
  else
    match ((List.range 128).map fun i => (s.xez.placePtr + i) % 128).find? fun p => (s.readyWork p).isSome with
    | none => .next s
    | some p =>
      match s.readyWork p with
      | none => .next s
      | some (w, q) =>
        if s.isStale p w then .next (s.staleEdge p w)
        else
          let s1 : State := { s with xez := { s.xez with placePtr := (p + 1) % 128 } }
          let s2 := if w.desc.toRemote then s1.countEcc found else s1
          .next (if w.desc.toRemote && eccUe found then s2.eccFault p w.serial else s2.formReq p w q)

/-! ### Transmit queues (R251, R259) -/

/-- Queued requests of a port that may go next: of each channel toward each peer, the first. -/
def State.sendable (s : State) (port : Nat) : List XReq :=
  let queued := s.xez.reqs.filter fun q => q.phase == .queued
  queued.filter fun q => q.port == port
    && (queued.find? fun r => r.pch == q.pch && r.peer == q.peer).map XReq.id == some q.id

/-- The request that a port sends next: class first, then channels in turn. -/
def State.nextSend (s : State) (port : Nat) : Option XReq :=
  let l := s.sendable port
  let k := (l.map fun q => q.hdr.svc).min?.getD 0
  let lk := l.filter fun q => q.hdr.svc == k
  let last := look 127 s.xez.turnPtr (4 * port + k)
  (((List.range 128).map fun i => (last + 1 + i) % 128).find? fun p => lk.any fun q => q.pch == p).bind fun p =>
    lk.find? fun q => q.pch == p

def State.setSent (s : State) (port : Nat) (l : List Byte) : State :=
  { s with xez := { s.xez with sent := put s.xez.sent port l } }

/-- XEZAN_FRAME_SENT: the port's next frame leaves, a response before any request; a request's send edge is fixed. -/
def execXezanFrameSent (port : Nat) (s : State) : Host.Outcome State Fault Refusal :=
  if !s.xezanOn port || s.opt.bad then .next s
  else
    match takeFirst (fun (r : Nat × List Byte) => r.1 == port) s.xez.respq with
    | some (r, rest) => .next (({ s with xez := { s.xez with respq := rest } } : State).setSent port r.2)
    | none =>
      match s.nextSend port with
      | none => .next s
      | some q =>
        let s1 : State := { s with xez := { s.xez with
          reqs := if q.abandoned then s.xez.reqs.filter fun r => r.id != q.id
                  else mapIf (fun r => r.id == q.id) (fun r => { r with phase := .sent s.now.refclk }) s.xez.reqs
          turnPtr := put s.xez.turnPtr (4 * port + q.hdr.svc) q.pch } }
        .next (s1.setSent port (frameBytes q.hdr q.payload))

/-! ### Ends of requests (R259 to R265) -/

def State.delReq (s : State) (id : Nat) : State :=
  { s with xez := { s.xez with reqs := s.xez.reqs.filter fun r => r.id != id } }

/-- A request times out, or draws SEQ_OLD (R261, R262, R265; assumption 55). -/
def State.reqTimeout (s : State) (q : XReq) : State :=
  let s1 := s.delReq q.id
  if (s.chan q.pch).state = .aborting then s1.freeReq q
  else if q.retries < q.retryLimit then
    let x := s.sendState q.peer q.pch
    let r := { q with retries := q.retries + 1, phase := .queued, hdr := { q.hdr with seq := x.counter, sync := x.sync } }
    let s2 := s1.takeSeq q.peer q.pch
    ({ s2 with xez := { s2.xez with reqs := s2.xez.reqs ++ [r], retries := satAdd 16 s2.xez.retries 1 } } :
      State).raise 1469
  else
    let s2 := s1.freeReq q
    let s3 := (({ s2 with xez := { s2.xez with exhausted := satAdd 16 s2.xez.exhausted 1 } } : State).raise 1471).raise
      (fnEvent q.fn 7)
    s3.failWork q.pch q.serial .remoteTimeout

/-- XEZAN_REQUEST_TIMEOUT (R259, R261): X_TMO refclk cycles have passed since the send edge. -/
def execXezanRequestTimeout (req : Nat) (s : State) : Host.Outcome State Fault Refusal := settled s <|
  match s.xez.reqs.find? fun q => q.id == req && !q.abandoned with
  | none => .next s
  | some q =>
    match q.phase with
    | .queued => .next s
    | .sent t => .next ((s.reachRefclk (t + s.xez.tmo)).reqTimeout q)

/-- An OK READ_RESP: the payload lands in the reserved space, unless the work has ended. -/
def State.landResponse (s : State) (q : XReq) (payload : List Byte) : State :=
  match s.work? q.pch q.serial with
  | none => s.freeReq q
  | some w =>
    if !w.live || (s.chan q.pch).state = .aborting then s.freeReq q
    else
      let s1 := s.land q.pch q.serial q.landing q.space q.cell q.vlo payload
      if w.desc.toPort then s1.pump w.desc.dstAddr else s1

/-- A response is applied to its request (Table 9-2). -/
def State.applyResponse (s : State) (q : XReq) (h : FrameHdr) (payload : List Byte) : State :=
  if h.status = 0x06 then s.reqTimeout q
  else
    let s1 := s.delReq q.id
    if h.status = 0 then
      if q.hdr.kind = kindWriteReq then
        s1.deliverBits q.pch q.serial (8 * q.vlo) (8 * (q.vlo + q.len))
      else s1.landResponse q payload
    else
      (s1.freeReq q).failWork q.pch q.serial
        (if h.status = 0x05 then .busError else if h.status = 0x07 then .eccUncorrected else .windowDenied)

/-- The first response of a channel from a peer ends its initial state (R252; assumption 52). -/
def State.clearSync (s : State) (peer chan : Nat) : State :=
  { s with xez := { s.xez with send := put s.xez.send (seqKey peer chan) { s.sendState peer chan with sync := false } } }

/-- XEZAN_RESPONSE_ARRIVAL (R246, R260). -/
def execXezanResponseArrival (port : Nat) (frame : List Byte) (linkError : Bool) (s : State) :
    Host.Outcome State Fault Refusal := settled s <|
  let h := frameHdr frame
  if !s.xezanOn port then .next s
  else if s.receive frame linkError ≠ .good then .next (s.discardFrame (s.receive frame linkError))
  else if !h.isResponse then .next s
  else
    match s.peerOf h.srcId with
    | none => .next s.unknownPeer
    | some e =>
      let s1 := s.clearSync e h.chan
      match s.xez.reqs.find? fun q => !q.abandoned && q.pch == h.chan && q.hdr.seq == h.seq
          && q.hdr.dstId == h.srcId with
      | none => .next (({ s1 with xez := { s1.xez with late := satAdd 16 s1.xez.late 1 } } : State).raise 1468)
      | some q => .next (s1.applyResponse q h ((frame.drop 64).take h.payloadLen))

/-! ### The responder (R253 to R258) -/

def State.recvState (s : State) (peer chan : Nat) : RecvState := look {} s.xez.recv (seqKey peer chan)
def State.setRecv (s : State) (peer chan : Nat) (x : RecvState) : State :=
  { s with xez := { s.xez with recv := put s.xez.recv (seqKey peer chan) x } }

/-- How far a sequence number lies ahead of E, modulo 2^32; 2^31 or more is behind. -/
def seqAhead (e q : W32) : Nat := (q - e).toNat

/-- The response header of a request (R245). -/
def FrameHdr.reply (h : FrameHdr) (status : BitVec 8) (n : Nat) : FrameHdr :=
  { h with kind := h.kind + 0x80, payloadLen := n, srcId := h.dstId, dstId := h.srcId, status := status, token := 0 }

/-- The port on which frames to a peer are sent (R243); `port` where its entry is not bound any more. -/
def State.portTo (s : State) (peer port : Nat) : Nat :=
  let x : Peer := look {} s.xez.peers peer
  if x.bound then x.port else port

/-- A response enters the port's transmit queue. -/
def State.queueResponse (s : State) (port : Nat) (h : FrameHdr) (payload : List Byte) : State :=
  { s with xez := { s.xez with respq := s.xez.respq ++ [(port, frameBytes h payload)] } }

/-- Held requests of a peer's channel. -/
def State.heldOf (s : State) (peer chan : Nat) : List XJob :=
  s.xez.jobs.filter fun j => j.held && j.peer == peer && j.hdr.chan == chan

/-- A request is discarded for want of space (R255). -/
def State.noSpaceFor (s : State) : State :=
  ({ s with xez := { s.xez with noSpace := satAdd 16 s.xez.noSpace 1 } } : State).raise 1466

/-- The initial state or SYNC takes SEQ as E, and discards what is held (R253). -/
def State.syncRecv (s : State) (peer : Nat) (h : FrameHdr) : State :=
  if (s.recvState peer h.chan).initial || h.sync then
    { s.setRecv peer h.chan { expected := h.seq, initial := false } with
      xez := { (s.setRecv peer h.chan { expected := h.seq, initial := false }).xez with
        jobs := s.xez.jobs.filter fun j => !(j.held && j.peer == peer && j.hdr.chan == h.chan) } }
  else s

/-- A request of a known peer that has space for its response (R254, R255). -/
def State.acceptRequest (s : State) (port peer : Nat) (h : FrameHdr) (payload : List Byte) : State :=
  let s1 := s.syncRecv peer h
  let ahead := seqAhead (s1.recvState peer h.chan).expected h.seq
  if 2 ^ 31 ≤ ahead then
    ({ s1 with xez := { s1.xez with seqOld := satAdd 16 s1.xez.seqOld 1 } } : State).queueResponse
      (s1.portTo peer port) (h.reply 0x06 0) []
  else if 0 < ahead ∧ 64 ≤ (s1.xez.jobs.filter fun j => j.held && j.peer == peer).length then s1.noSpaceFor
  else
    { s1 with
      nextId := s1.nextId + 1
      xez := { s1.xez with jobs := s1.xez.jobs ++
        [{ id := s1.nextId, port := port, peer := peer, hdr := h, payload := payload, heldAt := s1.now.refclk }] } }

/-- XEZAN_REQUEST_RECEIVE (R246, R253 to R255); `space` tells whether the transmit buffer has room for the response
(assumptions 48, 50). -/
def execXezanRequestReceive (port : Nat) (frame : List Byte) (linkError space : Bool) (s : State) :
    Host.Outcome State Fault Refusal :=
  let h := frameHdr frame
  if !s.xezanOn port then .next s
  else if s.receive frame linkError ≠ .good then .next (s.discardFrame (s.receive frame linkError))
  else if !h.isRequest then .next s
  else
    match s.peerOf h.srcId with
    | none => .next s.unknownPeer
    | some e =>
      if !space then .next s.noSpaceFor
      else .next (s.acceptRequest port e h ((frame.drop 64).take h.payloadLen))

/-- The window that a request names. -/
def State.windowOf (s : State) (h : FrameHdr) : Window := look {} (s.fn h.fn).windows h.window

/-- The bytes that a request moves. -/
def FrameHdr.len (h : FrameHdr) : Nat := if h.kind = kindWriteReq then h.payloadLen else h.readLen

/-- The checks of R258 in the order of Table 9-2; 0 when all pass. -/
def State.windowCheck (s : State) (h : FrameHdr) : BitVec 8 :=
  let w := s.windowOf h
  if !s.member.fnPresent h.fn || w.pages == 0 then 0x01
  else if w.token ≠ h.token then 0x02
  else if !(if h.kind = kindWriteReq then w.write else w.read) then 0x03
  else if 4096 * w.pages < h.offset + h.len then 0x04
  else 0

/-- The bursts of at most 1,024 bytes from `start`. -/
def jobBursts (start len : Nat) : List Burst :=
  if len = 0 then []
  else
    let b := burstAt start len 0
    if b.len < len then [b, burstAt start len b.len] else [b]

/-- Posts the memory accesses of a request that passed its checks. -/
def State.serveAccesses (s : State) (j : XJob) : State :=
  let w := s.windowOf j.hdr
  let start := w.base + j.hdr.offset
  (jobBursts start j.hdr.len).foldl
    (fun t b =>
      if j.hdr.kind = kindWriteReq then
        t.post (deviceWrite t (.xwrite j.id) (t.portOf b.addr) b.lo (qosOf j.hdr.svc) w.coherent
          ((j.payload.drop (b.lo - start)).take b.len))
      else
        t.post (deviceRead t (.xread j.id (b.lo - start) b.len) (t.portOf b.addr) b.lo b.len (qosOf j.hdr.svc)
          w.coherent)) s

/-- A request's turn: E passes it, and it is refused or executed (R254, R258). -/
def State.serve (s : State) (j : XJob) : State :=
  let w := s.windowOf j.hdr
  let st := s.windowCheck j.hdr
  let s1 := (s.setRecv j.peer j.hdr.chan { expected := j.hdr.seq + 1, initial := false }).modJob j.id fun x =>
    { x with held := false, status := st, sigEn := w.sigEn, sigId := w.sigId }
  if st = 0 then s1.serveAccesses j
  else
    let s2 := ({ s1 with xez := { s1.xez with refused := satAdd 16 s1.xez.refused 1 } } : State).raise 1470
    if s.member.fnPresent j.hdr.fn then s2.raise (fnEvent j.hdr.fn 7) else s2

/-- XEZAN_REQUEST_TURN (R258): the request whose SEQ is E. -/
def execXezanRequestTurn (peer chan : Nat) (s : State) : Host.Outcome State Fault Refusal :=
  match (if s.xezanUp then s.heldOf peer chan else []).find? fun j => j.hdr.seq == (s.recvState peer chan).expected with
  | none => .next s
  | some j => .next (s.serve j)

/-- Inserts a held request by its place in the sequence. -/
def insertJob (e : W32) (j : XJob) : List XJob → List XJob
  | [] => [j]
  | x :: t => if seqAhead e j.hdr.seq ≤ seqAhead e x.hdr.seq then j :: x :: t else x :: insertJob e j t

/-- XEZAN_HOLD_TIMEOUT (R256): the request held longest has waited X_HOLD. What is held below it is served first, in
order; the numbers missing below it are voided (assumption 51). -/
def execXezanHoldTimeout (peer chan : Nat) (s : State) : Host.Outcome State Fault Refusal :=
  let e := (s.recvState peer chan).expected
  match (if s.xezanUp then s.heldOf peer chan else []).find? fun j => j.hdr.seq != e with
  | none => .next s
  | some j =>
    let s1 := s.reachRefclk (j.heldAt + s.xez.hold)
    let s2 := ({ s1 with xez := { s1.xez with voids := satAdd 16 s1.xez.voids 1 } } : State).raise 1467
    let l := ((s.heldOf peer chan).filter fun x => decide (seqAhead e x.hdr.seq ≤ seqAhead e j.hdr.seq)).foldr
      (insertJob e) []
    .next (l.foldl State.serve s2)

/-- Response bytes by offset. -/
def gather : List (Nat × List Byte) → List Byte
  | [] => []
  | [a] => a.2
  | a :: b :: _ => if a.1 ≤ b.1 then a.2 ++ b.2 else b.2 ++ a.2

/-- STATUS of the response to a job whose accesses are over (Table 9-2): `found` are the faulty crucible words that the
response reads. -/
def XJob.answer (j : XJob) (found : List CruFault) : BitVec 8 :=
  if j.status ≠ 0 then j.status else if eccUe found then 0x07 else if j.failed then 0x05 else 0

/-- Its payload. -/
def XJob.answerBytes (j : XJob) (st : BitVec 8) : List Byte :=
  if st = 0 && j.hdr.kind == kindReadReq then gather j.data else []

/-- XEZAN_RESPONSE_SEND (R258, R214): every memory access of the request is over, and the transmit queue toward the peer
has room. -/
def execXezanResponseSend (port : Nat) (job : Nat) (found : List CruFault) (s : State) :
    Host.Outcome State Fault Refusal :=
  match (if s.xezanUp then s.xez.jobs else []).find? fun j => j.id == job && !j.held && s.portTo j.peer j.port == port with
  | none => .next s
  | some j =>
    let st := j.answer found
    let payload := j.answerBytes st
    if s.txns.any (fun t => match t.purpose with | .xwrite k => k == job | .xread k _ _ => k == job | _ => false)
        || !s.txRoom port (1 + (payload.length + 63) / 64) then .next s
    else
      let s1 := if j.status = 0 then s.countEcc found else s
      let s2 := if j.status = 0 && eccUe found then s1.setCause 3 else s1
      let s3 : State := { s2 with xez := { s2.xez with jobs := s2.xez.jobs.filter fun x => x.id != job } }
      let s4 := s3.queueResponse port (j.hdr.reply st payload.length) payload
      .next (if st = 0 && j.hdr.kind == kindWriteReq && j.hdr.last && j.sigEn then s4.raiseSignal j.hdr.fn j.sigId
             else s4)

end Sys2Proof.Machine
end

