-- ==== Sys2Proof/Machine/Resets.lean ====
section
/-! DEFINITION. Resets, the option load, bring-up, lost clocks and the alarm's acknowledgement (R284 to R286, R291, R315
to R338, R362). -/

namespace Sys2Proof.Machine

/-! ### Readiness (R338) -/

/-- G_READY.FUNC[f] sets, if the function is enabled, with its READY event (R333, R338). -/
def State.makeReady (s : State) (f : Nat) : State :=
  let x := s.fn f
  if x.enabled && !x.ready && !x.resetting then (s.modFn f fun y => { y with ready := true }).raise (fnEvent f 0) else s

/-- Function `f` becomes ready when nothing is missing. -/
def State.readyOne (s : State) (f : Nat) : State := if s.rst.crucible && s.rst.gaffer then s.makeReady f else s

def State.readyFns (s : State) : State := (List.range s.member.functions).foldl State.readyOne s

/-! ### Cold, warm and debug reset (R315 to R320, R330) -/

/-- A cold reset is asserted: every state takes its Reset value, but for the test ports, which follow TRST_N and WRSTN,
and an access that waits at REG (R328, R329). -/
def State.coldReset (s : State) : State :=
  { member := s.member, pending := s.pending, now := s.now, edges := s.edges, tap := s.tap, wrapper := s.wrapper
    apb := { held := s.apb.held }, goCount := s.goCount }

/-- COLD_RESET (R317, R319). -/
def execColdReset (s : State) : Host.Outcome State Fault Refusal := .next s.coldReset

/-- A transaction under retirement: its response is awaited and discarded. -/
def Txn.retire (t : Txn) : Txn :=
  { t with phase := .retiring, purpose := .retired, dropped := true, voided := true, landing := .none, space := 0 }

/-- A transaction whose owner a function reset or a lost clock has taken away: it retires with its data unused. -/
def Txn.abandon (t : Txn) : Txn :=
  { t with purpose := .retired, dropped := true, voided := true, landing := .none, space := 0 }

/-- The transactions that the ports retire: those whose address handshake has completed. After a loss of mclk or cclk
the memory side is reset together with the block, and nothing is left to retire (Table 12-3; assumption 59). -/
def State.retireTxns (s : State) : List Txn :=
  if s.rst.memLost then [] else (s.txns.filter Txn.isIssued).map Txn.retire

/-- The Cullet's pool registers and records, which a warm reset leaves (R238). -/
def Cullet.kept (c : Cullet) : Cullet :=
  { poolBase := c.poolBase, metaBase := c.metaBase, stackBase := c.stackBase, count := c.count, fresh := c.fresh,
    records := c.records }

/-- The Gaffer's SRAM image, flash, log and sensor history, which a warm reset leaves (R316, R354; assumption 66). -/
def Gaffer.kept (g : Gaffer) : Gaffer :=
  { image := g.image, slotA := g.slotA, slotB := g.slotB, logs := g.logs, logNext := g.logNext, logQueue := g.logQueue,
    logLost := g.logLost, logLostSince := g.logLostSince,
    sensors := { g.sensors with thermHigh := 840, droopLow := 0 } }

/-- The alarm pair in a warm reset: both low before the option load completes or without refclk, else alarm
(Table 12-4). -/
def Safety.held (loaded refLost : Bool) : Safety := { alarmN := loaded && !refLost }

/-- A warm or debug reset is asserted (R317, R319; the Xezan state: R267); `last` is what G_RST_CAUSE.LAST takes
(assumption 65). -/
def State.warmAssert (s : State) (last : Nat) : State :=
  let s1 : State :=
    { member := s.member, pending := s.pending, now := s.now, edges := s.edges, tap := s.tap, wrapper := s.wrapper
      apb := { held := s.apb.held }, goCount := s.goCount, opt := s.opt, nextId := s.nextId, txns := s.retireTxns
      rst :=
        { coldHeld := false, warmHeld := true, optLoading := s.rst.optLoading, optNext := s.rst.optNext, optReq := s.rst.optReq
          last := last,
          warmCount := satAdd 16 s.rst.warmCount 1, needFlash := s.gaf.image.isNone, optEvent := s.rst.optEvent,
          sweep := true, lost := s.rst.lost, refLost := s.rst.refLost }
      cul := s.cul.kept, gaf := s.gaf.kept, safety := Safety.held s.opt.loaded s.rst.refLost }
  s1.log 0x02 0xFF (leBytes 4 (s1.gValue 0x04C).toNat)

/-- WARM_RESET_PIN (R317, R319): a cold reset prevails. -/
def execWarmResetPin (s : State) : Host.Outcome State Fault Refusal :=
  .next (if s.rst.coldHeld then s else s.warmAssert 2)

/-- DEBUG_RESET (R315, R66): a private TAP instruction raises it; refused while DEBUG_LOCK is 1. -/
def execDebugReset (s : State) : Host.Outcome State Fault Refusal :=
  .next (if s.rst.coldHeld || s.opt.debugLock then s else s.warmAssert 4)

/-- The release reaches every monitored domain once no reset is held and the option load is complete (R317, R320;
assumption 58). -/
def State.startRelease (s : State) : State :=
  if s.rst.coldHeld || s.rst.warmHeld || s.rst.optLoading then s
  else { s with rst := { s.rst with releasing := true, waiting := ~~~ s.rst.stable } }

/-- RESET_RELEASE (R320, R326): the release of a cold reset starts the option load (assumption 57). -/
def execResetRelease (s : State) : Host.Outcome State Fault Refusal :=
  if s.rst.coldHeld then
    .next { s with rst := { s.rst with coldHeld := false, optLoading := true, optNext := 0 } }
  else if s.rst.warmHeld then .next ({ s with rst := { s.rst with warmHeld := false } } : State).startRelease
  else .next s

/-! ### Domains (R320 to R322) -/

def bit9 (d : Nat) : BitVec 9 := BitVec.ofNat 9 (2 ^ d)

/-- The cclk domain is released: a failed load is raised, the sweep of R239 starts, waiting register accesses apply
(assumption 68). -/
def State.cclkReleased (s : State) : State :=
  let s1 := if s.rst.optEvent then s.raise 1472 else s
  let s2 : State := { s1 with
    rst := { s1.rst with optEvent := false, sweep := false }
    regq := [] }
  let s3 := if s.rst.sweep && s.member.hasCullet then s2.startSweep else s2
  s3.settle (s.regq.foldl State.applyEntry s3)

/-- DOMAIN_RELEASE: 256 stable cycles of a waiting domain. A memory port under retirement is released by its last
retirement (R330, State.portUp). -/
def execDomainRelease (domain : Nat) (s : State) : Host.Outcome State Fault Refusal :=
  if !(s.rst.releasing && decide (domain < 9) && s.rst.waiting.getLsbD domain) then .next s
  else
    let s1 : State := { s with rst := { s.rst with
      stable := s.rst.stable ||| bit9 domain
      waiting := s.rst.waiting &&& ~~~ bit9 domain
      lost := s.rst.lost &&& ~~~ bit9 domain } }
    .next (if domain = 0 then s1.cclkReleased else if domain = 2 then s1.hclkReleased else s1)

/-! ### The option map (R324 to R327) -/

/-- The 62 bytes under the CRC (R325). -/
def optBytes (w : Nat → W32) : List Byte :=
  ((List.range 15).map fun i => leBytes 4 (w i).toNat).flatten ++ (leBytes 4 (w 15).toNat).drop 2

/-- PMAP[i] as the words give it (Table 12-5). -/
def optPmap (w : Nat → W32) (i : Nat) : Nat :=
  if i < 10 then field32 (w 2) (3 * i + 2) (3 * i) else field32 (w 3) (3 * (i - 10) + 2) (3 * (i - 10))

/-- The content checks of R327, with the ports that PMAP names (R46). -/
def optContentOk (m : Member) (w : Nat → W32) : Bool :=
  field32 (w 0) 7 0 == 1 && field32 (w 0) 31 21 == 0 && field32 (w 1) 31 18 == 0 && field32 (w 2) 31 30 == 0
    && field32 (w 3) 31 18 == 0 && field32 (w 4) 31 9 == 0 && (List.range 9).all (fun i => w (5 + i) == 0)
    && field32 (w 15) 31 16 == 0 && (List.range 16).all fun i => decide (optPmap w i < m.mPorts)

/-- The fields of a map that passes its checks. -/
def optGood (o : Opt) (w : Nat → W32) : Opt :=
  { o with loaded := true, mfrId := BitVec.ofNat 11 (field32 (w 0) 18 8), debugLock := (w 0).getLsbD 19,
           pmapXor := (w 0).getLsbD 20, instanceId := field32 (w 1) 17 0, pmap := (List.range 16).map (optPmap w),
           fcxRst := BitVec.ofNat 4 (w 4).toNat, flDiv := field32 (w 4) 7 4, quadAllow := (w 4).getLsbD 8 }

/-- The safe defaults of Table 12-5 (R46). -/
def optSafe (m : Member) (o : Opt) (why : OptReason) : Opt :=
  { o with loaded := true, bad := true, reason := why, mfrId := 0, debugLock := true, pmapXor := false,
           instanceId := 0x3FFFF, pmap := (List.range 16).map (fun i => i % m.mPorts), fcxRst := 0xF, flDiv := 15,
           quadAllow := false }

/-- The load is complete: the release goes on, and the alarm pair takes its state of Table 12-4. -/
def State.loadDone (s : State) (o : Opt) : State :=
  ({ s with opt := o, rst := { s.rst with optLoading := false, optReq := false },
            safety := { s.safety with alarmN := !s.rst.refLost } } : State).startRelease

/-- The load fails (R327). -/
def State.loadFailed (s : State) (why : OptReason) : State :=
  let s1 := s.loadDone (optSafe s.member s.opt why)
  (({ s1 with rst := { s1.rst with optEvent := true } } : State).setCause 8).log 0x50 0xFF [BitVec.ofNat 8 why.code]

/-- OPT_WORD_READ (R326, R327): the map is checked after its last word. -/
def execOptWordRead (word : W32) (s : State) : Host.Outcome State Fault Refusal :=
  if s.rst.coldHeld || !s.rst.optLoading then .next s
  else
    let s1 : State := { s with
      opt := { s.opt with words := put s.opt.words s.rst.optNext word }
      rst := { s.rst with optNext := s.rst.optNext + 1, optReq := false } }
    let w := fun i => look 0 s1.opt.words i
    if s.rst.optNext < 15 then .next s1
    else if (crc16 (optBytes w)).toNat ≠ field32 (w 15) 15 0 then .next (s1.loadFailed .crc)
    else if optContentOk s.member w then .next (s1.loadDone (optGood s1.opt w))
    else .next (s1.loadFailed .content)

/-- OPT_ADDR and OPT_REQ (R62, R326, Table 12-4): the address of the next word while the load runs, then low. -/
def State.optPins (s : State) : Nat × Bool :=
  if s.rst.optLoading && !s.rst.coldHeld then (s.rst.optNext, s.rst.optReq) else (0, false)

/-- The refclk edge after OPT_ADDR has its value: OPT_REQ rises (R62). -/
def State.optEdge (s : State) : State :=
  if s.rst.optLoading && !s.rst.coldHeld then { s with rst := { s.rst with optReq := true } } else s

/-- OPT_ACK_TIMEOUT (R327). -/
def execOptAckTimeout (s : State) : Host.Outcome State Fault Refusal :=
  .next (if s.rst.coldHeld || !s.rst.optLoading then s else s.loadFailed .timeout)

/-- CRUCIBLE_FILL_DONE (R335, R338). -/
def execCrucibleFillDone (s : State) : Host.Outcome State Fault Refusal :=
  .next (if cclkUp s && !s.rst.crucible then
    ({ s with rst := { s.rst with crucible := true } } : State).readyFns
  else s)

/-! ### The Gaffer's boot (R336, R356, R363) -/

/-- Slots in the order in which a flash boot tries them: higher ACT_SEQ first. -/
def bootOrder (a b : FlashSlot) : List (Nat × FlashSlot) :=
  match a.seq?, b.seq? with
  | some m, some n => if m < n then [(1, b), (0, a)] else [(0, a), (1, b)]
  | some _, none => [(0, a)]
  | none, some _ => [(1, b)]
  | none, none => []

/-- The image that a flash boot loads (assumption 69). -/
def flashImage (a b : FlashSlot) : Option GafImage :=
  ((bootOrder a b).find? fun e => e.2.verifies).map fun e =>
    { slot := e.1, bank := 0, version := e.2.version, seq := e.2.seq?.getD 0 }

/-- The active slot in recovery mode: the lower ACT_SEQ, or A (R363). -/
def recoverySlot (a b : FlashSlot) : Nat :=
  match a.seq?, b.seq? with
  | some m, some n => if n < m then 1 else 0
  | none, some _ => 1
  | _, _ => 0

/-- A log record of a boot (Table 13-10): source 0 flash, 1 SRAM, 2 recovery. -/
def State.logBoot (s : State) (source : Nat) : State :=
  s.log 0x01 0xFF ([BitVec.ofNat 8 s.gaf.slot, BitVec.ofNat 8 source, 0, 0] ++ leBytes 4 s.gaf.fwVersion.toNat
    ++ leBytes 4 s.gaf.actSeq)

/-- A command whose RESET_DONE or bench reset came while gclk was lost is answered once the Gaffer runs again. -/
def State.answerEnded (s : State) (m : Nat) : State :=
  let x := s.mailbox m
  if x.wait = .ended then (s.setMailbox m { x with wait := .none, again := false, replay := x.again }).mbReply m 0 []
  else s

/-- Every such command is answered. -/
def State.answerAllEnded (s : State) : State := (List.range 17).foldl State.answerEnded s

/-- The Gaffer runs an image: G_READY.GAFFER sets. -/
def State.gafferUp (s : State) (i : GafImage) (sram : Bool) : State :=
  let s1 : State := { s with
    rst := { s.rst with gaffer := true, gafferFail := false, needFlash := false }
    gaf := { s.gaf with state := .running, down := false, recovering := false, recovery := false, image := some i,
                        slot := i.slot, bank := i.bank, fwVersion := i.version, actSeq := i.seq, fromSram := sram } }
  let s2 := ((s1.flushLog.logBoot (if sram then 1 else 0)).raiseUp 1450).readyFns.answerAllEnded
  if s.gaf.recovering then s2.raiseUp 1419 else s2

/-- No image verifies: recovery mode. -/
def State.gafferRecovery (s : State) (a b : FlashSlot) : State :=
  let slot := recoverySlot a b
  let s1 : State := { s with
    rst := { s.rst with gafferFail := true }
    gaf := { s.gaf with state := .recovery, down := false, recovering := false, recovery := true, image := none
                        slot := slot, bank := 0, fwVersion := 0, fromSram := false
                        actSeq := ((if slot = 0 then a.seq? else b.seq?).getD 0) } }
  (s1.flushLog.logBoot 2).answerAllEnded

/-- The reply fields of FW_ACTIVATE (Table 13-6; assumption 71). -/
def activateReply (version : W32) (seq micros rollback : Nat) : List Byte :=
  leBytes 4 version.toNat ++ leBytes 4 seq ++ leBytes 4 micros ++ leBytes 1 rollback

/-- A log record of the end of an activation (Table 13-10). -/
def State.logActivated (s : State) (rollback slot : Nat) (version : W32) (micros : Nat) : State :=
  s.log 0x41 0xFE ([BitVec.ofNat 8 rollback, BitVec.ofNat 8 slot, 0, 0] ++ leBytes 4 version.toNat ++ leBytes 4 micros)

/-- The running image is the one that the SRAM held before an activation. -/
def Gaffer.restored (g : Gaffer) : Gaffer :=
  match g.image with
  | some i => { g with slot := i.slot, bank := i.bank, fwVersion := i.version, actSeq := i.seq }
  | none => g

/-- The running image is the one before the activation, which is over, counted and logged. -/
def State.unactivate (s : State) (a : Activation) (micros : Nat) : State :=
  let s1 : State := { s with gaf := { s.gaf.restored with
    act := none, resRollback := satAdd 8 s.gaf.resRollback 1 } }
  ((s1.setMailbox a.mb { s1.mailbox a.mb with wait := .none }).raiseUp 1454).logActivated 1 a.slot
    s1.gaf.fwVersion micros

/-- An activation before its step 4 is rolled back (R361): DENIED with ROLLBACK 1. -/
def State.rollBack (s : State) (micros : Nat) : State :=
  match s.gaf.act with
  | none => s
  | some a =>
    let s2 := s.unactivate a micros
    if (s2.mailbox a.mb).busy then
      (s2.log 0x31 0xFE ([0x81, 0, 2, 0] ++ reqBytes (s.mailbox a.mb) 0 8)).mbReply a.mb 2
        (activateReply s.gaf.restored.fwVersion s.gaf.restored.actSeq micros 1)
    else s2

/-- A boot from flash (R336): SFDP is read, the image that verifies runs, or recovery mode begins. -/
def State.flashBoot (s : State) (sfdp : Sfdp) (a b : FlashSlot) : State :=
  let s1 : State := { s with gaf := { s.gaf.foundSfdp s.opt.quadAllow sfdp with slotA := some a, slotB := some b } }
  match flashImage a b with
  | some j => s1.gafferUp j false
  | none => s1.gafferRecovery a b

/-- GAFFER_BOOT_DONE (R336, R382): from SRAM when its image passes the re-check, else from flash. -/
def execGafferBootDone (sramOk : Bool) (sfdp : Sfdp) (flash : BootFlash) (s : State) :
    Host.Outcome State Fault Refusal :=
  if !(gclkUp s && s.gaf.state == .booting) then .next s
  else
    match s.gaf.image with
    | some i =>
      if sramOk && !s.rst.needFlash then .next ((s.gafferUp i true).rollBack 0)
      else .next ((s.flashBoot sfdp flash.slotA flash.slotB).rollBack 0)
    | none => .next (s.flashBoot sfdp flash.slotA flash.slotB)

/-! ### Gaffer resets (R286, R362) -/

/-- A busy mailbox is answered BUSY; a hardware reset that its command started runs on (R362). -/
def State.answerBusy (s : State) (m : Nat) : State :=
  let x := s.mailbox m
  if x.busy then
    (s.setMailbox m { x with again := false, wait := .none }).mbReply m 1 []
  else s

/-- The Gaffer is reset by a mismatch or by its watchdog; `cause` as the log names it (assumption 70). -/
def State.gafferReset (s : State) (cause : Nat) : State :=
  let s1 : State := { s with
    rst := { s.rst with gaffer := false }
    gaf := { s.gaf with state := .booting, down := true, staging := false, flashMb := none } }
  let s2 := ((s1.raiseUp 1449).log 0x03 0xFF [BitVec.ofNat 8 cause]).rollBack 0
  { (List.range 17).foldl State.answerBusy s2 with goOrder := [], goTied := [] }

/-- GAFFER_WATCHDOG (R362). -/
def execGafferWatchdog (s : State) : Host.Outcome State Fault Refusal :=
  if s.rst.stable.getLsbD 8 && s.gaf.state != .booting then
    .next ((({ s with gaf := { s.gaf with resWatchdog := satAdd 8 s.gaf.resWatchdog 1 } } : State).raiseUp 1451).gafferReset
      2)
  else .next s

/-- LOCKSTEP_MISMATCH (R286): in a FULL member. -/
def execLockstepMismatch (s : State) : Host.Outcome State Fault Refusal :=
  if s.member.safetyFull && s.rst.stable.getLsbD 8 && s.gaf.state != .booting then
    let s1 : State := { s with
      gaf := { s.gaf with resLockstep := satAdd 8 s.gaf.resLockstep 1, recovering := true }
      safety := { s.safety with lockstep := satAdd 16 s.safety.lockstep 1 } }
    .next (((s1.setCause 7).raiseUp 1414).gafferReset 1)
  else .next s

/-! ### Function reset (R298, R332, R333) -/

/-- A transaction of channel `p`, completion writes included. -/
def Txn.ofChan (p : Nat) (t : Txn) : Bool := t.purpose.pch? == some p || t.purpose == .completion p

/-- What a function reset leaves of a channel: its mapping, its configuration, its ring binding and indices, its
bounds (R69). -/
def Chan.fnReset (c : Chan) : Chan :=
  { owner := c.owner, cfg := c.cfg, ageBound := c.ageBound, leadLimit := c.leadLimit
    ring := { bound := c.ring.bound, order := c.ring.order, coherent := c.ring.coherent, base := c.ring.base,
              t := c.ring.t, f := c.ring.f, h := c.ring.h } }

/-- A channel at its function's reset edge. -/
def State.resetChan (s : State) (p : Nat) : State :=
  let s1 := (s.chan p).started.foldl (fun t w => t.abandonWork p true w) s
  let s2 := (s1.txns.filter (Txn.ofChan p)).foldl State.freeTxn s1
  let waits := fun (t : Txn) => match t.phase with | .reheat _ => true | _ => false
  ({ s2 with txns := mapIf (Txn.ofChan p) Txn.abandon (s2.txns.filter fun t => !(t.ofChan p && waits t)) } :
    State).modChan p Chan.fnReset

/-- What a reset of its holder leaves of a stream port (R196): STREAM_CONFIG and WM_SET values, the queues beyond the
crucible; the rest of a parison is dropped as at a flush. -/
def Port.fnReset (x : Port) : Port :=
  { enable := x.enable, dirOut := x.dirOut, holder := x.holder, reserve := x.reserve, limit := x.limit
    highWm := x.highWm, lowWm := x.lowWm, xoff := x.xoff, inq := x.inq, outq := x.outq, released := x.released
    refusingIn := x.refusingIn, cut := x.cut
    dropping := x.dropping || x.refusing || !x.parison.isEmpty }

/-- The port at its holder's reset edge: at level 0 an XOFF with HIGH_WM above 0 ends, which counts as a crossing; the
counters and sticky bits are zeroed before it is counted (R196, R197; assumption 100). -/
def State.resetPort (s : State) (p : Nat) : State := (s.modPort p Port.fnReset).compareWm p

/-- What a function reset leaves of a completion ring: its binding and, until RESET_DONE, its indices. -/
def CplRing.fnReset (r : CplRing) : CplRing :=
  { bound := r.bound, order := r.order, coherent := r.coherent, base := r.base, head := r.head, producer := r.producer
    tail := r.tail }

/-- What a function reset leaves of a function: its enable, quotas, charge, windows and completion rings; the snapshot is
zeroed (R368). -/
def Fn.fnReset (x : Fn) : Fn :=
  { enabled := x.enabled, resetting := true, charge := x.charge, reserve := x.reserve
    ceiling := x.ceiling, lowMark := x.lowMark, gobWait := x.gobWait, windows := x.windows
    rings := x.rings.map fun e => (e.1, e.2.fnReset) }

/-- Coalescing state of the function's own vectors (R170). -/
def Vec.fnReset (x : Vec) : Vec := { x with raises := 0, covered := 0, since := none }

/-- The function's events and pulses: coalescing of the vectors it holds, merged counts of the outputs it holds. -/
def Events.fnReset (e : Events) (f : Nat) : Events :=
  { e with vecs := e.vecs.map (fun v => (v.1, if v.1 / 128 = f && !v.2.admin then v.2.fnReset else v.2))
           trigOut := e.trigOut.map fun o => (o.1, if o.2.holder = some f then { o.2 with merged := 0 } else o.2) }

/-- Ports that the function holds. -/
def State.portsOf (s : State) (f : Nat) : List Nat := (s.ports.filter fun e => e.2.holder == some f).map Prod.fst

/-- The reset edge of function `f` (R332; assumption 75). -/
def State.fnReset (s : State) (f : Nat) : State :=
  let s1 := (s.chansOf f).foldl State.resetChan s
  let s2 := s1.abandonReqs fun q => q.fn == f && !q.abandoned
  let s3 := s2.modFn f Fn.fnReset
  let s4 : State := { s3 with ev := s3.ev.fnReset f }
  let s5 := (s4.portsOf f).foldl State.resetPort s4
  let s6 := s5.modFn f fun x => { x with evt := 0, sigCnt := [], sigOvf := 0 }
  { s6 with ports := s6.ports.map fun e => (e.1, if e.2.holder = some f then { e.2 with evt := 0 } else e.2)
            ev := s6.ev.fnReset f }

/-- Every transaction and remote request of the function has retired or been abandoned (R333). -/
def State.fnQuiet (s : State) (f : Nat) : Bool :=
  !(s.txns.any fun t => t.user == fnUser f && t.axid != deviceAxid)
    && !(s.xez.reqs.any fun q => q.fn == f && !q.abandoned)

/-- A channel at RESET_DONE. -/
def Chan.resetDone (c : Chan) : Chan :=
  { c with state := if c.cfg.ringMode && c.ring.bound then .running else .idle
           ring := { c.ring with t := 0, f := 0, h := 0 } }

/-- The stored reply exists now, if `w` is what it waited for. -/
def Replay.done (w : MbWait) (r : Replay) : Replay := if r.waits = w then { r with ready := true, waits := .none } else r

/-- What mailbox `m` waited for has come: the store has its reply, and the delayed command ends OK (R340, R343). With
gclk lost, mailboxes answer nothing (Table 12-3). -/
def State.endWait (w : MbWait) (s : State) (m : Nat) : State :=
  let x := s.mailbox m
  let y := { x with store := x.store.map (Replay.done w) }
  if x.wait = w then
    if x.busy && gclkUp s then
      (s.setMailbox m { y with wait := .none, again := false, replay := x.again }).mbReply m 0 []
    else s.setMailbox m { y with wait := if x.busy then .ended else .none }
  else s.setMailbox m y

def State.endWaits (s : State) (w : MbWait) : State := (List.range 17).foldl (State.endWait w) s

/-- RESET_DONE (R333). -/
def execResetDone (fn : Nat) (s : State) : Host.Outcome State Fault Refusal :=
  if (s.fn fn).resetting && s.fnQuiet fn then
    let s1 := (s.chansOf fn).foldl (fun t p => t.modChan p Chan.resetDone) s
    let s2 := s1.modFn fn fun x =>
      { x with resetting := false, rings := x.rings.map fun e => (e.1, { e.2 with head := 0, producer := 0, tail := 0 }) }
    .next (((s2.raise (fnEvent fn 6)).makeReady fn).endWaits (.resetDone fn))
  else .next s

/-- BENCH_RESET_DONE (R334). -/
def execBenchResetDone (bench : Nat) (s : State) : Host.Outcome State Fault Refusal :=
  if (s.bench bench).resetting then
    .next ((s.modBench bench fun b => { b with resetting := false }).endWaits (.bench bench))
  else .next s

/-! ### Lost clocks (R284, R285, R322, Table 12-3) -/

/-- The first live piece of work of a channel that names a stream port of group `g`. -/
def Chan.inGroup (g : Nat) (c : Chan) : Option Work :=
  c.started.find? fun w => w.live
    && ((w.desc.toPort && w.desc.dstAddr / 16 == g) || (w.desc.takes && w.desc.srcAddr / 16 == g))

/-- A stream port whose clock is lost: the sclk side of its queues is empty, and a packet that the loss has cut is
dropped, or ended with an abort beat (assumption 62). -/
def Port.clockLost (x : Port) : Port :=
  let mid := match x.inq.getLast? with
    | some b => !b.ends
    | none => !x.parison.isEmpty || x.refusing || x.dropping || x.cut
  let aborts := x.outq.filter fun b => b.abort
  let cutOut := ((x.outq.filter fun b => !b.abort).take 1).filter fun b =>
    !aborts.any fun a => a.serial == b.serial && a.pkt == b.pkt
  { x.dropParison with
    inq := [], refusing := false, dropping := false, refusingIn := false, cut := mid || x.refusingIn, released := []
    outq := (cutOut.map fun b => { b with words := [], last := true, abort := true }) ++ aborts }

/-- A lost sclk group: every channel that names one of its ports ends with STALL (assumption 61). -/
def State.groupLost (s : State) (g : Nat) : State :=
  let hit := s.chans.filterMap fun e => (e.2.inGroup g).map fun w => (e.1, w.serial)
  let s1 := hit.foldl (fun t e => t.failWork e.1 e.2 .stall) s
  let s2 := if hit.isEmpty then s1 else s1.setCause 5
  (s2.ports.filter fun e => e.1 / 16 == g).foldl (fun t e => (t.modPort e.1 Port.clockLost).compareWm e.1) s2

/-- A lost xclk: frames in the transmit queues are gone, and their requests run to their timeouts (assumption 56). -/
def State.xclkLost (s : State) : State :=
  { s with xez := { s.xez with
    respq := []
    reqs := (s.xez.reqs.filter fun q => !q.abandoned).map fun q =>
      if q.phase = .queued then { q with phase := .sent s.now.refclk } else q } }

/-- A lost gclk holds the Gaffer in reset (assumption 63). -/
def State.gclkLost (s : State) : State :=
  ({ s with rst := { s.rst with gaffer := false }, gaf := { s.gaf with state := .booting, staging := false } } :
    State).raiseUp 1449

/-- A lost cclk holds the core in reset; only a warm reset recovers it (assumption 60). -/
def State.cclkLost (s : State) : State :=
  { s with
    rst := { s.rst with crucible := false }
    chans := [], fns := [], ev := {}, benches := [], ports := [], cru := {}, xez := {}, time := {}
    txns := (s.txns.filter Txn.isIssued).map Txn.abandon, cul := s.cul.kept }

/-- What follows the loss of a domain. -/
def State.domainLost (s : State) (d : Nat) : State :=
  if d = 0 then s.cclkLost
  else if 3 ≤ d ∧ d ≤ 6 then s.groupLost (d - 3)
  else if d = 7 then s.xclkLost
  else if d = 8 then s.gclkLost
  else if d = 2 then { s with apb := { held := s.apb.held } }
  else s

/-- CLOCK_LOSS (R284, R322). -/
def execClockLoss (domain : Nat) (s : State) : Host.Outcome State Fault Refusal :=
  if decide (domain < 9) && s.rst.stable.getLsbD domain then
    let s1 : State := { s with
      rst := { s.rst with stable := s.rst.stable &&& ~~~ bit9 domain, waiting := s.rst.waiting ||| bit9 domain
                          lost := s.rst.lost ||| bit9 domain, memLost := s.rst.memLost || decide (domain ≤ 1) }
      safety := { s.safety with clkLoss := s.safety.clkLoss ||| BitVec.ofNat 10 (2 ^ domain) }
      gaf := { s.gaf with sensors := { s.gaf.sensors with clkKhz := put s.gaf.sensors.clkKhz domain 0 } } }
    .next (s.settle (((s1.setCause 6).raiseUp 1415).domainLost domain))
  else .next s

/-- REFCLK_LOSS (R285): both rails low, by a path that needs no refclk edge; checked in cclk, or in gclk (assumption
64). -/
def execRefclkLoss (s : State) : Host.Outcome State Fault Refusal :=
  if (cclkUp s || s.rst.stable.getLsbD 8) && !s.rst.refLost then
    let s1 : State := { s with
      rst := { s.rst with refLost := true }
      safety := { s.safety with clkLoss := s.safety.clkLoss ||| 0x200 } }
    let s2 := s1.setCause 6
    .next { s2 with safety := { s2.safety with alarmP := false, alarmN := false } }
  else .next s

/-! ### The alarm's acknowledgement (R291) -/

/-- A rising SAFE_ACK (assumption 80). -/
def State.safeAck (s : State) : State :=
  if s.safety.cause ≠ 0 then
    ({ s with safety := { s.safety with ackRefused := satAdd 16 s.safety.ackRefused 1 } } : State).raiseUp 1418
  else if s.safety.asserted then
    (({ s with safety := { s.safety with
        asserted := false, alarmP := true, alarmN := false, ackAccepted := satAdd 16 s.safety.ackAccepted 1 } } :
      State).raiseUp 1417).log 0x11 0xFF (leBytes 4 (satAdd 16 s.safety.ackAccepted 1))
  else s

/-- SAFE_ACK (R56, R291): the pin's level as synchronised; only a rising edge acts. -/
def execSafeAck (level : Bool) (s : State) : Host.Outcome State Fault Refusal :=
  if s.rst.coldHeld || s.rst.warmHeld || s.rst.refLost then .next s
  else
    let s1 : State := { s with safety := { s.safety with ackLevel := level } }
    .next (if level && !s.safety.ackLevel then s1.safeAck else s1)

end Sys2Proof.Machine
end

