-- ==== Sys2Proof/Machine/Sensors.lean ====
section
/-! DEFINITION. The sensors, which run without the Gaffer (R353, R354). -/

namespace Sys2Proof.Machine

def State.modSensors (s : State) (g : Sensors → Sensors) : State :=
  { s with gaf := { s.gaf with sensors := g s.gaf.sensors } }

/-- A sensor event with its log record (Table 13-10). -/
def State.sensorEvent (s : State) (n value : Nat) : State :=
  (s.raiseUp n).log 0x20 0xFF (leBytes 2 n ++ leBytes 2 value)

/-- The higher of two signed samples. -/
def maxSigned (a b : BitVec 16) : BitVec 16 := if a.toInt ≤ b.toInt then b else a

/-- A thermal sample enters the history. -/
def Sensors.sample (x : Sensors) (n : Nat) (v : BitVec 16) : Sensors :=
  { x with temp := put x.temp n v, tempMax := put x.tempMax n (maxSigned (look v x.tempMax n) v) }

/-- THERMAL_SAMPLE (R354): an event at the threshold, when the last one was followed by a sample 2 °C below it. A sensor
that has failed its self-check reads 0x8000. -/
def execThermalSample (sensor : Nat) (value : BitVec 16) (s : State) : Host.Outcome State Fault Refusal :=
  let x := s.gaf.sensors
  if 4 ≤ sensor ∨ look false x.faulty sensor = true then .next s
  else
    let s1 := s.modSensors fun y => y.sample sensor value
    if look true x.armed sensor && decide (x.thermHigh.toInt ≤ value.toInt) then
      .next ((s1.modSensors fun y => { y with armed := put y.armed sensor false }).sensorEvent (1424 + sensor) value.toNat)
    else if value.toInt < x.thermHigh.toInt - 16 then
      .next (s1.modSensors fun y => { y with armed := put y.armed sensor true })
    else .next s1

/-- DROOP_EXCURSION (R354): the supply has fallen below DROOP_LOW; one event an excursion. -/
def execDroopExcursion (sensor : Nat) (millivolts : Nat) (s : State) : Host.Outcome State Fault Refusal :=
  let x := s.gaf.sensors
  if 3 ≤ sensor then .next s
  else
    let s1 := s.modSensors fun y =>
      { y with droopMin := put y.droopMin sensor (min (look millivolts y.droopMin sensor) millivolts) }
    if millivolts < x.droopLow ∧ look false x.excursion sensor = false then
      .next ((s1.modSensors fun y =>
        { y with excursion := put y.excursion sensor true
                 droopCnt := put y.droopCnt sensor (satAdd 16 (look 0 y.droopCnt sensor) 1) }).sensorEvent
          (1428 + sensor) millivolts)
    else .next s1

/-- DROOP_EXCURSION_END (R354): the supply has risen 10 mV above DROOP_LOW. -/
def execDroopExcursionEnd (sensor : Nat) (millivolts : Nat) (s : State) : Host.Outcome State Fault Refusal :=
  let x := s.gaf.sensors
  if sensor < 3 ∧ look false x.excursion sensor = true ∧ x.droopLow + 10 ≤ millivolts then
    .next (s.modSensors fun y => { y with excursion := put y.excursion sensor false })
  else .next s

/-- SENSOR_FAULT (R354): sensors 0 to 3 are the thermal ones (assumption 79). -/
def execSensorFault (sensor : Nat) (s : State) : Host.Outcome State Fault Refusal :=
  let s1 := if sensor < 4 then
      s.modSensors fun y => { y with temp := put y.temp sensor 0x8000, faulty := put y.faulty sensor true }
    else s
  .next (s1.sensorEvent 1431 (if sensor < 4 then 0x8000 else 0))

/-- CLOCK_FREQ_MEASURE (R353): 0 for a lost clock. -/
def execClockFreqMeasure (domain khz : Nat) (s : State) : Host.Outcome State Fault Refusal :=
  if domain < 9 then
    .next (s.modSensors fun y =>
      { y with clkKhz := put y.clkKhz domain (if s.rst.lost.getLsbD domain then 0 else khz) })
  else .next s

end Sys2Proof.Machine
end

