-- ==== Sys2Proof/Machine/Mailbox.lean ====
section
/-! DEFINITION. How the Gaffer takes and answers a mailbox command (R339 to R346, R363), and the commands that set up
channels and rings (R347 to R349, R332, R334), with GET_INFO, LOG_READ and the commands of the sensors. -/

namespace Sys2Proof.Machine

/-! ### Taking a command -/

/-- The log record that a command which changes state leaves (Table 13-10). -/
inductive Trace where
  | none
  /-- ADMIN_CONFIG with this many request bytes -/
  | config (bytes : Nat)
  | grant (op fn num : Nat)
  deriving DecidableEq, Repr

/-- How a command is decided (R341). -/
inductive Verdict where
  /-- refused with a status (Table 13-3) and the reply fields it carries -/
  | refuse (status : BitVec 8) (reply : List Byte)
  /-- applied and answered -/
  | apply (t : State) (reply : List Byte) (log : Trace)
  /-- applied, with the reply to follow -/
  | later (t : State) (w : MbWait) (log : Trace)
  /-- applied, and no reply is ever written (WARM_RESET) -/
  | silent (t : State)

def stBusy : BitVec 8 := 1
def stDenied : BitVec 8 := 2
/-- A second claim on a held resource (R18). -/
def stConflict : BitVec 8 := 3
def stBadArg : BitVec 8 := 4
def stNotIdle : BitVec 8 := 5
def stUnknown : BitVec 8 := 6

/-- The first of the checks that fails, in the order of R345. -/
def firstFail : List (Bool × BitVec 8) → Option (BitVec 8)
  | [] => none
  | (b, st) :: t => if b then some st else firstFail t

/-- Checks, then the effect. -/
def judge (checks : List (Bool × BitVec 8)) (ok : Verdict) : Verdict :=
  match firstFail checks with
  | some st => .refuse st []
  | none => ok

/-- The Gaffer takes this mailbox's command next. -/
def State.canTake (s : State) (mb : Nat) : Bool :=
  cclkUp s && hclkUp s && (s.gaf.state == .running || s.gaf.state == .recovery) && (s.mailbox mb).busy
    && s.goOrder.head? == some mb

/-- Who issues: the log's SOURCE. -/
def issuer (mb : Nat) : Nat := if mb = 16 then 0xFE else mb

/-- Leaves the record of an administrative command that is answered with `status` (R355; assumption 72). -/
def State.traceAs (s : State) (mb : Nat) (x : Mailbox) (status : BitVec 8) : Trace → State
  | .none => s
  | .config n =>
    if mb = 16 then
      s.log 0x31 0xFE (leBytes 2 x.code.toNat ++ [status, 0] ++ (reqBytes x 0 n ++ List.replicate 8 0).take 8)
    else s
  | .grant op fn num =>
    if mb = 16 then
      s.log 0x30 0xFE (leBytes 2 x.code.toNat ++ leBytes 1 op ++ leBytes 1 fn ++ leBytes 2 num ++ [status])
    else s

/-- The record of a command answered OK. -/
def State.trace (s : State) (mb : Nat) (x : Mailbox) (l : Trace) : State := s.traceAs mb x 0 l

/-- Sets APPLIED and the replay store of a mailbox (R341, R343); `waits` is what a reply that does not exist yet waits
for. -/
def State.markApplied (s : State) (mb : Nat) (reply : List Byte) (waits : MbWait) : State :=
  s.modMailbox mb fun x =>
    { x with applied := true
             store := some { code := x.code, seq := x.seq, reply := reply, ready := waits == .none, waits := waits } }

/-- Carries out a verdict. -/
def State.conclude (s : State) (mb : Nat) : Verdict → State
  | .refuse st reply => s.mbReply mb st reply
  | .apply t reply log => ((t.trace mb (s.mailbox mb) log).markApplied mb reply .none).mbReply mb 0 reply
  | .later t w log =>
    ((t.trace mb (s.mailbox mb) log).markApplied mb [] w).modMailbox mb fun x => { x with wait := w, again := false }
  | .silent t => t

/-- A command whose CODE and SEQ equal the stored ones is not executed again (R343). -/
def State.replayed (s : State) (mb : Nat) (r : Replay) : State :=
  if r.ready then (s.modMailbox mb fun x => { x with applied := true, replay := true }).mbReply mb 0 r.reply
  else s.modMailbox mb fun x => { x with applied := true, again := true, wait := r.waits }

/-- The turn of mailbox `mb`, for the row whose requests `mine` describes. `served` tells whether recovery mode serves
it on the administrative mailbox (R363), `adm` whether only the administrator may issue it (R344); `used` are the
request bytes that the form defines (assumption 73). -/
def State.turnOf (s : State) (mb : Nat) (mine : Mailbox → Bool) (served adm : Bool) (used : List (Nat × Nat))
    (body : State → Mailbox → Verdict) : State :=
  let x := s.mailbox mb
  if !(s.canTake mb && mine x) then s
  else
    let s1 : State := { s with goOrder := s.goOrder.drop 1
                               goTied := if s.goTied.contains mb then [] else s.goTied }
    let fresh := s1.modMailbox mb fun y => { y with wait := .none, again := false }
    match x.store with
    | some r => if r.code = x.code ∧ r.seq = x.seq then s1.replayed mb r else go fresh x
    | none => go fresh x
where
  go (t : State) (x : Mailbox) : State :=
    if t.gaf.recovery && !(served && mb == 16) then t.mbReply mb stDenied []
    else if adm && mb != 16 then t.mbReply mb stDenied []
    else if !reqZeroOutside x used then t.mbReply mb stBadArg []
    else t.conclude mb (body t x)

/-- Function that an F command acts for (R344). -/
def actFn (mb : Nat) (x : Mailbox) : Nat := if mb = 16 then reqByte x 0 else mb

/-- The command's code, and its OP byte at `i`. -/
def isCmd (code : Nat) (x : Mailbox) : Bool := x.code.toNat == code
def isForm (code i op : Nat) (x : Mailbox) : Bool := isCmd code x && reqByte x i == op

/-! ### Information -/

/-- GET_INFO (R381). -/
def execGetInfo (mb : Nat) (s : State) : Host.Outcome State Fault Refusal :=
  .next (s.turnOf mb (isCmd 0x0001) true false [] fun t _ =>
    .apply t
      (leBytes 4 0x0201 ++ leBytes 4 t.gaf.fwVersion.toNat ++ leBytes 4 (t.gValue 0x004).toNat
        ++ ((List.range 4).map fun i => leBytes 4 (t.gValue (0x008 + 4 * i)).toNat).flatten
        ++ leBytes 1 t.gaf.slot ++ leBytes 1 (b2n t.gaf.fromSram) ++ leBytes 1 (b2n t.gaf.recovery)
        ++ leBytes 1 (issuer mb) ++ leBytes 4 t.gaf.actSeq) .none)

/-- The codes of Table 13-4 that the member implements (R27 to R29, R344). -/
def codeKnown (m : Member) (c : Nat) : Bool :=
  if c = 0x0030 ∨ c = 0x0031 then m.hasCullet
  else if c = 0x0050 ∨ c = 0x0051 then m.hasXezan
  else if c = 0x0060 then m.safetyFull
  else
    [0x0001, 0x0002, 0x0010, 0x0011, 0x0012, 0x0013, 0x0020, 0x0021, 0x0040, 0x0041, 0x0042, 0x0061, 0x0070, 0x0071,
      0x0080, 0x0081, 0x0090, 0x0091, 0x0092].contains c

/-- UNKNOWN_COMMAND (R344); in recovery mode it is answered DENIED as every command but four is (R363). -/
def execUnknownCommand (mb : Nat) (s : State) : Host.Outcome State Fault Refusal :=
  .next (s.turnOf mb (fun x => !codeKnown s.member x.code.toNat) false false [(0, 256)] fun _ _ =>
    .refuse stUnknown [])

/-- The reply of SENSOR_READ (Table 13-8). -/
def State.sensorReply (s : State) : List Byte :=
  let x := s.gaf.sensors
  ((List.range 4).map fun i => leBytes 2 (look 0 x.temp i).toNat).flatten
    ++ ((List.range 4).map fun i => leBytes 2 (look 0 x.tempMax i).toNat).flatten
    ++ ((List.range 3).map fun i => leBytes 2 (look 0 x.droopMin i)).flatten
    ++ ((List.range 3).map fun i => leBytes 2 (look 0 x.droopCnt i)).flatten
    ++ ((List.range 9).map fun i => leBytes 4 (look 0 x.clkKhz i)).flatten
    ++ leBytes 2 x.thermHigh.toNat ++ leBytes 2 x.droopLow

/-- SENSOR_READ READ (R353); an OP not defined is refused. -/
def execSensorRead (mb : Nat) (s : State) : Host.Outcome State Fault Refusal :=
  .next (s.turnOf mb (fun x => isCmd 0x0070 x && reqByte x 0 != 1 && reqByte x 0 != 2) false false [(0, 1)] fun t x =>
    judge [(reqByte x 0 != 0, stBadArg)] (.apply t t.sensorReply .none))

/-- SENSOR_READ SET (R354). -/
def execSensorSet (mb : Nat) (s : State) : Host.Outcome State Fault Refusal :=
  .next (s.turnOf mb (isForm 0x0070 0 1) false true [(0, 1), (4, 4)] fun t x =>
    let t1 := t.modSensors fun y => { y with thermHigh := BitVec.ofNat 16 (reqField x 4 2), droopLow := reqField x 6 2 }
    .apply t1 t1.sensorReply (.config 8))

/-- SENSOR_READ CLEAR (R354). -/
def execSensorClear (mb : Nat) (s : State) : Host.Outcome State Fault Refusal :=
  .next (s.turnOf mb (isForm 0x0070 0 2) false true [(0, 1)] fun t _ =>
    let t1 := t.modSensors fun y => { y with tempMax := [], droopMin := [], droopCnt := [] }
    .apply t1 t1.sensorReply (.config 8))

/-- LOG_READ (R355). -/
def execLogRead (mb : Nat) (s : State) : Host.Outcome State Fault Refusal :=
  .next (s.turnOf mb (isCmd 0x0071) true true [(0, 5)] fun t x =>
    let next := t.gaf.logNext
    let oldest := next - 2048
    let from_ := max (reqField x 0 4) oldest
    let n := min (reqByte x 4) (next - from_)
    let rec_ := fun i =>
      match t.gaf.logs.find? fun e => e.1 == (from_ + i) % 2048 with
      | some e => LogRec.bytes e.2 (from_ + i)
      | none => List.replicate 32 0
    judge [(reqByte x 4 == 0 || decide (7 < reqByte x 4) || decide (next < reqField x 0 4), stBadArg)]
      (.apply t (leBytes 4 next ++ leBytes 4 oldest ++ leBytes 1 n ++ List.replicate 23 0
        ++ ((List.range n).map rec_).flatten) .none))

/-! ### Functions and benches (R332, R334, R349) -/

/-- FUNC_ENABLE with ENABLE 1. -/
def execFuncEnable (mb : Nat) (s : State) : Host.Outcome State Fault Refusal :=
  .next (s.turnOf mb (fun x => isCmd 0x0002 x && reqByte x 1 != 0) false true [(0, 2)] fun t x =>
    let f := reqByte x 0
    judge [(!t.member.fnPresent f || reqByte x 1 != 1, stBadArg)]
      (.apply ((t.modFn f fun y => { y with enabled := true }).readyOne f) []
        (if (t.fn f).enabled then .none else .config 8)))

/-- FUNC_ENABLE with ENABLE 0. -/
def execFuncDisable (mb : Nat) (s : State) : Host.Outcome State Fault Refusal :=
  .next (s.turnOf mb (isForm 0x0002 1 0) false true [(0, 2)] fun t x =>
    let f := reqByte x 0
    let off := t.modFn f fun y => { y with enabled := false }
    judge [(!t.member.fnPresent f, stBadArg)]
      (if (t.fn f).resetting then .later off (.resetDone f) (.config 8)
       else if (t.fn f).enabled then .later (t.settle (off.fnReset f)) (.resetDone f) (.config 8)
       else .apply t [] .none))

/-- FUNC_RESET. -/
def execFuncReset (mb : Nat) (s : State) : Host.Outcome State Fault Refusal :=
  .next (s.turnOf mb (isCmd 0x0090) false false [(0, 1)] fun t x =>
    let f := actFn mb x
    judge [(!t.member.fnPresent f, stBadArg), ((t.fn f).resetting, stBusy)]
      (.later (t.settle (t.fnReset f)) (.resetDone f) (.config 8)))

/-- The bench is idle (R334). -/
def State.benchIdle (s : State) (b : Nat) : Bool :=
  (s.bench b).laneCells == 0 && (s.bench b).drainCells == 0
    && s.chans.all fun e => e.1 / 16 != b || (e.2.started.isEmpty && e.2.ring.accepted.isEmpty && s.chanLoad e.1 == 0
        && !e.2.cpl.outstanding)

/-- BENCH_RESET (R334). -/
def execBenchReset (mb : Nat) (s : State) : Host.Outcome State Fault Refusal :=
  .next (s.turnOf mb (isCmd 0x0091) false true [(0, 1)] fun t x =>
    let b := reqByte x 0
    judge [(decide (t.member.benches ≤ b), stBadArg), (!t.benchIdle b, stNotIdle)]
      (.later (t.modBench b fun q => { q with rd := {}, wr := {}, scan := 0, resetting := true }) (.bench b)
        (.config 8)))

/-- WARM_RESET (R315, R347, R349): the command is logged, and the reset is asserted. -/
def execWarmReset (mb : Nat) (s : State) : Host.Outcome State Fault Refusal :=
  .next (s.turnOf mb (isCmd 0x0092) false true [(0, 4)] fun t x =>
    judge [(reqField x 0 4 != 0x5741524D, stBadArg)] (.silent ((t.trace mb x (.config 8)).warmAssert 3)))

/-! ### Channels and rings (R68, R347, R348) -/

/-- Routes from the sources that meet `q` become none. -/
def State.dropSources (s : State) (q : Nat → Bool) : State :=
  { s with ev := { s.ev with routes := s.ev.routes.filter fun e => !q e.1 } }

/-- CHAN_ASSIGN OP 1. -/
def execChanAssign (mb : Nat) (s : State) : Host.Outcome State Fault Refusal :=
  .next (s.turnOf mb (fun x => isCmd 0x0010 x && reqByte x 3 != 0) false true [(0, 4)] fun t x =>
    let f := reqByte x 0
    let sl := reqByte x 1
    let p := reqByte x 2
    let same := t.pchOf f sl == some p
    judge
      [(!t.member.fnPresent f || !t.member.slotPresent sl || !t.member.chanPresent p || reqByte x 3 != 1, stBadArg),
       (!same && ((t.chan p).owner.isSome || (t.pchOf f sl).isSome), stConflict)]
      (if same then .apply t [] .none
       else
         .apply (t.modChan p fun c =>
           { owner := some (f, sl), ageBound := c.ageBound, leadLimit := c.leadLimit }) [] (.grant 1 f p)))

/-- Nothing of a channel is running or waiting (R348). -/
def State.chanQuiet (s : State) (p : Nat) : Bool :=
  let c := s.chan p
  (c.state == .idle || c.state == .stopped || c.state == .halted) && !c.halt.pending && c.started.isEmpty
    && s.chanLoad p == 0 && !c.cpl.outstanding && c.cpl.queue.isEmpty && (s.reqsOf p).isEmpty

/-- CHAN_ASSIGN OP 0 (assumption 76). -/
def execChanUnassign (mb : Nat) (s : State) : Host.Outcome State Fault Refusal :=
  .next (s.turnOf mb (isForm 0x0010 3 0) false true [(0, 4)] fun t x =>
    let f := reqByte x 0
    let sl := reqByte x 1
    let p := reqByte x 2
    let same := t.pchOf f sl == some p
    let free := (t.pchOf f sl).isNone && (t.chan p).owner.isNone
    judge
      [(!t.member.fnPresent f || !t.member.slotPresent sl || !t.member.chanPresent p, stBadArg),
       (!same && !free, stConflict), (same && !t.chanQuiet p, stNotIdle)]
      (if free then .apply t [] .none
       else
         .apply ((t.modChan p fun c => { ageBound := c.ageBound, leadLimit := c.leadLimit }).dropSources fun n =>
           decide (n / 8 = p)) [] (.grant 0 f p)))

/-- A channel holds an unfinished descriptor (R68). -/
def Chan.unfinished (c : Chan) : Bool := c.ring.h != c.ring.t

/-- The configuration that a CHAN_CONFIG request names (Table 13-6). -/
def chanCfgOf (x : Mailbox) : ChanCfg :=
  { ringMode := decide (reqByte x 2 % 2 = 1), cplRingMode := decide (reqByte x 2 / 2 % 2 = 1),
    cplCoherent := decide (reqByte x 2 / 4 % 2 = 1), cplRing := reqByte x 3, ceiling := reqByte x 4,
    weight := reqByte x 5, burst := reqByte x 6, maxOut := reqByte x 7, coalCount := reqField x 8 2,
    coalTime := reqField x 10 2, paceSrc := reqByte x 12, paceNum := reqByte x 13, paceDepth := reqByte x 14,
    cplAddr := reqField x 16 8 }

/-- A field lies outside its range (R347). -/
def ChanCfg.bad (c : ChanCfg) (flags : Nat) : Bool :=
  decide (7 < flags) || decide (15 < c.cplRing) || decide (3 < c.ceiling) || c.weight == 0 || c.burst == 0
    || decide (64 < c.burst) || c.maxOut == 0 || decide (128 < c.maxOut) || c.coalCount == 0
    || decide (256 < c.coalCount) || decide (3 < c.paceSrc) || (c.paceSrc == 1 && decide (63 < c.paceNum))
    || (c.paceSrc == 2 && decide (15 < c.paceNum)) || c.paceDepth == 0 || decide (15 < c.paceDepth)
    || decide (c.cplAddr % 4 ≠ 0) || decide (2 ^ 52 ≤ c.cplAddr)

/-- STATE after a CHAN_CONFIG (R347). -/
def Chan.configured (c : Chan) (cfg : ChanCfg) : Chan :=
  { c with
    cfg := cfg, credit := 0, wantsSignal := none
    state := if cfg.ringMode = c.cfg.ringMode then c.state
             else if cfg.ringMode && c.ring.bound then .running else .idle }

/-- CHAN_CONFIG. -/
def execChanConfig (mb : Nat) (s : State) : Host.Outcome State Fault Refusal :=
  .next (s.turnOf mb (isCmd 0x0011) false false [(0, 15), (16, 8)] fun t x =>
    let f := actFn mb x
    let cfg := chanCfgOf x
    let p := (t.pchOf f (reqByte x 1)).getD 0
    let c := t.chan p
    judge
      [(!t.member.fnPresent f || !t.member.slotPresent (reqByte x 1) || cfg.bad (reqByte x 2)
          || (cfg.cplRingMode && !(look {} (t.fn f).rings cfg.cplRing).bound), stBadArg),
       ((t.pchOf f (reqByte x 1)).isNone
          || (cfg.paceSrc == 1 && (look {} t.ev.timers cfg.paceNum).holder != some f)
          || (cfg.paceSrc == 2 && look none t.ev.trigIn cfg.paceNum != some f), stDenied),
       (c.unfinished || !c.started.isEmpty || c.direct.due, stNotIdle)]
      (.apply (t.modChan p fun c => c.configured cfg) [] (.config 8)))

/-- A ring region of `n` bytes that its rule refuses: misaligned, or above the address space (R68). -/
def regionBad (base n : Nat) : Bool := decide (base % 4096 ≠ 0) || decide (2 ^ 52 < base + n)

/-- A ring bound anew (R68): every index is zero; RING_STALE_SEEN and PARK_COUNT keep their values (Table 3-8). -/
def Ring.rebind (r : Ring) (order base : Nat) (coherent : Bool) : Ring :=
  { bound := true, order := order, coherent := coherent, base := base, staleSeen := r.staleSeen
    parkCount := r.parkCount }

/-- RING_BIND (R68, R347). -/
def execRingBind (mb : Nat) (s : State) : Host.Outcome State Fault Refusal :=
  .next (s.turnOf mb (isCmd 0x0012) false false [(0, 4), (8, 8)] fun t x =>
    let f := actFn mb x
    let k := reqByte x 2
    let base := reqField x 8 8
    let p := (t.pchOf f (reqByte x 1)).getD 0
    judge
      [(!t.member.fnPresent f || !t.member.slotPresent (reqByte x 1) || decide (k < 2) || decide (16 < k)
          || decide (1 < reqByte x 3) || regionBad base (64 * 2 ^ k), stBadArg),
       ((t.pchOf f (reqByte x 1)).isNone || !(t.chan p).cfg.ringMode, stDenied),
       ((t.chan p).unfinished, stNotIdle)]
      (.apply (t.modChan p fun c =>
        { c with state := .running
                 ring := c.ring.rebind k base (decide (reqByte x 3 = 1)) }) []
        (.config 8)))

/-- A completion ring bound anew: its indices are zero; CR_STAT.FULL_SEEN and WAIT_COUNT keep their values, which no rule
clears here (assumption 101). -/
def CplRing.rebind (r : CplRing) (order base : Nat) (coherent : Bool) : CplRing :=
  { bound := true, order := order, coherent := coherent, base := base, fullSeen := r.fullSeen
    waitCount := r.waitCount }

/-- The channels of function `f` that use completion ring `r`. -/
def Chan.usesRing (f r : Nat) (c : Chan) : Bool :=
  c.owner.map Prod.fst == some f && c.cfg.cplRingMode && c.cfg.cplRing == r

/-- A record whose ring is bound anew moves no CR_TAIL (assumption 101). -/
def Chan.ringGone (c : Chan) : Chan := { c with cpl := { c.cpl with flyingSlot := none } }

/-- CPL_RING_BIND (R347). -/
def execCplRingBind (mb : Nat) (s : State) : Host.Outcome State Fault Refusal :=
  .next (s.turnOf mb (isCmd 0x0013) false false [(0, 4), (8, 8)] fun t x =>
    let f := actFn mb x
    let r := reqByte x 1
    let k := reqByte x 2
    let base := reqField x 8 8
    let busy := t.chans.any fun e => e.2.usesRing f r && (e.2.unfinished || e.2.cpl.waiting)
    let t1 : State := { t with chans := t.chans.map fun e => (e.1, if e.2.usesRing f r then e.2.ringGone else e.2) }
    judge
      [(!t.member.fnPresent f || decide (15 < r) || decide (k < 4) || decide (16 < k) || decide (1 < reqByte x 3)
          || regionBad base (16 * 2 ^ k), stBadArg),
       (busy, stNotIdle)]
      (.apply (t1.modRing f r fun y => y.rebind k base (decide (reqByte x 3 = 1))) [] (.config 8)))

/-! ### Freshness and safety configuration (R268, R290) -/

/-- FRESH_SET. -/
def execFreshSet (mb : Nat) (s : State) : Host.Outcome State Fault Refusal :=
  .next (s.turnOf mb (fun x => s.member.safetyFull && isCmd 0x0060 x) false true [(0, 1), (4, 8)] fun t x =>
    let p := reqByte x 0
    judge
      [(!t.member.chanPresent p || decide (reqField x 4 4 < 1000) || decide (65535000 < reqField x 8 4), stBadArg)]
      (.apply (t.modChan p fun c =>
        { c with ageBound := BitVec.ofNat 32 (reqField x 4 4), leadLimit := BitVec.ofNat 32 (reqField x 8 4) }) []
        (.config 8)))

/-- SAFETY_CONFIG. An ALARM_EN bit of a function that the member lacks is accepted: it names no part (assumption 102). -/
def execSafetyConfig (mb : Nat) (s : State) : Host.Outcome State Fault Refusal :=
  .next (s.turnOf mb (isCmd 0x0061) false true [(0, 2), (4, 4)] fun t x =>
    judge [(decide (reqField x 4 4 < 25) || decide (16777215 < reqField x 4 4), stBadArg)]
      (.apply { t with safety := { t.safety with alarmEn := BitVec.ofNat 16 (reqField x 0 2),
                                                 stallLimit := reqField x 4 4 } } [] (.config 8)))

end Sys2Proof.Machine
end

