-- ==== Sys2Proof/Machine/Grants.lean ====
section
/-! DEFINITION. The mailbox commands of shared resources: stream ports (R196, R197, R205), the pool (R217, R226), timers
and triggers (R149, R350, R352, R383), event routes and vectors (R171, R172, R351), windows and peers (R243, R257). -/

namespace Sys2Proof.Machine

/-! ### Stream ports -/

/-- The port that a STREAM_CONFIG leaves; the XOFF state goes on only where enable and direction stay (R196, R197). That of
an outbound port which is disabled or made inbound is cleared uncounted, as R197 says of inbound ports (assumption
103). -/
def Port.configured (x : Port) (holder flags reserve limit : Nat) : Port :=
  let en := decide (flags % 2 = 1)
  let out := decide (2 ≤ flags)
  { x with holder := some holder, enable := en, dirOut := out, reserve := reserve, limit := limit
           xoff := en && x.enable && out == x.dirOut && x.xoff }

/-- STREAM_CONFIG that grants or reconfigures. -/
def execStreamConfig (mb : Nat) (s : State) : Host.Outcome State Fault Refusal :=
  .next (s.turnOf mb (fun x => isCmd 0x0020 x && reqByte x 1 != 0xFF) false true [(0, 3), (4, 4)] fun t x =>
    let p := reqByte x 0
    let h := reqByte x 1
    let y := t.port p
    let res := reqField x 4 2
    let lim := reqField x 6 2
    let z := y.configured h (reqByte x 2) res lim
    let t1 := t.setPort p z
    let t2 := if z.enable && !(y.enable && z.dirOut == y.dirOut) then t1.compareWm p else t1
    judge
      [(!t.member.portPresent p || !t.member.fnPresent h || decide (3 < reqByte x 2) || decide (res < 4)
          || decide (65280 < res) || decide (lim < res) || decide (65280 < lim) || decide (lim * 64 < y.highWm), stBadArg),
       (y.holder.isSome && y.holder != some h, stConflict),
       (decide (t.member.reservable < t.cruReserved - y.reserve + res), stDenied),
       (((z.enable != y.enable || z.dirOut != y.dirOut) && (t.portHolds p || t.portNamed p)) || decide (lim < y.cells),
        stNotIdle)]
      (.apply t2 (leBytes 4 t2.cruFree) (.grant 0 h p)))

/-- STREAM_CONFIG with HOLDER 0xFF: of what R196 lists, and nothing else; DIR keeps its value. -/
def execStreamRevoke (mb : Nat) (s : State) : Host.Outcome State Fault Refusal :=
  .next (s.turnOf mb (isForm 0x0020 1 0xFF) false true [(0, 2)] fun t x =>
    let p := reqByte x 0
    let y := t.port p
    let t1 := (t.setPort p { y with holder := none, enable := false, reserve := 0, limit := 0
                                    highWm := 0, lowWm := 0, xoff := false }).dropSources fun n =>
      decide (1024 ≤ n) && decide (n < 1280) && decide ((n - 1024) / 4 = p)
    judge [(!t.member.portPresent p, stBadArg), (y.holder.isSome && (t.portHolds p || t.portNamed p), stNotIdle)]
      (if y.holder.isNone then .apply t (leBytes 4 t.cruFree) .none
       else .apply t1 (leBytes 4 t1.cruFree) (.grant 0 0xFF p)))

/-- WM_SET (R205). -/
def execWmSet (mb : Nat) (s : State) : Host.Outcome State Fault Refusal :=
  .next (s.turnOf mb (isCmd 0x0021) false false [(0, 2), (4, 8)] fun t x =>
    let f := actFn mb x
    let p := reqByte x 1
    let hi := reqField x 4 4
    let lo := reqField x 8 4
    judge
      [(!t.member.fnPresent f || !t.member.portPresent p || decide (hi ≤ lo) || decide ((t.port p).limit * 64 < hi),
        stBadArg),
       ((t.port p).holder != some f, stDenied)]
      (.apply ((t.modPort p fun y => { y with highWm := hi, lowWm := lo }).compareWm p) [] (.config 8)))

/-! ### The pool -/

/-- Σ RESERVE with function `f`'s replaced. -/
def State.reserveSum (s : State) (f res : Nat) : Nat :=
  ((List.range 16).map fun g => if g = f then res else (s.fn g).reserve).sum

/-- QUOTA_SET (R226). -/
def execQuotaSet (mb : Nat) (s : State) : Host.Outcome State Fault Refusal :=
  .next (s.turnOf mb (fun x => s.member.hasCullet && isCmd 0x0030 x) false true [(0, 1), (4, 14)] fun t x =>
    let f := reqByte x 0
    let res := reqField x 4 4
    let ceil := reqField x 8 4
    let t1 := t.modFn f fun y =>
      { y with reserve := res, ceiling := ceil, lowMark := reqField x 12 4, gobWait := reqField x 16 2 }
    judge
      [(!t.member.fnPresent f || decide (ceil < res) || decide (t.cul.count < res) || decide (t.cul.count < ceil)
          || decide (2 ^ 28 ≤ reqField x 12 4), stBadArg),
       (t.cul.sweep, stBusy),
       (decide (t.cul.count - t.cul.quar < t.reserveSum f res) || (t.cul.quota && decide (t1.cuFree < t1.unusedSum)),
        stDenied)]
      (.apply (t.settle t1) [] (.config 8)))

/-- POOL_MODE FCFS. -/
def execPoolModeFcfs (mb : Nat) (s : State) : Host.Outcome State Fault Refusal :=
  .next (s.turnOf mb (fun x => s.member.hasCullet && isForm 0x0031 0 0 x) false true [(0, 1)] fun t _ =>
    .apply (t.settle { t with cul := { t.cul with quota := false } }) (leBytes 4 t.cuFree)
      (if t.cul.quota then .config 8 else .none))

/-- POOL_MODE QUOTA. -/
def execPoolModeQuota (mb : Nat) (s : State) : Host.Outcome State Fault Refusal :=
  .next (s.turnOf mb (fun x => s.member.hasCullet && isForm 0x0031 0 1 x) false true [(0, 1)] fun t _ =>
    judge [(t.cul.sweep, stBusy), (decide (t.cuFree < t.unusedSum), stDenied)]
      (.apply (t.settle { t with cul := { t.cul with quota := true } }) (leBytes 4 t.cuFree)
        (if t.cul.quota then .none else .config 8)))

/-- Two regions share a byte. -/
def overlap (a n b m : Nat) : Bool := decide (a < b + m) && decide (b < a + n)

/-- The pool after INIT (R217). -/
def State.poolInit (s : State) (count pool meta_ stack : Nat) : State :=
  let c := s.cul
  ({ s with
    cul := { c with poolBase := pool, metaBase := meta_, stackBase := stack, count := count, fresh := 0, quota := false
                    quar := 0, stack := [], onBlock := 0, quarantined := [], records := [], freeing := [], forced := [] }
    fns := s.fns.map fun e => (e.1, { e.2 with charge := 0 }) } : State).raise 1463

/-- POOL_MODE INIT; an OP not defined is refused. -/
def execPoolModeInit (mb : Nat) (s : State) : Host.Outcome State Fault Refusal :=
  .next (s.turnOf mb (fun x => s.member.hasCullet && isCmd 0x0031 x && decide (1 < reqByte x 0)) false true
    [(0, 1), (4, 28)] fun t x =>
      let n := reqField x 4 4
      let pool := reqField x 8 8
      let meta_ := reqField x 16 8
      let stack := reqField x 24 8
      judge
        [(reqByte x 0 != 2 || n == 0 || decide (2 ^ t.member.gobBits < n) || regionBad pool (4096 * n)
            || regionBad meta_ (16 * n) || regionBad stack (4 * n) || overlap pool (4096 * n) meta_ (16 * n)
            || overlap pool (4096 * n) stack (4 * n) || overlap meta_ (16 * n) stack (4 * n), stBadArg),
         (t.cul.sweep, stBusy),
         (decide (t.cul.stack.length + t.cul.quarantined.length < t.cul.fresh), stNotIdle)]
        (.apply (t.settle (t.poolInit n pool meta_ stack)) (leBytes 4 n) (.config 8)))

/-! ### Timers and triggers -/

def State.timer (s : State) (n : Nat) : Timer := look {} s.ev.timers n
def State.setTimer (s : State) (n : Nat) (x : Timer) : State :=
  { s with ev := { s.ev with timers := put s.ev.timers n x } }

/-- The reply of SET and READ (R350). -/
def Timer.reply (t : Timer) : List Byte := leBytes 8 t.next ++ leBytes 4 t.missed ++ leBytes 1 (b2n (!t.spent))

/-- A gate of a slot names the source, or a started WAIT_TRIG is armed on it (Table 13-7). -/
def State.gateUsed (s : State) (kind n : Nat) : Bool :=
  s.chans.any fun e => (e.2.cfg.paceSrc == kind && e.2.cfg.paceNum == n)
    || e.2.started.any fun w => w.armed && !w.acted && w.desc.gate == kind && w.desc.gateNum == n

/-- TIMER_SET SET (R149); an OP not defined is refused. -/
def execTimerSet (mb : Nat) (s : State) : Host.Outcome State Fault Refusal :=
  .next (s.turnOf mb (fun x => isCmd 0x0040 x && (reqByte x 1 == 0 || decide (3 < reqByte x 1))) false false
    [(0, 3), (8, 16)] fun t x =>
      let f := actFn mb x
      let n := reqByte x 2
      let per := reqField x 16 8
      let y : Timer := { t.timer n with start := reqField x 8 8, period := per, next := reqField x 8 8, armed := true,
                                             spent := false }
      judge
        [(reqByte x 1 != 0 || !t.member.fnPresent f || decide (63 < n)
            || (per != 0 && (decide (per < 100) || decide (2 ^ 48 ≤ per))), stBadArg),
         ((t.timer n).holder != some f, stDenied)]
        (.apply (t.setTimer n { y with missed := 0 }) y.reply (.config 8)))

/-- TIMER_SET READ (R350). -/
def execTimerRead (mb : Nat) (s : State) : Host.Outcome State Fault Refusal :=
  .next (s.turnOf mb (isForm 0x0040 1 1) false false [(0, 3)] fun t x =>
    let f := actFn mb x
    let n := reqByte x 2
    judge [(!t.member.fnPresent f || decide (63 < n), stBadArg), ((t.timer n).holder != some f, stDenied)]
      (.apply (t.setTimer n { t.timer n with missed := 0 }) (t.timer n).reply .none))

/-- TIMER_SET GRANT (R352). -/
def execTimerGrant (mb : Nat) (s : State) : Host.Outcome State Fault Refusal :=
  .next (s.turnOf mb (isForm 0x0040 1 2) false true [(0, 3)] fun t x =>
    let f := reqByte x 0
    let n := reqByte x 2
    let h := (t.timer n).holder
    judge [(!t.member.fnPresent f || decide (63 < n), stBadArg), (h.isSome && h != some f, stConflict)]
      (if h = some f then .apply t [] .none else .apply (t.setTimer n { holder := some f }) [] (.grant 2 f n)))

/-- TIMER_SET REVOKE (R383). -/
def execTimerRevoke (mb : Nat) (s : State) : Host.Outcome State Fault Refusal :=
  .next (s.turnOf mb (isForm 0x0040 1 3) false true [(0, 3)] fun t x =>
    let f := reqByte x 0
    let n := reqByte x 2
    let h := (t.timer n).holder
    judge
      [(!t.member.fnPresent f || decide (63 < n), stBadArg), (h.isSome && h != some f, stConflict),
       (h.isSome && t.gateUsed 1 n, stNotIdle)]
      (if h.isNone then .apply t [] .none else .apply (t.setTimer n {}) [] (.grant 3 f n)))

/-- The party that FN names: a function, or 16 for the administrator (0xFE); `none` for neither. -/
def State.party (s : State) (fn : Nat) : Option Nat :=
  if fn = 0xFE then some 16 else if s.member.fnPresent fn then some fn else none

/-- Routes that target `r` become none. -/
def State.dropTarget (s : State) (r : Route) : State :=
  { s with ev := { s.ev with routes := s.ev.routes.filter fun e => e.2 != r } }

/-- The holder of a trigger (kind 0 TRIG_IN, 1 TRIG_OUT). -/
def State.trigHolder (s : State) (kind n : Nat) : Option Nat :=
  if kind = 0 then look none s.ev.trigIn n else (s.tout n).holder

def State.setTrig (s : State) (kind n : Nat) (h : Option Nat) : State :=
  if kind = 0 then { s with ev := { s.ev with trigIn := put s.ev.trigIn n h } }
  else s.setTout n { s.tout n with holder := h, merged := 0 }

/-- A TRIG_ROUTE request that its ranges refuse. -/
def State.trigBad (s : State) (x : Mailbox) : Bool :=
  decide (1 < reqByte x 2) || decide (15 < reqByte x 3) || (s.party (reqByte x 0)).isNone
    || (reqByte x 2 == 0 && reqByte x 0 == 0xFE)

/-- TRIG_ROUTE GRANT (R352); an OP not defined is refused. -/
def execTrigGrant (mb : Nat) (s : State) : Host.Outcome State Fault Refusal :=
  .next (s.turnOf mb (fun x => isCmd 0x0041 x && reqByte x 1 != 3) false true [(0, 4)] fun t x =>
    let who := t.party (reqByte x 0)
    let h := t.trigHolder (reqByte x 2) (reqByte x 3)
    judge [(reqByte x 1 != 2 || t.trigBad x, stBadArg), (h.isSome && h != who, stConflict)]
      (if h = who then .apply t [] .none
       else .apply (t.setTrig (reqByte x 2) (reqByte x 3) who) [] (.grant 2 (reqByte x 0) (reqByte x 3))))

/-- TRIG_ROUTE REVOKE (R383). -/
def execTrigRevoke (mb : Nat) (s : State) : Host.Outcome State Fault Refusal :=
  .next (s.turnOf mb (isForm 0x0041 1 3) false true [(0, 4)] fun t x =>
    let who := t.party (reqByte x 0)
    let kind := reqByte x 2
    let n := reqByte x 3
    let h := t.trigHolder kind n
    judge
      [(t.trigBad x, stBadArg), (h.isSome && h != who, stConflict),
       (h.isSome && kind == 0 && t.gateUsed 2 n, stNotIdle)]
      (if h.isNone then .apply t [] .none
       else
         .apply (if kind = 0 then t.setTrig kind n none else (t.setTrig kind n none).dropTarget (.trigOut n)) []
           (.grant 3 (reqByte x 0) n)))

/-! ### Events -/

/-- The party that an EVENT_ROUTE ROUTE or VECTOR acts for. -/
def State.eventParty (s : State) (mb : Nat) (x : Mailbox) : Option Nat :=
  if mb = 16 then s.party (reqByte x 0) else some mb

/-- A source that no rule allows: out of range, reserved, or of an absent part (R351). -/
def sourceBad (m : Member) (n : Nat) : Bool :=
  decide (1476 ≤ n) || (decide (1420 ≤ n) && decide (n ≤ 1423)) || (decide (n < 1024) && !m.chanPresent (n / 8))
    || (decide (1024 ≤ n) && decide (n < 1280) && !m.portPresent ((n - 1024) / 4))
    || (decide (1280 ≤ n) && decide (n < 1408) && !m.fnPresent ((n - 1280) / 8))

/-- The owner of a source (R169). -/
def State.sourceOwner (s : State) (n : Nat) : Option Nat :=
  if n < 1024 then s.fnOfChan (n / 8)
  else if n < 1280 then (s.port ((n - 1024) / 4)).holder
  else if n < 1408 then some ((n - 1280) / 8)
  else some 16

/-- The holder of a device vector. -/
def State.vecHolder (s : State) (v : Nat) : Nat := if (s.vec v).admin then 16 else v / 128

/-- The device vector that a number names for a party. -/
def vecOf (who num : Nat) : Nat := if who = 16 then num else 128 * who + num

/-- The target that a ROUTE request names. -/
def routeOf (who : Nat) (x : Mailbox) : Route :=
  let num := reqField x 6 2
  let kind := reqByte x 4
  if kind = 1 then .int num
  else if kind = 2 then .vector (vecOf who num)
  else if kind = 3 then .trigOut num
  else if kind = 4 then .signal (if 1408 ≤ reqField x 2 2 then reqByte x 5 else who) num
  else .none

/-- A number outside its range. -/
def State.routeBad (s : State) (who : Nat) (x : Mailbox) : Bool :=
  let num := reqField x 6 2
  let kind := reqByte x 4
  decide (4 < kind) || (kind == 1 && decide (63 < num))
    || (kind == 2 && decide ((if who = 16 then 2048 else 128) ≤ num)) || (kind == 3 && decide (15 < num))
    || (kind == 4 && (decide (255 < num) || (decide (1408 ≤ reqField x 2 2) && !s.member.fnPresent (reqByte x 5))))

/-- The party holds the target. -/
def State.holdsTarget (s : State) (who : Nat) : Route → Bool
  | .none => true
  | .int w => look none s.ev.ints w == some who
  | .vector v => s.vecHolder v == who && decide (v < 128 * s.member.functions)
  | .trigOut n => (s.tout n).holder == some who
  | .signal _ _ => true

/-- EVENT_ROUTE ROUTE (R171, R351); an OP not defined is refused. -/
def execEventRoute (mb : Nat) (s : State) : Host.Outcome State Fault Refusal :=
  .next (s.turnOf mb (fun x => isCmd 0x0042 x && (reqByte x 1 == 0 || decide (3 < reqByte x 1))) false false [(0, 8)]
    fun t x =>
      let who := (t.eventParty mb x).getD 16
      let n := reqField x 2 2
      let r := routeOf who x
      judge
        [(reqByte x 1 != 0 || (t.eventParty mb x).isNone || sourceBad t.member n || t.routeBad who x, stBadArg),
         (t.sourceOwner n != some who || !t.holdsTarget who r, stDenied)]
        (.apply { t with ev := { t.ev with routes := put t.ev.routes n r } } [] (.config 8)))

/-- The mask bit of a vector is set or cleared; unmasking decides the write of its uncovered raises (R172, R351). -/
def State.setMask (s : State) (v : Nat) (on : Bool) : State :=
  (s.maskVec v on).decideVec v (s.vecMasked v)

/-- EVENT_ROUTE VECTOR (R172, R351): raises that no write covers are judged by the new COUNT and TIME. -/
def execEventVector (mb : Nat) (s : State) : Host.Outcome State Fault Refusal :=
  .next (s.turnOf mb (isForm 0x0042 1 1) false false [(0, 9), (16, 12)] fun t x =>
    let who := (t.eventParty mb x).getD 16
    let num := reqField x 2 2
    let v := vecOf who num
    let y : Vec := { t.vec v with addr := reqField x 16 8, data := BitVec.ofNat 32 (reqField x 24 4),
                                  count := reqField x 4 2, time := reqField x 6 2 }
    judge
      [((t.eventParty mb x).isNone || decide ((if who = 16 then 2048 else 128) ≤ num) || reqField x 4 2 == 0
          || decide (256 < reqField x 4 2) || decide (1 < reqByte x 8) || decide (reqField x 16 8 % 4 ≠ 0)
          || decide (2 ^ 52 ≤ reqField x 16 8), stBadArg),
       (t.vecHolder v != who || decide (128 * t.member.functions ≤ v), stDenied)]
      (.apply ((t.setVec v y).setMask v (reqByte x 8 == 1)) [] (.config 8)))

/-- An EVENT_ROUTE GRANT or REVOKE that its ranges refuse. -/
def State.eventBad (s : State) (x : Mailbox) : Bool :=
  let num := reqField x 4 2
  (s.party (reqByte x 0)).isNone || !(reqByte x 2 == 1 || reqByte x 2 == 2) || (reqByte x 2 == 1 && decide (63 < num))
    || (reqByte x 2 == 2 && decide (128 * s.member.functions ≤ num))

/-- The holder of an INT wire (kind 1) or a device vector (kind 2). -/
def State.eventHolder (s : State) (kind num : Nat) : Option Nat :=
  if kind = 1 then look none s.ev.ints num else some (s.vecHolder num)

/-- A route of the vector's function targets it. -/
def State.vecRouted (s : State) (v : Nat) : Bool := s.ev.routes.any fun e => e.2 == .vector v

/-- The administrator takes a vector: it starts masked, and its function's mask bit reads 1. -/
def State.takeVec (s : State) (v : Nat) : State :=
  (s.maskVec v true).setVec v { (s.maskVec v true).vec v with admin := true, mask := true }

/-- EVENT_ROUTE GRANT (R352). -/
def execEventGrant (mb : Nat) (s : State) : Host.Outcome State Fault Refusal :=
  .next (s.turnOf mb (isForm 0x0042 1 2) false true [(0, 3), (4, 2)] fun t x =>
    let who := t.party (reqByte x 0)
    let kind := reqByte x 2
    let num := reqField x 4 2
    let h := t.eventHolder kind num
    judge
      [(t.eventBad x, stBadArg),
       (h.isSome && h != who && (kind == 1 || who != some 16 || t.vecRouted num), stConflict)]
      (if h = who then .apply t [] .none
       else
         .apply (if kind = 1 then { t with ev := { t.ev with ints := put t.ev.ints num who } } else t.takeVec num) []
           (.grant 2 (reqByte x 0) num)))

/-- EVENT_ROUTE REVOKE (R383): a vector returns to its function. -/
def execEventRevoke (mb : Nat) (s : State) : Host.Outcome State Fault Refusal :=
  .next (s.turnOf mb (isForm 0x0042 1 3) false true [(0, 3), (4, 2)] fun t x =>
    let who := t.party (reqByte x 0)
    let kind := reqByte x 2
    let num := reqField x 4 2
    let h := t.eventHolder kind num
    let own := kind == 2 && !(t.vec num).admin
    judge
      [(t.eventBad x, stBadArg), (h.isSome && h != who, stConflict),
       (kind == 2 && (t.vec num).admin && (t.vec num).outstanding, stNotIdle)]
      (if h.isNone || own then .apply t [] .none
       else
         .apply (if kind = 1 then
            ({ t with ev := { t.ev with ints := put t.ev.ints num none } } : State).dropTarget (.int num)
                 else (t.setVec num { t.vec num with admin := false }).dropTarget (.vector num)) []
           (.grant 3 (reqByte x 0) num)))

/-! ### Xezan windows and peers -/

def State.setWindow (s : State) (f w : Nat) (x : Window) : State :=
  s.modFn f fun y => { y with windows := put y.windows w x }

/-- XEZAN_WINDOW with PAGES above 0 (R257). -/
def execXezanWindow (mb : Nat) (s : State) : Host.Outcome State Fault Refusal :=
  .next (s.turnOf mb (fun x => s.member.hasXezan && isCmd 0x0050 x && reqField x 16 4 != 0) false true [(0, 20)]
    fun t x =>
      let f := reqByte x 0
      let w := reqByte x 1
      let fl := reqByte x 2
      let base := reqField x 8 8
      let pages := reqField x 16 4
      judge
        [(!t.member.fnPresent f || decide (15 < w) || decide (15 < fl) || reqField x 4 4 == 0
            || decide (2 ^ 24 < pages) || regionBad base (4096 * pages), stBadArg),
         (decide (0 < (look {} (t.fn f).windows w).pages), stConflict)]
        (.apply (t.setWindow f w
          { pages := pages, base := base, read := decide (fl % 2 = 1), write := decide (fl / 2 % 2 = 1)
            coherent := decide (fl / 4 % 2 = 1), sigEn := decide (fl / 8 = 1), sigId := reqByte x 3
            token := BitVec.ofNat 32 (reqField x 4 4) }) [] (.config 4)))

/-- XEZAN_WINDOW with PAGES 0 (assumption 78). -/
def execXezanWindowUnbind (mb : Nat) (s : State) : Host.Outcome State Fault Refusal :=
  .next (s.turnOf mb (fun x => s.member.hasXezan && isCmd 0x0050 x && reqField x 16 4 == 0) false true
    [(0, 2), (16, 4)] fun t x =>
      let f := reqByte x 0
      let w := reqByte x 1
      judge [(!t.member.fnPresent f || decide (15 < w), stBadArg)]
        (.apply (t.setWindow f w {}) []
          (if 0 < (look {} (t.fn f).windows w).pages then .config 4 else .none)))

/-- The entry takes this value, and its sequence states their initial one (R243). -/
def State.setPeer (s : State) (e : Nat) (x : Peer) : State :=
  { s with xez := { s.xez with
    peers := put s.xez.peers e x
    send := s.xez.send.filter fun k => k.1 / 128 != e
    recv := s.xez.recv.filter fun k => k.1 / 128 != e } }

/-- XEZAN_PEER OP 1 (R243, R327); an OP not defined is refused. A FUNC_MASK bit of a function that the member lacks is
accepted: it names no part (assumption 102). -/
def execXezanPeer (mb : Nat) (s : State) : Host.Outcome State Fault Refusal :=
  .next (s.turnOf mb (fun x => s.member.hasXezan && isCmd 0x0051 x && reqByte x 1 != 0) false true
    [(0, 10), (16, 8)] fun t x =>
      let e := reqByte x 0
      let inst := reqField x 4 4
      judge
        [(reqByte x 1 != 1 || decide (t.member.xezanPorts ≤ reqByte x 2) || decide (7 < reqByte x 3)
            || decide (2 ^ 18 ≤ inst) || inst == t.opt.instanceId, stBadArg),
         (t.xez.peers.any fun q => q.1 != e && q.2.bound && q.2.inst == inst, stConflict),
         (t.opt.bad, stDenied)]
        (.apply (t.setPeer e
          { bound := true, inst := inst, port := reqByte x 2, retry := reqByte x 3
            funcMask := BitVec.ofNat 16 (reqField x 8 2), remoteFn := BitVec.ofNat 64 (reqField x 16 8) }) [] (.config 8)))

/-- XEZAN_PEER OP 0. -/
def execXezanPeerUnbind (mb : Nat) (s : State) : Host.Outcome State Fault Refusal :=
  .next (s.turnOf mb (fun x => s.member.hasXezan && isForm 0x0051 1 0 x) false true [(0, 2)] fun t x =>
    judge [(t.opt.bad, stDenied)]
      (.apply (t.setPeer (reqByte x 0) {}) []
        (if (look {} t.xez.peers (reqByte x 0)).bound then .config 8 else .none)))

end Sys2Proof.Machine
end

