-- ==== Sys2Proof/Machine/Firmware.lean ====
section
/-! DEFINITION. Firmware images: staging (R356 to R358) and activation (R359 to R361, R363). -/

namespace Sys2Proof.Machine

/-! ### Staging -/

/-- The inactive slot (R356). -/
def Gaffer.inactive (g : Gaffer) : Nat := 1 - g.slot

def Gaffer.setSlot (g : Gaffer) (slot : Nat) (x : Option FlashSlot) : Gaffer :=
  if slot = 0 then { g with slotA := x } else { g with slotB := x }

def Gaffer.slotView (g : Gaffer) (slot : Nat) : Option FlashSlot := if slot = 0 then g.slotA else g.slotB

/-- The inactive slot's contents as the Gaffer knows them. -/
def Gaffer.target (g : Gaffer) : FlashSlot := (g.slotView g.inactive).getD {}

/-- A flash step starts: its commands act on the inactive slot, and the reply follows its end (R358). -/
def State.flashStep (s : State) (mb : Nat) (ops : List FlashOp) (status : BitVec 8) (reply : List Byte) : State :=
  let g := s.gaf.setSlot s.gaf.inactive (some (ops.foldl (FlashOp.apply s.gaf.inactive) s.gaf.target))
  { s with gaf := { g with flashOps := ops, flashMb := some mb, flashStatus := status, flashReply := reply } }

/-- Leaves a mailbox waiting for the flash. -/
def State.waitFlash (s : State) (mb : Nat) (applied : Bool) : State :=
  s.modMailbox mb fun x => { x with applied := applied, wait := .flash }

/-- FW_STAGE BEGIN (R357); an OP not defined is refused. -/
def execFwStageBegin (mb : Nat) (s : State) : Host.Outcome State Fault Refusal :=
  .next (s.turnOf mb (fun x => isCmd 0x0080 x && (reqByte x 0 == 0 || decide (3 < reqByte x 0))) true true [(0, 1)]
    fun t x =>
      let t1 : State := { t with gaf := { t.gaf with staging := true, staged := 0, verified := none } }
      judge [(reqByte x 0 != 0, stBadArg), (t.gaf.act.isSome, stBusy)]
        (.silent ((((t1.trace mb x (.config 8)).flashStep mb (beginErases t.gaf.inactive) 0 []).waitFlash mb true))))

/-- FW_STAGE DATA (R357). -/
def execFwStageData (mb : Nat) (s : State) : Host.Outcome State Fault Refusal :=
  let len := reqField (s.mailbox mb) 8 2
  .next (s.turnOf mb (isForm 0x0080 0 1) true true [(0, 1), (4, 6), (16, len)] fun t x =>
    let off := reqField x 4 4
    let t1 : State := { t with gaf := { t.gaf with staged := t.gaf.staged + len } }
    let ops := pagePrograms 2 (slotBase t.gaf.inactive + off) (reqBytes x 16 len)
    judge
      [(!t.gaf.staging || decide (len < 4) || decide (240 < len) || decide (len % 4 ≠ 0)
          || off != t.gaf.staged || decide (131072 < off + len), stBadArg),
       (t.gaf.act.isSome, stBusy)]
      (.silent ((((t1.trace mb x (.config 8)).flashStep mb ops 0 []).waitFlash mb true))))

/-- FW_STAGE END (R357): the slot is read back and checked; OK with RESULT 0, else DENIED. Every status carries the reply
fields (R342); those of a BAD_ARG or BUSY describe the slot as it stands (assumption 104). -/
def execFwStageEnd (mb : Nat) (s : State) : Host.Outcome State Fault Refusal :=
  .next (s.turnOf mb (isForm 0x0080 0 2) true true [(0, 1)] fun t x =>
    let v := t.gaf.target
    let r := imageResult v.image
    let slot := t.gaf.inactive
    let st := if r = 0 then 0 else stDenied
    let reply := leBytes 4 r ++ leBytes 4 v.version.toNat ++ leBytes 4 v.length ++ leBytes 1 slot
    let t1 : State := { t with gaf := { t.gaf with staging := false, verified := if r = 0 then some v else none } }
    let t2 := (t1.traceAs mb x st (.config 8)).log 0x40 0xFE (leBytes 4 (r + 256 * slot) ++ leBytes 4 v.version.toNat)
    let t3 := if r = 0 then t2.raise 1452 else t2
    if !t.gaf.staging then .refuse stBadArg reply
    else if t.gaf.act.isSome then .refuse stBusy reply
    else .silent ((t3.flashStep mb [] st reply).waitFlash mb (decide (r = 0))))

/-- FW_STAGE CANCEL (R357): no flash step, answered at once. The slot has no eligible record since BEGIN. -/
def execFwStageCancel (mb : Nat) (s : State) : Host.Outcome State Fault Refusal :=
  .next (s.turnOf mb (isForm 0x0080 0 3) true true [(0, 1)] fun t _ =>
    judge [(t.gaf.act.isSome, stBusy)]
      (.apply { t with gaf := { t.gaf with staging := false, staged := 0 } } []
        (if t.gaf.staging then .config 8 else .none)))

/-- FLASH_OPERATION_DONE (R358): the reply of the flash step. -/
def execFlashOperationDone (s : State) : Host.Outcome State Fault Refusal :=
  match s.gaf.flashMb with
  | none => .next s
  | some m =>
    if !(s.gaf.state == .running || s.gaf.state == .recovery) then .next s
    else
      let s1 : State := { s with gaf := { s.gaf with flashMb := none, flashOps := [] } }
      let s2 := s1.modMailbox m fun x => { x with wait := .none }
      let s3 := if s.gaf.flashStatus = 0 then s2.markApplied m s.gaf.flashReply .none else s2
      .next (s3.mbReply m s.gaf.flashStatus s.gaf.flashReply)

/-! ### Activation -/

/-- FW_ACTIVATE (R359): the slot that the last END verified. -/
def execFwActivate (mb : Nat) (s : State) : Host.Outcome State Fault Refusal :=
  .next (s.turnOf mb (isCmd 0x0081) true true [(0, 1)] fun t x =>
    let slot := reqByte x 0
    if t.gaf.act.isSome then .refuse stBusy []
    else if t.gaf.verified.isNone || t.gaf.staging || slot != t.gaf.inactive then
      .refuse stDenied (activateReply t.gaf.fwVersion t.gaf.actSeq 0 0)
    else
      .silent (({ t with gaf := { t.gaf with act := some { mb := mb, slot := slot, step := .loading } } } :
        State).modMailbox mb fun y => { y with wait := .activation }))

/-- The activation ends, with its record and its reply. -/
def State.endActivation (s : State) (a : Activation) (status : BitVec 8) (reply : List Byte) : State :=
  let s1 : State := ({ s with gaf := { s.gaf with act := none } } : State).traceAs a.mb (s.mailbox a.mb) status (.config 8)
  let s2 := s1.modMailbox a.mb fun x => { x with wait := .none }
  (if status = 0 then s2.markApplied a.mb reply .none else s2).mbReply a.mb status reply

/-- FW_ACTIVATE_LOAD_DONE (R359 step 1). -/
def execFwActivateLoadDone (ok : Bool) (s : State) : Host.Outcome State Fault Refusal :=
  match s.gaf.act with
  | none => .next s
  | some a =>
    if a.step = .loading ∧ s.gaf.state = .running then
      if ok then .next { s with gaf := { s.gaf with act := some { a with step := .loaded } } }
      else .next (s.endActivation a stDenied (activateReply s.gaf.fwVersion s.gaf.actSeq 0 0))
    else .next s

/-- A taken command other than the activation is unanswered. -/
def State.unanswered (s : State) (mb : Nat) : Bool :=
  (List.range 17).any fun m => m != mb && (s.mailbox m).busy && (s.mailbox m).wait != .none

/-- FW_ACTIVATE_PAUSE (R359 step 2): the Gaffer stops taking commands and resets into the standby bank. -/
def execFwActivatePause (s : State) : Host.Outcome State Fault Refusal :=
  match s.gaf.act with
  | none => .next s
  | some a =>
    if a.step = .loaded ∧ s.gaf.state = .running ∧ s.unanswered a.mb = false then
      let s1 : State := { s with gaf := { s.gaf with
        state := .paused, bank := 1 - s.gaf.bank, act := some { a with step := .paused }
        resActivate := satAdd 8 s.gaf.resActivate 1 } }
      .next ((s1.raiseUp 1449).log 0x03 0xFF [3])
    else .next s

/-- FW_ACTIVATE_RESUME (R359 step 3): the new firmware takes commands; `micros` is the pause, at most 200 (R360). -/
def execFwActivateResume (micros : Nat) (s : State) : Host.Outcome State Fault Refusal :=
  match s.gaf.act with
  | none => .next s
  | some a =>
    if a.step = .paused ∧ micros ≤ 200 then
      let s1 : State := { s with gaf := { s.gaf with
        state := .running, fromSram := true, act := some { a with step := .resumed, pauseUs := micros }
        fwVersion := match s.gaf.verified with | some v => v.version | none => s.gaf.fwVersion } }
      .next s1.flushLog
    else .next s

/-- FW_ACTIVATE_TIMEOUT (R361): the previous firmware resumes; `micros` is what the reply gives as the pause. -/
def execFwActivateTimeout (micros : Nat) (s : State) : Host.Outcome State Fault Refusal :=
  match s.gaf.act with
  | none => .next s
  | some a =>
    if a.step = .paused then
      let s1 : State := { s with gaf := { s.gaf with state := .running, fromSram := true } }
      .next (((s1.flushLog.raiseUp 1449).log 0x03 0xFF [4]).rollBack micros)
    else .next s

/-- Programs the activation record: the slot becomes active (R359 step 4). -/
def State.programRecord (s : State) (a : Activation) (v : FlashSlot) : State :=
  let seq := s.gaf.actSeq + 1
  let bank := if s.gaf.recovery then 0 else s.gaf.bank
  { s with gaf := { s.gaf.setSlot a.slot (some { v with recordBytes := actRecord seq v.digestLo }) with
    slot := a.slot, actSeq := seq, fwVersion := v.version, fromSram := !s.gaf.recovery, verified := none
    image := some { slot := a.slot, bank := bank, version := v.version, seq := seq } } }

/-- FW_ACTIVATE_RECORD (R359 step 4, R363): in recovery mode the record is programmed and the image is booted from flash;
its reply is written by the new firmware. -/
def execFwActivateRecord (s : State) : Host.Outcome State Fault Refusal :=
  match s.gaf.act, s.gaf.verified with
  | some a, some v =>
    if (a.step = .resumed ∧ s.gaf.state = .running) ∨ (a.step = .loading ∧ s.gaf.state = .recovery) then
      let s1 := s.programRecord a v
      let s2 := if s.gaf.recovery then
          s1.gafferUp { slot := a.slot, bank := 0, version := v.version, seq := s.gaf.actSeq + 1 } false
        else s1
      .next (((s2.raise 1453).logActivated 0 a.slot v.version a.pauseUs).endActivation a 0
        (activateReply v.version (s.gaf.actSeq + 1) a.pauseUs 0))
    else .next s
  | _, _ => .next s

end Sys2Proof.Machine
end

