-- ==== Sys2Proof/Machine/Dispatch.lean ====
section
/-! DEFINITION. The effect of each command: one arm per row of the opcode table (R314). -/

namespace Sys2Proof.Machine

def exec (i : Instr) (s : State) : Host.Outcome State Fault Refusal :=
  match i with
  | .registerWrite addr data strb prot => Sys2Proof.Machine.execRegisterWrite addr data strb prot s
  | .apbHoleAccess addr write => Sys2Proof.Machine.execApbHoleAccess addr write s
  | .timeSnapshot win prot => Sys2Proof.Machine.execTimeSnapshot win prot s
  | .sCauseClear data strb prot => Sys2Proof.Machine.execSCauseClear data strb prot s
  | .haltSeenClear fn slot strb => Sys2Proof.Machine.execHaltSeenClear fn slot strb s
  | .doorbell fn slot data strb => Sys2Proof.Machine.execDoorbell fn slot data strb s
  | .pushAreaWrite fn slot word data strb => Sys2Proof.Machine.execPushAreaWrite fn slot word data strb s
  | .pushCommit fn slot data strb => Sys2Proof.Machine.execPushCommit fn slot data strb s
  | .crHeadWrite fn ring data strb => Sys2Proof.Machine.execCrHeadWrite fn ring data strb s
  | .sigRaise fn sig strb => Sys2Proof.Machine.execSigRaise fn sig strb s
  | .spFlush fn port strb => Sys2Proof.Machine.execSpFlush fn port strb s
  | .inboundFlushEdge port => Sys2Proof.Machine.execInboundFlushEdge port s
  | .outboundFlushEdge port => Sys2Proof.Machine.execOutboundFlushEdge port s
  | .restart fn strb => Sys2Proof.Machine.execRestart fn strb s
  | .go fn slot circ strb => Sys2Proof.Machine.execGo fn slot circ strb s
  | .lehr fn slot circ strb => Sys2Proof.Machine.execLehr fn slot circ strb s
  | .abort fn slot circ strb => Sys2Proof.Machine.execAbort fn slot circ strb s
  | .resume fn slot circ strb => Sys2Proof.Machine.execResume fn slot circ strb s
  | .gobShare fn slot toFn strb => Sys2Proof.Machine.execGobShare fn slot toFn strb s
  | .gobRelease fn strb => Sys2Proof.Machine.execGobRelease fn strb s
  | .gobFree fn slot strb => Sys2Proof.Machine.execGobFree fn slot strb s
  | .gobBadOp fn data strb => Sys2Proof.Machine.execGobBadOp fn data strb s
  | .gobOpDone fn => Sys2Proof.Machine.execGobOpDone fn s
  | .forceFree handle strb prot => Sys2Proof.Machine.execForceFree handle strb prot s
  | .forceFreeApply gob => Sys2Proof.Machine.execForceFreeApply gob s
  | .fetchResult pch beats resp => Sys2Proof.Machine.execFetchResult pch beats resp s
  | .reReadReady pch => Sys2Proof.Machine.execReReadReady pch s
  | .descriptorStart pch ctx => Sys2Proof.Machine.execDescriptorStart pch ctx s
  | .schedulerGrant bench dir pick addrFault faulty => Sys2Proof.Machine.execSchedulerGrant bench dir pick addrFault faulty s
  | .addressStateScan bench mismatch => Sys2Proof.Machine.execAddressStateScan bench mismatch s
  | .readResponse port axid beat resp => Sys2Proof.Machine.execReadResponse port axid beat resp s
  | .writeResponse port axid resp => Sys2Proof.Machine.execWriteResponse port axid resp s
  | .reheat txn => Sys2Proof.Machine.execReheat txn s
  | .descriptorComplete pch => Sys2Proof.Machine.execDescriptorComplete pch s
  | .coalTimeExpiry pch => Sys2Proof.Machine.execCoalTimeExpiry pch s
  | .recordAllocate pch => Sys2Proof.Machine.execRecordAllocate pch s
  | .completionWriteResponse port axid resp => Sys2Proof.Machine.execCompletionWriteResponse port axid resp s
  | .msiTimeExpiry vec => Sys2Proof.Machine.execMsiTimeExpiry vec s
  | .trigOutPulse n => Sys2Proof.Machine.execTrigOutPulse n s
  | .lehrStopComplete pch => Sys2Proof.Machine.execLehrStopComplete pch s
  | .abortComplete pch => Sys2Proof.Machine.execAbortComplete pch s
  | .channelHalt pch => Sys2Proof.Machine.execChannelHalt pch s
  | .passStart pch => Sys2Proof.Machine.execPassStart pch s
  | .passComplete pch => Sys2Proof.Machine.execPassComplete pch s
  | .timerFire timer => Sys2Proof.Machine.execTimerFire timer s
  | .trigIn n => Sys2Proof.Machine.execTrigIn n s
  | .timeSample value valid => Sys2Proof.Machine.execTimeSample value valid s
  | .timeStall => Sys2Proof.Machine.execTimeStall s
  | .timeStallWithdrawn => Sys2Proof.Machine.execTimeStallWithdrawn s
  | .staleEdge pch => Sys2Proof.Machine.execStaleEdge pch s
  | .packetRelease port => Sys2Proof.Machine.execPacketRelease port s
  | .segmentCheck pch idx seg readFlip writeFlip => Sys2Proof.Machine.execSegmentCheck pch idx seg readFlip writeFlip s
  | .stallWatchdogFire pch => Sys2Proof.Machine.execStallWatchdogFire pch s
  | .clockLoss domain => Sys2Proof.Machine.execClockLoss domain s
  | .refclkLoss => Sys2Proof.Machine.execRefclkLoss s
  | .lockstepMismatch => Sys2Proof.Machine.execLockstepMismatch s
  | .safeAck level => Sys2Proof.Machine.execSafeAck level s
  | .scrubCell ctx found => Sys2Proof.Machine.execScrubCell ctx found s
  | .scrubRewrite bank written => Sys2Proof.Machine.execScrubRewrite bank written s
  | .inboundBeatAccept port beat => Sys2Proof.Machine.execInboundBeatAccept port beat s
  | .inboundBeatPop port => Sys2Proof.Machine.execInboundBeatPop port s
  | .outboundBeatAccept port found => Sys2Proof.Machine.execOutboundBeatAccept port found s
  | .gobGrant => Sys2Proof.Machine.execGobGrant s
  | .gobWaitExpiry pch => Sys2Proof.Machine.execGobWaitExpiry pch s
  | .chainCommit pch => Sys2Proof.Machine.execChainCommit pch s
  | .handleResolve pch ctx => Sys2Proof.Machine.execHandleResolve pch ctx s
  | .gobMemberFreed gob ctx => Sys2Proof.Machine.execGobMemberFreed gob ctx s
  | .freeStackSpill => Sys2Proof.Machine.execFreeStackSpill s
  | .freeStackFill => Sys2Proof.Machine.execFreeStackFill s
  | .sweepRecord record head => Sys2Proof.Machine.execSweepRecord record head s
  | .xezanPlaceGrant found => Sys2Proof.Machine.execXezanPlaceGrant found s
  | .xezanFrameSent port => Sys2Proof.Machine.execXezanFrameSent port s
  | .xezanRequestReceive port frame linkError space => Sys2Proof.Machine.execXezanRequestReceive port frame linkError space s
  | .xezanRequestTurn peer chan => Sys2Proof.Machine.execXezanRequestTurn peer chan s
  | .xezanHoldTimeout peer chan => Sys2Proof.Machine.execXezanHoldTimeout peer chan s
  | .xezanResponseSend port job found => Sys2Proof.Machine.execXezanResponseSend port job found s
  | .xezanResponseArrival port frame linkError => Sys2Proof.Machine.execXezanResponseArrival port frame linkError s
  | .xezanRequestTimeout req => Sys2Proof.Machine.execXezanRequestTimeout req s
  | .coldReset => Sys2Proof.Machine.execColdReset s
  | .warmResetPin => Sys2Proof.Machine.execWarmResetPin s
  | .debugReset => Sys2Proof.Machine.execDebugReset s
  | .resetRelease => Sys2Proof.Machine.execResetRelease s
  | .domainRelease domain => Sys2Proof.Machine.execDomainRelease domain s
  | .optWordRead word => Sys2Proof.Machine.execOptWordRead word s
  | .optAckTimeout => Sys2Proof.Machine.execOptAckTimeout s
  | .crucibleFillDone => Sys2Proof.Machine.execCrucibleFillDone s
  | .gafferBootDone sramOk sfdp flash => Sys2Proof.Machine.execGafferBootDone sramOk sfdp flash s
  | .gafferWatchdog => Sys2Proof.Machine.execGafferWatchdog s
  | .resetDone fn => Sys2Proof.Machine.execResetDone fn s
  | .benchResetDone bench => Sys2Proof.Machine.execBenchResetDone bench s
  | .thermalSample sensor value => Sys2Proof.Machine.execThermalSample sensor value s
  | .droopExcursion sensor millivolts => Sys2Proof.Machine.execDroopExcursion sensor millivolts s
  | .sensorFault sensor => Sys2Proof.Machine.execSensorFault sensor s
  | .clockFreqMeasure domain khz => Sys2Proof.Machine.execClockFreqMeasure domain khz s
  | .getInfo mb => Sys2Proof.Machine.execGetInfo mb s
  | .unknownCommand mb => Sys2Proof.Machine.execUnknownCommand mb s
  | .funcEnable mb => Sys2Proof.Machine.execFuncEnable mb s
  | .funcDisable mb => Sys2Proof.Machine.execFuncDisable mb s
  | .chanAssign mb => Sys2Proof.Machine.execChanAssign mb s
  | .chanUnassign mb => Sys2Proof.Machine.execChanUnassign mb s
  | .chanConfig mb => Sys2Proof.Machine.execChanConfig mb s
  | .ringBind mb => Sys2Proof.Machine.execRingBind mb s
  | .cplRingBind mb => Sys2Proof.Machine.execCplRingBind mb s
  | .streamConfig mb => Sys2Proof.Machine.execStreamConfig mb s
  | .streamRevoke mb => Sys2Proof.Machine.execStreamRevoke mb s
  | .wmSet mb => Sys2Proof.Machine.execWmSet mb s
  | .quotaSet mb => Sys2Proof.Machine.execQuotaSet mb s
  | .poolModeFcfs mb => Sys2Proof.Machine.execPoolModeFcfs mb s
  | .poolModeQuota mb => Sys2Proof.Machine.execPoolModeQuota mb s
  | .poolModeInit mb => Sys2Proof.Machine.execPoolModeInit mb s
  | .timerSet mb => Sys2Proof.Machine.execTimerSet mb s
  | .timerRead mb => Sys2Proof.Machine.execTimerRead mb s
  | .timerGrant mb => Sys2Proof.Machine.execTimerGrant mb s
  | .timerRevoke mb => Sys2Proof.Machine.execTimerRevoke mb s
  | .trigGrant mb => Sys2Proof.Machine.execTrigGrant mb s
  | .trigRevoke mb => Sys2Proof.Machine.execTrigRevoke mb s
  | .eventRoute mb => Sys2Proof.Machine.execEventRoute mb s
  | .eventVector mb => Sys2Proof.Machine.execEventVector mb s
  | .eventGrant mb => Sys2Proof.Machine.execEventGrant mb s
  | .eventRevoke mb => Sys2Proof.Machine.execEventRevoke mb s
  | .xezanWindow mb => Sys2Proof.Machine.execXezanWindow mb s
  | .xezanWindowUnbind mb => Sys2Proof.Machine.execXezanWindowUnbind mb s
  | .xezanPeer mb => Sys2Proof.Machine.execXezanPeer mb s
  | .xezanPeerUnbind mb => Sys2Proof.Machine.execXezanPeerUnbind mb s
  | .freshSet mb => Sys2Proof.Machine.execFreshSet mb s
  | .safetyConfig mb => Sys2Proof.Machine.execSafetyConfig mb s
  | .sensorRead mb => Sys2Proof.Machine.execSensorRead mb s
  | .sensorSet mb => Sys2Proof.Machine.execSensorSet mb s
  | .sensorClear mb => Sys2Proof.Machine.execSensorClear mb s
  | .logRead mb => Sys2Proof.Machine.execLogRead mb s
  | .fwStageBegin mb => Sys2Proof.Machine.execFwStageBegin mb s
  | .fwStageData mb => Sys2Proof.Machine.execFwStageData mb s
  | .fwStageEnd mb => Sys2Proof.Machine.execFwStageEnd mb s
  | .fwStageCancel mb => Sys2Proof.Machine.execFwStageCancel mb s
  | .flashOperationDone => Sys2Proof.Machine.execFlashOperationDone s
  | .fwActivate mb => Sys2Proof.Machine.execFwActivate mb s
  | .fwActivateLoadDone ok => Sys2Proof.Machine.execFwActivateLoadDone ok s
  | .fwActivatePause => Sys2Proof.Machine.execFwActivatePause s
  | .fwActivateResume micros => Sys2Proof.Machine.execFwActivateResume micros s
  | .fwActivateTimeout micros => Sys2Proof.Machine.execFwActivateTimeout micros s
  | .fwActivateRecord => Sys2Proof.Machine.execFwActivateRecord s
  | .funcReset mb => Sys2Proof.Machine.execFuncReset mb s
  | .benchReset mb => Sys2Proof.Machine.execBenchReset mb s
  | .warmReset mb => Sys2Proof.Machine.execWarmReset mb s
  | .addressHandshake port shake => Sys2Proof.Machine.execAddressHandshake port shake s
  | .registerRead addr prot => Sys2Proof.Machine.execRegisterRead addr prot s
  | .droopExcursionEnd sensor millivolts => Sys2Proof.Machine.execDroopExcursionEnd sensor millivolts s

end Sys2Proof.Machine
end

