-- ==== Sys2Proof/Machine/Pins.lean ====
section
/-! DEFINITION. The test ports (R64 to R66) and the edges of clocks of which the table has no row: TCK, WRCK, tclk at the
time sampler (R59), and refclk at the time-input checker and the OPT port (R62). -/

namespace Sys2Proof.Machine

/-! ### The test access port (R64; assumption 96) -/

/-- The controller's next state at a rising TCK edge, as IEEE 1149.1 draws it. -/
def TapPhase.next (tms : Bool) : TapPhase → TapPhase
  | .reset => if tms then .reset else .idle
  | .idle => if tms then .selectDr else .idle
  | .selectDr => if tms then .selectIr else .captureDr
  | .captureDr => if tms then .exit1Dr else .shiftDr
  | .shiftDr => if tms then .exit1Dr else .shiftDr
  | .exit1Dr => if tms then .updateDr else .pauseDr
  | .pauseDr => if tms then .exit2Dr else .pauseDr
  | .exit2Dr => if tms then .updateDr else .shiftDr
  | .updateDr => if tms then .selectDr else .idle
  | .selectIr => if tms then .reset else .captureIr
  | .captureIr => if tms then .exit1Ir else .shiftIr
  | .shiftIr => if tms then .exit1Ir else .shiftIr
  | .exit1Ir => if tms then .updateIr else .pauseIr
  | .pauseIr => if tms then .exit2Ir else .pauseIr
  | .exit2Ir => if tms then .updateIr else .shiftIr
  | .updateIr => if tms then .selectDr else .idle

/-- The instruction that a code names: all ones and every unused code are BYPASS, as IEEE 1149.1 has them, and so are
SAMPLE/PRELOAD and EXTEST (R64). -/
def tapDecode (bits : List Bool) : TapInstr :=
  if bits.all id then .bypass
  else
    match Config.tapCode bits with
    | some .idcode => .idcode
    | some .debug => .debug
    | _ => .bypass

/-- The instruction as it acts: with DEBUG_LOCK, the private ones behave as BYPASS (R66). -/
def tapActing (lock : Bool) : TapInstr → TapInstr
  | .idcode => .idcode
  | .debug => if lock then .bypass else .debug
  | _ => .bypass

/-- What the selected data register captures, in the order of TDO. -/
def tapCapture (id : W32) : TapInstr → List Bool
  | .idcode => (List.range 32).map fun i => id.getLsbD i
  | .debug => Config.tapPrivate
  | _ => [false]

/-- One TCK cycle: the rising edge captures, shifts and moves the controller; the falling edge updates the instruction
and TDO. -/
def Tap.cycle (t : Tap) (lock : Bool) (id : W32) (tms tdi : Bool) : Tap :=
  let p := t.phase.next tms
  let ir := match t.phase with
    | .captureIr => true :: List.replicate (Config.tapLength - 1) false
    | .shiftIr => t.irShift.drop 1 ++ [tdi]
    | _ => t.irShift
  let dr := match t.phase with
    | .captureDr => tapCapture id (tapActing lock t.instr)
    | .shiftDr => t.drShift.drop 1 ++ [tdi]
    | _ => t.drShift
  { phase := p, irShift := ir, drShift := dr
    instr := match p with
      | .reset => .idcode
      | .updateIr => tapDecode ir
      | _ => t.instr
    tdo := match p with
      | .shiftIr => ir.headD false
      | .shiftDr => dr.headD false
      | _ => t.tdo }

/-! ### The wrapper (R65; assumption 96) -/

/-- The instruction as it acts: with DEBUG_LOCK, all but WS_BYPASS act as WS_BYPASS (R66). -/
def wrapActing (lock : Bool) (i : WrapInstr) : WrapInstr := if lock then .bypass else i

/-- The data register that the instruction selects is the boundary register. -/
def wrapBoundary : WrapInstr → Bool
  | .extest | .intest => true
  | _ => false

/-- One WRCK cycle with SelectWIR high: the instruction register. -/
def Wrapper.wirCycle (x : Wrapper) (lock shift update wsi : Bool) : Wrapper :=
  let ir := if shift then (x.irShift.drop 1 ++ [wsi]) else x.irShift
  if update then
    let i := (Config.wrapCode ir).getD .bypass
    { x with irShift := ir, instr := i, wso := ir.headD false, selfTest := wrapActing lock i == .selfTest }
  else { x with irShift := ir, wso := ir.headD false }

/-- One WRCK cycle with SelectWIR low: the selected data register; `n` names the moment of a capture. -/
def Wrapper.wdrCycle (x : Wrapper) (n : Nat) (lock capture shift update wsi : Bool) : Wrapper :=
  if wrapBoundary (wrapActing lock x.instr) then
    let b := if capture then Config.wrapCapture n else if shift then x.boundary.drop 1 ++ [wsi] else x.boundary
    { x with boundary := b, applied := if update then b else x.applied, wso := b.headD false }
  else { x with bypass := if shift then wsi else x.bypass, wso := if shift then wsi else x.bypass }

/-- The functional ports are under the wrapper's control, driven or fed from its boundary register (R65). -/
def State.isolated (s : State) : Bool := wrapBoundary (wrapActing s.opt.debugLock s.wrapper.instr)

/-! ### Edges -/

/-- The refclk domain runs: no reset that reaches it is held, and refclk is there (R320, R285). -/
def refclkUp (s : State) : Bool := !s.rst.coldHeld && !s.rst.warmHeld && !s.rst.refLost

/-- What an edge does. tclk reaches the sampler once cclk is released (R320). -/
def State.edge (s : State) : PinEdge → State
  | .tck tms tdi => { s with tap := s.tap.cycle s.opt.debugLock s.idcode tms tdi }
  | .trst => { s with tap := {} }
  | .wrck selectWir capture shift update wsi =>
    { s with wrapper :=
        if selectWir then s.wrapper.wirCycle s.opt.debugLock shift update wsi
        else s.wrapper.wdrCycle s.now.cclk s.opt.debugLock capture shift update wsi }
  | .wrst => { s with wrapper := {} }
  | .tclk ns valid => if cclkUp s then { s with time := s.time.sampled ns valid } else s
  | .refclk => if refclkUp s then ({ s with time := s.time.checked } : State).optEdge else s

/-- The oldest waiting edge is met; with none, nothing changes. -/
def State.tick (s : State) : State :=
  match s.edges with
  | [] => s
  | e :: rest => ({ s with edges := rest } : State).edge e

end Sys2Proof.Machine
end

