-- ==== Sys2Proof/Safety.lean ====
section
/-! DEFINITION. What counts as a safe step, and the predicates on states that claims use: the canonical form of every
table, one channel per slot (R348), and the alarm (R288, R290). -/

namespace Sys2Proof.Machine

/-- The step answers a next state: no stop. -/
def SafeStep (s : State) : Prop := ∃ t, step s = .next t

/-! ### The canonical form: in every table the keys rise strictly, so that equal tables are equal data -/

def chansWf (l : Tbl Chan) : Prop := Tbl.wf l = true ∧ ∀ e ∈ l, Tbl.wf e.2.push = true

def fnWf (x : Fn) : Prop := Tbl.wf x.sigCnt = true ∧ Tbl.wf x.rings = true ∧ Tbl.wf x.windows = true

def fnsWf (l : Tbl Fn) : Prop := Tbl.wf l = true ∧ ∀ e ∈ l, fnWf e.2

def mailboxesWf (l : Tbl Mailbox) : Prop := Tbl.wf l = true ∧ ∀ e ∈ l, Tbl.wf e.2.data = true

def schedWf (x : Sched) : Prop := Tbl.wf x.cls = true ∧ ∀ e ∈ x.cls, Tbl.wf e.2.left = true

def benchWf (x : Bench) : Prop := schedWf x.rd ∧ schedWf x.wr

def benchesWf (l : Tbl Bench) : Prop := Tbl.wf l = true ∧ ∀ e ∈ l, benchWf e.2

def eventsWf (x : Events) : Prop :=
  Tbl.wf x.routes = true ∧ Tbl.wf x.ints = true ∧ Tbl.wf x.trigIn = true ∧ Tbl.wf x.trigOut = true
    ∧ Tbl.wf x.timers = true ∧ Tbl.wf x.vecs = true

def crucibleWf (x : Crucible) : Prop := Tbl.wf x.ce = true ∧ Tbl.wf x.ue = true

def xezanWf (x : Xezan) : Prop :=
  Tbl.wf x.peers = true ∧ Tbl.wf x.send = true ∧ Tbl.wf x.recv = true ∧ Tbl.wf x.turnPtr = true
    ∧ Tbl.wf x.sent = true

def sensorsWf (x : Sensors) : Prop :=
  Tbl.wf x.temp = true ∧ Tbl.wf x.tempMax = true ∧ Tbl.wf x.armed = true ∧ Tbl.wf x.faulty = true
    ∧ Tbl.wf x.droopMin = true ∧ Tbl.wf x.droopCnt = true ∧ Tbl.wf x.excursion = true ∧ Tbl.wf x.clkKhz = true

def gafferWf (x : Gaffer) : Prop := Tbl.wf x.logs = true ∧ sensorsWf x.sensors

/-- Every table of the state is in canonical form. -/
structure State.TablesWf (s : State) : Prop where
  opt : Tbl.wf s.opt.words = true
  chans : chansWf s.chans
  fns : fnsWf s.fns
  mailboxes : mailboxesWf s.mailboxes
  benches : benchesWf s.benches
  ports : Tbl.wf s.ports = true
  ev : eventsWf s.ev
  cru : crucibleWf s.cru
  cul : Tbl.wf s.cul.records = true
  xez : xezanWf s.xez
  gaf : gafferWf s.gaf

/-- No slot is mapped to two channels (R348, R366). -/
def State.OwnersDistinct (s : State) : Prop :=
  ∀ p q f, (s.chan p).owner = some f → (s.chan q).owner = some f → p = q

/-- A set cause keeps the alarm asserted, and an asserted alarm drives its P rail low (R288, R290). -/
def State.AlarmHolds (s : State) : Prop :=
  (s.safety.cause ≠ 0 → s.safety.asserted = true) ∧ (s.safety.asserted = true → s.safety.alarmP = false)

/-! ### When a register access takes effect at once -/

/-- The register port answers and its queue is popped: hclk and cclk run (R39). -/
def State.PortUp (s : State) : Prop := hclkUp s = true ∧ cclkUp s = true

/-- The window of function `f` is open and the function is not in reset (R332, R338). -/
def State.FnLive (s : State) (f : Nat) : Prop :=
  s.PortUp ∧ f < 16 ∧ s.member.fnPresent f = true ∧ (s.fn f).ready = true ∧ (s.fn f).resetting = false

/-- Slot `sl` of a live function is mapped to channel `p` (R366). -/
def State.SlotLive (s : State) (f sl p : Nat) : Prop :=
  s.FnLive f ∧ sl < 128 ∧ s.member.slotPresent sl = true ∧ s.pchOf f sl = some p

/-- Mailbox `mb` holds a request that is decided now: the Gaffer takes it, is not in recovery mode (R363), and the replay
store does not hold its CODE and SEQ (R340, R343, R363). -/
def State.Fresh (s : State) (mb : Nat) : Prop :=
  s.canTake mb = true ∧ s.gaf.recovery = false
    ∧ ∀ r, (s.mailbox mb).store = some r → ¬ (r.code = (s.mailbox mb).code ∧ r.seq = (s.mailbox mb).seq)

/-- Mailbox `mb` issues the command `code`, with zero in every byte outside `used` (R344). -/
def State.Issues (s : State) (mb code : Nat) (used : List (Nat × Nat)) : Prop :=
  s.Fresh mb ∧ (s.mailbox mb).code.toNat = code ∧ reqZeroOutside (s.mailbox mb) used = true

/-- The command of mailbox `mb` leaves the order of takes; it waits for nothing yet. -/
def State.takenBy (s : State) (mb : Nat) : State :=
  ({ s with goOrder := s.goOrder.drop 1, goTied := if s.goTied.contains mb then [] else s.goTied } :
    State).modMailbox mb fun y => { y with wait := .none, again := false }

/-- The outcome of mailbox `mb`'s command with this verdict (R341). -/
def State.decided (s : State) (mb : Nat) (v : Verdict) : Host.Outcome State Fault Refusal :=
  .next ((s.takenBy mb).conclude mb v)

/-- REG after a write that completes without an error (R39). -/
def Apb.written (a : Apb) : Apb := { prdata := a.prdata }

/-- A state whose register port has just completed a write. -/
def State.acked (s : State) : State := { s with apb := s.apb.written }

/-- The command ends in `t` with its access completed without an error; PRDATA is left open (assumption 33). -/
def State.Completes (s : State) (c : Instr) (t : State) : Prop :=
  ∃ d, exec c s = .next { t with apb := { prdata := d, pslverr := false } }

end Sys2Proof.Machine
end

