-- ==== Sys2Proof/Certificates/Slice0/Obligations.lean ====
section
/-! DEFINITION. The statements for the provers. -/

open Sys2Proof Sys2Proof.Machine

/-! ### The machine as a whole -/

/-- A step takes the oldest waiting command and executes it with the queue's rest; with no command waiting, the oldest
edge of a clock without a row is met, and with none of these either the block idles: the model's choices (assumptions 1,
94). -/
def Obligations.StepTakesFrontCommand : Prop :=
  (∀ (s : State) (c : Instr) (rest : List Instr), step { s with pending := c :: rest } = exec c { s with pending := rest })
  ∧ (∀ s : State, s.pending = [] → s.edges = [] → step s = .next s)
  ∧ ∀ (s : State) (e : PinEdge) (rest : List PinEdge), s.pending = [] → s.edges = e :: rest →
      step s = .next (({ s with edges := rest } : State).edge e)

/-- The model's choice (assumption 1), over every row of the table: a command always ends in a next state, never in a
fault or a refusal, and leaves the member's parameters and the other waiting commands. What the edge of a command
settles besides its own effect (`State.settle`: releases, watermarks, record reads, watchdogs, turns) waits while cclk
is down, and leaves the modes, rings, halt and completion registers of every channel and the registers outside the data
path. -/
def Obligations.EveryCommandAnswersANextState : Prop :=
  (∀ (c : Instr) (s : State), ∃ t, exec c s = .next t ∧ t.pending = s.pending ∧ t.member = s.member)
  ∧ ∀ s0 s : State, (cclkUp s = false → s0.settle s = s)
    ∧ (let t := s0.settle s;
       t.member = s.member ∧ t.pending = s.pending ∧ t.now = s.now ∧ t.time = s.time ∧ t.opt = s.opt ∧ t.rst = s.rst
        ∧ t.safety = s.safety ∧ t.gaf = s.gaf ∧ t.glob = s.glob ∧ t.mailboxes = s.mailboxes ∧ t.goOrder = s.goOrder
        ∧ t.xez = s.xez ∧ t.apb = s.apb ∧ t.regq = s.regq
        ∧ t.cul.records = s.cul.records ∧ t.cul.stack = s.cul.stack ∧ t.cul.freeing = s.cul.freeing
        ∧ ∀ p, (t.chan p).owner = (s.chan p).owner ∧ (t.chan p).state = (s.chan p).state
            ∧ (t.chan p).stopKind = (s.chan p).stopKind ∧ (t.chan p).stopIdx = (s.chan p).stopIdx
            ∧ (t.chan p).lastStatus = (s.chan p).lastStatus ∧ (t.chan p).cfg = (s.chan p).cfg
            ∧ (t.chan p).ring = (s.chan p).ring ∧ (t.chan p).direct = (s.chan p).direct
            ∧ (t.chan p).halt = (s.chan p).halt ∧ (t.chan p).cpl = (s.chan p).cpl ∧ (t.chan p).fresh = (s.chan p).fresh
            ∧ (t.chan p).started.map Work.serial = (s.chan p).started.map Work.serial
            ∧ (t.chan p).started.map Work.verdict = (s.chan p).started.map Work.verdict)

/-- Every table of the state stays in canonical form, so that equal registers, memories and queues are equal data. It
rests on assumption 8, the model's choices. -/
def Obligations.EveryStepKeepsTablesCanonical : Prop :=
  ∀ s t : State, s.TablesWf → step s = .next t → t.TablesWf

/-- R348, R366: no step maps one slot to two channels. -/
def Obligations.EveryStepKeepsOwnersDistinct : Prop :=
  ∀ s t : State, s.OwnersDistinct → step s = .next t → t.OwnersDistinct

/-- R288, R290: after every step, a set bit of S_CAUSE holds the alarm asserted, and an asserted alarm holds its P rail
low. -/
def Obligations.EveryStepKeepsAlarmHeld : Prop :=
  ∀ s t : State, s.AlarmHolds → step s = .next t → t.AlarmHolds

/-- The state after reset meets the three invariants. -/
def Obligations.ResetMeetsInvariants : Prop :=
  State.reset.TablesWf ∧ State.reset.OwnersDistinct ∧ State.reset.AlarmHolds

/-- Tables 5-8, 7-6, 7-7, 9-8, 10-5, 11-4, 12-8, R290, R319: reset values that the register tables give. -/
def Obligations.ResetValuesOfRegisters : Prop :=
  let s := State.reset;
  s.rst.coldHeld = true ∧ s.rst.stable = 0 ∧ s.rst.last = 1 ∧ s.rst.warmCount = 0 ∧ s.opt.loaded = false
    ∧ s.safety.cause = 0x8000 ∧ s.safety.asserted = true ∧ s.safety.alarmP = false ∧ s.safety.alarmN = false
    ∧ s.safety.alarmEn = 0xFFFF ∧ s.safety.stallLimit = 500
    ∧ (s.bench 0).capRd = 0xFFFF9F3F ∧ (s.bench 0).capWr = 0xFFFF9F3F ∧ (s.bench 0).laneRes = 1024
    ∧ (s.bench 0).laneLim = 4096 ∧ s.cru.scrub = 1024 ∧ s.cru.thresh = 16 ∧ s.xez.tmo = 2500 ∧ s.xez.hold = 1250
    ∧ s.glob.retryLimit = 3 ∧ s.cul.count = 0 ∧ s.cul.quota = false ∧ (s.fn 0).msiMask = BitVec.allOnes 128
    ∧ (s.chan 0).owner = none ∧ (s.port 0).enable = false ∧ s.time.valid = false ∧ s.gaf.state = .booting

/-- R324, R326, R327: the option map, and with it PMAP, the instance ID and DEBUG_LOCK, changes only at a cold reset and
at the reads and the timeout of its load. -/
def Obligations.OptionMapChangesOnlyAtItsLoad : Prop :=
  ∀ (c : Instr) (s t : State), exec c s = .next t → t.opt ≠ s.opt →
    c = .coldReset ∨ (∃ w, c = .optWordRead w) ∨ c = .optAckTimeout

/-- R217, R238: the bases and the size of the gob pool change only at a cold reset and at POOL_MODE INIT. It rests on
assumption 60, the model's choices. -/
def Obligations.PoolGeometryChangesOnlyAtInit : Prop :=
  ∀ (c : Instr) (s t : State), exec c s = .next t →
    (t.cul.poolBase ≠ s.cul.poolBase ∨ t.cul.metaBase ≠ s.cul.metaBase ∨ t.cul.stackBase ≠ s.cul.stackBase
      ∨ t.cul.count ≠ s.cul.count) → c = .coldReset ∨ ∃ mb, c = .poolModeInit mb

/-- R18, R348: a channel changes hands only by CHAN_ASSIGN, or at a reset or a clock loss that reaches the core. It
rests on assumption 60, the model's choices. -/
def Obligations.ChannelsChangeHandsOnlyByGrant : Prop :=
  ∀ (c : Instr) (s t : State) (p : Nat), exec c s = .next t → (t.chan p).owner ≠ (s.chan p).owner →
    c = .coldReset ∨ c = .warmResetPin ∨ c = .debugReset ∨ (∃ mb, c = .warmReset mb) ∨ (∃ d, c = .clockLoss d)
      ∨ (∃ mb, c = .chanAssign mb) ∨ ∃ mb, c = .chanUnassign mb

/-- R367: G_ID, G_VERSION and G_PARAM0 to G_PARAM3 read the same after every command, resets included, and the VN-128
shows the fields of Table 14-13. -/
def Obligations.IdentityRegistersAreConstant : Prop :=
  ∀ (c : Instr) (s t : State), exec c s = .next t →
    (∀ a ∈ [0x200000, 0x200004, 0x200008, 0x20000C, 0x200010, 0x200014], t.regValue a = s.regValue a)
    ∧ (s.member = Member.vn128 → [0x200000, 0x200004, 0x200008, 0x20000C, 0x200010, 0x200014].map s.regValue
        = [0x564E0128, 0x00040100, 0x08101008, 0x021B1608, 0xFD008003, 0x00080040])

/-- R14: a saturating counter counts up to its largest value and stays there. -/
def Obligations.SaturatingCountersStop : Prop :=
  ∀ width x n : Nat, (x + n ≤ 2 ^ width - 1 → satAdd width x n = x + n)
    ∧ (2 ^ width - 1 ≤ x + n → satAdd width x n = 2 ^ width - 1) ∧ satAdd width (2 ^ width - 1) n = 2 ^ width - 1

/-- R170, R171, R371: a raise sets the pending bit of its source and no other; unless its route delivers it further,
nothing else changes. -/
def Obligations.RaiseSetsItsPendingBit : Prop :=
  ∀ (s : State) (n m : Nat), n < 1476 → m < 1476 →
    (s.raise n).isPending m = (decide (m = n) || s.isPending m)
    ∧ ((s.route n = .none ∨ ∃ w, s.route n = .int w) → s.raise n = s.setPending n)
    ∧ (∀ v, s.route n = .vector v → s.raise n = (s.setPending n).raiseVec v)
    ∧ (∀ k, s.route n = .trigOut k → s.raise n
        = (s.setPending n).setTout k { s.tout k with queued := (s.tout k).queued + 1 })
    ∧ (∀ f k, s.route n = .signal f k → s.raise n = (s.setPending n).raiseSignal f k)

/-- R371: the pending bits of the global sources are shown in G_EVT0 to G_EVT2, with the reserved bits 0. -/
def Obligations.GlobalSourcesShowInTheirRegisters : Prop :=
  ∀ (s : State) (n : Nat), 1408 ≤ n → n < 1504 →
    (s.regValue (0x200140 + 4 * ((n - 1408) / 32))).getLsbD ((n - 1408) % 32) = (decide (n < 1476) && s.isPending n)

/-- R290: a device-level cause is always enabled, a channel's cause only with its function's bit of S_ALARM_EN; a set
cause asserts the alarm, P low and N high. -/
def Obligations.CausesAssertTheAlarm : Prop :=
  ∀ (s : State) (p b : Nat), b < 16 →
    (s.setCause b).safety.cause = s.safety.cause ||| BitVec.ofNat 16 (2 ^ b)
    ∧ (s.setCause b).safety.asserted = true
    ∧ (s.safety.asserted = false → (s.setCause b).safety.alarmP = false ∧ (s.setCause b).safety.alarmN = true)
    ∧ (∀ f, s.fnOfChan p = some f → s.chanCause p b = if s.safety.alarmEn.getLsbD f then s.setCause b else s)

/-! ### The register port (chapters 2, 3, 5, 8, 11, 14)

A write that meets `State.PortUp` takes effect at once. `(s.ignFn f o k).acked` is the state in which only the access at
offset `o` of window `f` has been counted as ignored, with kind `k` (R311). -/

/-- R16: a hole answers with PSLVERR, a read of it with zero; nothing else changes. No other access asserts PSLVERR. -/
def Obligations.HolesAnswerWithAnError : Prop :=
  ∀ (s : State) (a : BitVec 22) (d : W32) (strb : BitVec 4) (prot : BitVec 3), hclkUp s = true →
    (regKind s.member (wordAddr a) = .hole →
      exec (.apbHoleAccess a false) s = .next { s with apb := { prdata := 0, pslverr := true } }
      ∧ exec (.registerRead a prot) s = .next { s with apb := { prdata := 0, pslverr := true } }
      ∧ (∃ x, exec (.apbHoleAccess a true) s = .next { s with apb := { prdata := x, pslverr := true } })
      ∧ ∃ x, exec (.registerWrite a d strb prot) s = .next { s with apb := { prdata := x, pslverr := true } })
    ∧ (regKind s.member (wordAddr a) ≠ .hole →
      (∃ t, exec (.registerRead a prot) s = .next t ∧ t.apb.pslverr = false)
      ∧ ∃ t, exec (.registerWrite a d strb prot) s = .next t ∧ t.apb.pslverr = false)

/-- R39, R40, R311: an access of the administrative window that is not privileged and secure reads zero and writes
nothing, as does a write with a partial strobe; each is counted where its address lies, and raises the function's event.
It rests on assumption 33, the model's choices. -/
def Obligations.RefusedAccessesAreCounted : Prop :=
  ∀ (s : State) (a : BitVec 22) (d : W32) (strb : BitVec 4) (prot : BitVec 3), s.PortUp →
    regKind s.member (wordAddr a) ≠ .hole →
    (0x200018 ≤ wordAddr a → (prot.getLsbD 0 = false ∨ prot.getLsbD 1 = true) →
      exec (.registerWrite a d strb prot) s = .next { s with
        glob := { s.glob with admIgn := satAdd 32 s.glob.admIgn 1, admIgnOffset := wordAddr a, admIgnKind := 3 }
        apb := s.apb.written }
      ∧ exec (.registerRead a prot) s = .next { s with
        glob := { s.glob with admIgn := satAdd 32 s.glob.admIgn 1, admIgnOffset := wordAddr a, admIgnKind := 3 }
        apb := { prdata := 0, pslverr := false } })
    ∧ (strb ≠ 0b1111 → 0x200000 ≤ wordAddr a →
      (wordAddr a < 0x200018 ∨ (prot.getLsbD 0 = true ∧ prot.getLsbD 1 = false)) →
      exec (.registerWrite a d strb prot) s = .next { s with
        glob := { s.glob with admIgn := satAdd 32 s.glob.admIgn 1, admIgnOffset := wordAddr a, admIgnKind := 1 }
        apb := s.apb.written })
    ∧ (strb ≠ 0b1111 → wordAddr a < 0x200000 →
      let f := wordAddr a / 0x20000;
      exec (.registerWrite a d strb prot) s = .next (s.ignFn f (wordAddr a % 0x20000) 1).acked
      ∧ ((s.ignFn f (wordAddr a % 0x20000) 1).fn f).ignored = satAdd 32 (s.fn f).ignored 1
      ∧ ((s.ignFn f (wordAddr a % 0x20000) 1).fn f).ignOffset = wordAddr a % 0x20000
      ∧ ((s.ignFn f (wordAddr a % 0x20000) 1).fn f).ignKind = 1
      ∧ (s.ignFn f (wordAddr a % 0x20000) 1).isPending (fnEvent f 5) = true)

/-- R10, R39, R368: a read returns the value that the register holds; it clears the RC fields of the slot registers, of
the function's and the ports' counters, of G_REHEAT_CNT and of the safety block's counters; F_TNOW_LO and G_TNOW_LO load
their window's snapshot, whose upper half the next register returns. The value is the present one, not one delayed by
the status shadow, the model's choice (assumption 88). -/
def Obligations.ReadsReturnRegisterValues : Prop :=
  ∀ s : State, s.PortUp →
    let reads := fun (a : BitVec 22) (prot : BitVec 3) (v : W32) (t : State) =>
      exec (.registerRead a prot) s = .next { t with apb := { prdata := v, pslverr := false } };
    (∀ a prot, regKind s.member (wordAddr a) ≠ .hole →
      (wordAddr a < 0x200018 ∨ (prot.getLsbD 0 = true ∧ prot.getLsbD 1 = false)) →
      ∃ t, exec (.registerRead a prot) s = .next t ∧ t.apb = { prdata := s.regValue (wordAddr a), pslverr := false })
    ∧ (∀ f sl p prot, s.SlotLive f sl p → let c := s.chan p;
      reads (slotReg f sl 0x024) prot (slotValue c (s.gateWait p) 0x024) (s.modChan p fun x => { x with dropped := 0 })
      ∧ reads (slotReg f sl 0x02C) prot (slotValue c (s.gateWait p) 0x02C)
          (s.modChan p fun x => { x with halt := { x.halt with halts := 0 } })
      ∧ reads (slotReg f sl 0x03C) prot (pack [(c.halt.reheats, 0), (c.halt.exhausted, 16)])
          (s.modChan p fun x => { x with halt := { x.halt with reheats := 0, exhausted := 0 } })
      ∧ reads (slotReg f sl 0x060) prot
          (pack [(b2n c.ring.parked, 0), (c.ring.retries, 1), (b2n c.ring.staleSeen, 8), (c.ring.parkCount, 16)])
          (s.modChan p fun x => { x with ring := { x.ring with parkCount := 0 } })
      ∧ reads (slotReg f sl 0x070) prot (pack [(c.pushUsed, 0), (c.pushMissed, 16)])
          (s.modChan p fun x => { x with pushUsed := 0, pushMissed := 0 })
      ∧ (s.member.safetyFull = true → reads (slotReg f sl 0x088) prot
          (pack [(c.fresh.cause, 0), (b2n c.fresh.negative, 3), (b2n c.fresh.staleSeen, 8), (c.fresh.staleCount, 16)])
          (s.modChan p fun x => { x with fresh := { x.fresh with staleCount := 0 } })))
    ∧ (∀ f prot, s.FnLive f →
      reads (fnReg f 0x020) prot (pack [(b2n (s.fn f).halted, 0), (b2n (s.fn f).drained, 1), (b2n (s.fn f).haltSeen, 2),
          ((s.fn f).malformedCount, 16)]) (s.modFn f fun x => { x with malformedCount := 0 })
      ∧ reads (fnReg f 0x02C) prot (BitVec.ofNat 32 (s.fn f).ignored) (s.modFn f fun x => { x with ignored := 0 })
      ∧ reads (fnReg f 0x134) prot (BitVec.ofNat 32 (s.fn f).sigOvf) (s.modFn f fun x => { x with sigOvf := 0 })
      ∧ (∀ r, r < 16 → let x := look {} (s.fn f).rings r;
        reads (fnReg f (0x2000 + r * 0x40 + 0x14)) prot (pack [(b2n x.full, 0), (b2n x.fullSeen, 1), (x.waitCount, 16)])
          (s.modRing f r fun y => { y with waitCount := 0 }))
      ∧ (∀ q, s.member.portPresent q = true → (s.port q).holder = some f → q < 64 →
        reads (fnReg f (0x800 + q * 0x20 + 0x08)) prot (pack [((s.port q).highCross, 0), ((s.port q).lowCross, 16)])
          (s.modPort q fun y => { y with highCross := 0, lowCross := 0 })
        ∧ reads (fnReg f (0x800 + q * 0x20 + 0x0C)) prot (pack [((s.port q).badPkt, 0), ((s.port q).gaps, 16)])
          (s.modPort q fun y => { y with badPkt := 0, gaps := 0 })))
    ∧ (∀ q, s.member.portPresent q = true → q < 64 →
      let sp := fun (n : Nat) => BitVec.ofNat 22 (0x210000 + q * 0x100 + n);
      reads (sp 0x18) 1 (pack [((s.port q).highCross, 0), ((s.port q).lowCross, 16)])
          (s.modPort q fun y => { y with highCross := 0, lowCross := 0 })
      ∧ reads (sp 0x1C) 1 (pack [((s.port q).badPkt, 0), ((s.port q).gaps, 16)])
          (s.modPort q fun y => { y with badPkt := 0, gaps := 0 })
      ∧ reads (sp 0x20) 1 (BitVec.ofNat 32 (s.port q).ovfWords) (s.modPort q fun y => { y with ovfWords := 0 })
      ∧ reads (sp 0x24) 1 (BitVec.ofNat 32 (s.port q).flushDropped) (s.modPort q fun y => { y with flushDropped := 0 }))
    ∧ reads 0x200264 1 (pack [(s.glob.devReheats, 0), (s.glob.devExhausted, 16)])
        { s with glob := { s.glob with devReheats := 0, devExhausted := 0 } }
    ∧ (s.member.safetyFull = true →
      reads 0x230010 1 (BitVec.ofNat 32 s.safety.segStat) { s with safety := { s.safety with segStat := 0 } }
      ∧ reads 0x230014 1 (pack [(s.safety.addrBurst, 0), (s.safety.addrState, 16)])
          { s with safety := { s.safety with addrBurst := 0, addrState := 0 } }
      ∧ reads 0x230024 1 (BitVec.ofNat 32 s.safety.lockstep) { s with safety := { s.safety with lockstep := 0 } })
    ∧ reads 0x230018 1 (pack [(s.safety.ctxCe, 0), (s.safety.ctxUe, 16)])
        { s with safety := { s.safety with ctxCe := 0, ctxUe := 0 } }
    ∧ reads 0x23001C 1 (BitVec.ofNat 32 s.safety.stallCnt) { s with safety := { s.safety with stallCnt := 0 } }
    ∧ reads 0x230028 1 (pack [(s.safety.ackAccepted, 0), (s.safety.ackRefused, 16)])
        { s with safety := { s.safety with ackAccepted := 0, ackRefused := 0 } }
    ∧ exec (.timeSnapshot 16 1) s = .next { s with
        time := { s.time with snap := { value := s.time.tnow, valid := s.time.valid } }
        apb := { prdata := BitVec.ofNat 32 s.time.tnow.toNat, pslverr := false } }
    ∧ reads 0x200024 1 (hiWord s.time.snap.value.toNat) s
    ∧ (∀ f prot, s.FnLive f →
      exec (.timeSnapshot f prot) s = .next
        { s.modFn f (fun x => { x with snap := { value := s.time.tnow, valid := s.time.valid } }) with
          apb := { prdata := BitVec.ofNat 32 s.time.tnow.toNat, pslverr := false } }
      ∧ reads (fnReg f 0x00C) prot (hiWord (s.fn f).snap.value.toNat) s)

/-- Tables 5-8, 7-7, 9-8, 11-8, 12-8, 8-9, R191, R237, R311: the administrative registers take what a privileged secure
write gives them, on every bench, and a 1 written to an event bit or to a sticky bit of a port clears it; G_LANE_RES,
X_TMO and X_HOLD refuse what their rules forbid, CU_FORCE a stale handle, and a read-only register is not written. It
rests on assumptions 33, 34, the model's choices. -/
def Obligations.AdministrativeRegistersTakeWrites : Prop :=
  ∀ (s : State) (d : W32), s.PortUp →
    let writes := fun (a : BitVec 22) (t : State) => exec (.registerWrite a d 0b1111 1) s = .next t.acked;
    writes 0x200240 { s with cru := { s.cru with scrub := field32 d 15 0 } }
    ∧ writes 0x200244 { s with cru := { s.cru with thresh := field32 d 15 0 } }
    ∧ writes 0x200260 { s with glob := { s.glob with retryLimit := field32 d 2 0 } }
    ∧ writes 0x20004C { s with rst := { s.rst with warmCount := field32 d 31 16 } }
    ∧ (∀ b, b < s.member.benches → b < 8 →
      writes (BitVec.ofNat 22 (0x200100 + 8 * b)) (s.modBench b fun x => { x with capRd := d })
      ∧ writes (BitVec.ofNat 22 (0x200104 + 8 * b)) (s.modBench b fun x => { x with capWr := d })
      ∧ writes (BitVec.ofNat 22 (0x200180 + 8 * b))
        (if field32 d 15 0 ≤ field32 d 31 16
            ∧ s.cruReserved - (s.bench b).laneRes + field32 d 15 0 ≤ s.member.reservable then
          s.modBench b fun x => { x with laneRes := field32 d 15 0, laneLim := field32 d 31 16 }
        else s.ignAdm (0x200180 + 8 * b) 2))
    ∧ (s.member.hasXezan = true →
      writes 0x260004 (if 20 ≤ field32 d 22 0 ∧ field32 d 22 0 ≤ 5000000 then
          ({ s with xez := { s.xez with tmo := field32 d 22 0 } } : State)
        else s.ignAdm 0x260004 2)
      ∧ writes 0x260008 (if 20 ≤ field32 d 22 0 ∧ field32 d 22 0 ≤ 5000000 then
          ({ s with xez := { s.xez with hold := field32 d 22 0 } } : State)
        else s.ignAdm 0x260008 2))
    ∧ (s.member.hasCullet = true →
      writes 0x22002C (if s.stale d.toNat = true then s.ignAdm 0x22002C 2
        else { s with cul := { s.cul with forced := s.cul.forced ++ [handleGob d.toNat] } })
      ∧ writes 0x220018 (s.ignAdm 0x220018 0)
      ∧ exec (.registerRead 0x22002C 1) s = .next { s with apb := { prdata := 0, pslverr := false } })
    ∧ (∀ i, i < 3 → writes (BitVec.ofNat 22 (0x200140 + 4 * i)) { s with ev := { s.ev with
        glob := s.ev.glob &&& ~~~ BitVec.ofNat 68 (d.toNat * 2 ^ (32 * i)) } })
    ∧ (∀ p, p < 64 → s.member.portPresent p = true → writes (BitVec.ofNat 22 (0x210014 + 0x100 * p)) (s.modPort p fun x =>
        { x with overrun := x.overrun && !d.getLsbD 1, wmHighSeen := x.wmHighSeen && !d.getLsbD 2
                 wmLowSeen := x.wmLowSeen && !d.getLsbD 3, gapSeen := x.gapSeen && !d.getLsbD 4 }))
    ∧ writes 0x200284 (s.ignAdm 0x200284 0)
    ∧ (∀ addr kind, s.ignAdm addr kind = { s with glob := { s.glob with
        admIgn := satAdd 32 s.glob.admIgn 1, admIgnOffset := addr, admIgnKind := kind } })

/-- R291, R12: the administrator clears cause bits and clock-loss bits but those whose condition holds; a rising
SAFE_ACK releases the alarm when no cause is left, and is refused otherwise. It rests on assumptions 33, 80, the model's
choices. -/
def Obligations.AlarmIsClearedAndAcknowledged : Prop :=
  ∀ s : State,
    (∀ d, s.PortUp → ∃ t, exec (.sCauseClear d 0b1111 1) s = .next t
      ∧ t = ({ s with safety := { s.safety with cause := t.safety.cause } } : State).acked
      ∧ ∀ b, b < 16 → t.safety.cause.getLsbD b
          = (s.safety.cause.getLsbD b && (!d.getLsbD b
              || (decide (b = 6) && (s.rst.lost != 0 || s.rst.refLost)) || (decide (b = 7) && s.gaf.state == .booting)
              || (decide (b = 0) && !s.time.valid && s.chans.any fun e => e.2.started.any fun w =>
                    w.desc.fresh && w.live))))
    ∧ (∀ d, s.PortUp → ∃ t, exec (.registerWrite 0x230020 d 0b1111 1) s = .next t
      ∧ t = ({ s with safety := { s.safety with clkLoss := t.safety.clkLoss } } : State).acked
      ∧ ∀ b, b < 10 → t.safety.clkLoss.getLsbD b = (s.safety.clkLoss.getLsbD b && (!d.getLsbD b
          || (if b = 9 then s.rst.refLost else s.rst.lost.getLsbD b))))
    ∧ (s.rst.coldHeld = false → s.rst.warmHeld = false → s.rst.refLost = false →
      (s.safety.ackLevel = false → s.safety.cause = 0 → s.safety.asserted = true →
        ∃ u, exec (.safeAck true) s = .next ((u.raiseUp 1417).log 0x11 0xFF (leBytes 4 (satAdd 16 s.safety.ackAccepted 1)))
          ∧ u = { s with safety := { s.safety with
                ackLevel := true, asserted := false, alarmP := true, alarmN := false
                ackAccepted := satAdd 16 s.safety.ackAccepted 1 } })
      ∧ (s.safety.ackLevel = false → s.safety.cause ≠ 0 →
        ∃ u, exec (.safeAck true) s = .next (u.raiseUp 1418)
          ∧ u = { s with safety := { s.safety with
                ackLevel := true, ackRefused := satAdd 16 s.safety.ackRefused 1 } })
      ∧ (s.safety.ackLevel = true → exec (.safeAck true) s = .next s)
      ∧ exec (.safeAck false) s = .next { s with safety := { s.safety with ackLevel := false } })

/-- R82, R12, R158, R314: the push buffer takes every whole word and none with a partial strobe, and reads as zero; the
direct-mode registers take what is written; each W1C field of a slot is cleared by writing 1 and no other field with it;
in direct mode a HALTED channel becomes IDLE with its HALT_SEEN. It rests on assumptions 33, 47, the model's choices. -/
def Obligations.SlotRegistersTakeWrites : Prop :=
  ∀ (s : State) (f sl p : Nat), s.SlotLive f sl p →
    (∀ w d, w < 64 → exec (.pushAreaWrite f sl w d 0b1111) s = .next (s.modChan p fun c =>
        { c with push := put c.push w d }).acked)
    ∧ (∀ w d strb, w < 64 → strb ≠ 0b1111 → exec (.pushAreaWrite f sl w d strb) s
        = .next (s.ignFn f (0x10000 + sl * 0x200 + 0x100 + 4 * w) 1).acked)
    ∧ (∀ w prot, w < 64 → s.TablesWf → exec (.registerRead (slotReg f sl (0x100 + 4 * w)) prot) s
        = .next { s with apb := { prdata := 0, pslverr := false } })
    ∧ (∀ d, let writes := fun (n : Nat) (g : Chan → Chan) =>
        exec (.registerWrite (slotReg f sl n) d 0b1111 0) s = .next (s.modChan p g).acked;
      writes 0x008 (fun c => { c with direct := { c.direct with
        src := BitVec.ofNat 64 (c.direct.src.toNat / 2 ^ 32 * 2 ^ 32 + d.toNat) } })
      ∧ writes 0x00C (fun c => { c with direct := { c.direct with
        src := BitVec.ofNat 64 (c.direct.src.toNat % 2 ^ 32 + d.toNat * 2 ^ 32) } })
      ∧ writes 0x010 (fun c => { c with direct := { c.direct with
        dst := BitVec.ofNat 64 (c.direct.dst.toNat / 2 ^ 32 * 2 ^ 32 + d.toNat) } })
      ∧ writes 0x014 (fun c => { c with direct := { c.direct with
        dst := BitVec.ofNat 64 (c.direct.dst.toNat % 2 ^ 32 + d.toNat * 2 ^ 32) } })
      ∧ writes 0x018 (fun c => { c with direct := { c.direct with len := d } })
      ∧ writes 0x01C (fun c => { c with direct := { c.direct with layout := d.setWidth 8 } })
      ∧ writes 0x028 (fun c => { c with evt := c.evt &&& ~~~ d.setWidth 8 })
      ∧ writes 0x060 (fun c => { c with ring := { c.ring with staleSeen := c.ring.staleSeen && !d.getLsbD 8 } })
      ∧ (s.member.safetyFull = true →
        writes 0x088 (fun c => { c with fresh := { c.fresh with staleSeen := c.fresh.staleSeen && !d.getLsbD 8 } }))
      ∧ writes 0x02C (fun c => { c with
        state := if d.getLsbD 1 = true ∧ c.halt.haltSeen = true ∧ c.cfg.ringMode = false ∧ c.state = .halted then .idle
                 else c.state
        halt := { c.halt with haltSeen := c.halt.haltSeen && !d.getLsbD 1
                              stopSeen := c.halt.stopSeen && !d.getLsbD 2 } }))
    ∧ exec (.haltSeenClear f sl 0b1111) s = .next (s.modChan p fun c => { c with
        state := if c.halt.haltSeen = true ∧ c.cfg.ringMode = false ∧ c.state = .halted then .idle else c.state
        halt := { c.halt with haltSeen := false } }).acked

/-- R76, R81: a doorbell moves the tail when its index bits fit, it does not fall back and at most N entries are
published; it wakes a parked channel and makes a pending re-read immediate; any other doorbell is ignored. -/
def Obligations.DoorbellsMoveTheTail : Prop :=
  ∀ (s : State) (f sl p : Nat) (d : W32), s.SlotLive f sl p →
    let r := (s.chan p).ring;
    let n := 2 ^ r.order;
    let t := field32 d 15 0 + n * field32 d 16 16;
    let legal := field32 d 15 0 < n ∧ (2 * n + r.t - r.h % (2 * n)) % (2 * n) ≤ (2 * n + t - r.h % (2 * n)) % (2 * n)
      ∧ (2 * n + t - r.h % (2 * n)) % (2 * n) ≤ n;
    let may := (s.chan p).cfg.ringMode = true ∧ r.bound = true ∧ (s.fn f).halted = false;
    (legal → may → s.Completes (.doorbell f sl d 0b1111) (s.modChan p fun c => { c with
        ring := if r.f = t then { r with t := t }
                else if r.parked = true ∨ r.reReadAt.isSome = true ∨ r.again = true then
                  { r with t := t, parked := false, retries := 0, reReadAt := none, again := false }
                else if s.fetching p = true then { r with t := t, retries := 0, forced := true }
                else { r with t := t } }))
    ∧ (¬ legal ∨ ¬ may → s.Completes (.doorbell f sl d 0b1111) (s.ignFn f (0x10000 + sl * 0x200 + 0x040) 2))

/-- R83, R84, R73: a legal PUSH_COMMIT rings the doorbell; its copy is used when the channel runs, is not parked and F
stands at the first pushed entry: its run of visible entries is accepted without a fetch. Otherwise it counts as missed.
An illegal one is ignored whole. It rests on assumptions 33, 86, the model's choices. -/
def Obligations.PushesAreUsedOrMissed : Prop :=
  ∀ (s : State) (f sl p t n : Nat) (d : W32), s.SlotLive f sl p → s.mayRing f p = true → pushCount d = n →
    (s.chan p).ring.newTail d = some t →
    (1 ≤ n → n ≤ 4 → n ≤ ringCount (s.chan p).ring.order (s.chan p).ring.t t →
      let c := (s.ringDoorbell p t).chan p;
      let r := (s.chan p).ring;
      let ds := (List.range n).map (descOfPush c.push);
      (c.state = .running → r.parked = false → ringAdd c.ring.order c.ring.f n = t → c.ring.f < 2 ^ (c.ring.order + 1) →
        ∀ k, k ≤ n →
        (∀ j, j < k → (ds[j]?.map Desc.phase) = some (expectedPhase c.ring.order (ringAdd c.ring.order c.ring.f j))) →
        (k < n → (ds[k]?.map Desc.phase) ≠ some (expectedPhase c.ring.order (ringAdd c.ring.order c.ring.f k))) →
        exec (.pushCommit f sl d 0b1111) s = .next (s.setChan p { c with
          pushUsed := satAdd 16 c.pushUsed 1
          ring := { c.ring with
            f := ringAdd c.ring.order c.ring.f k
            accepted := c.ring.accepted ++ (List.range k).map fun j =>
              { idx := ringAdd c.ring.order c.ring.f j, desc := descOfPush c.push j } } }).acked)
      ∧ ((s.chan p).state ≠ .running ∨ r.parked = true ∨ ringAdd c.ring.order c.ring.f n ≠ t →
        exec (.pushCommit f sl d 0b1111) s = .next (s.setChan p { c with
          pushMissed := satAdd 16 c.pushMissed 1 }).acked))
    ∧ (n = 0 ∨ 4 < n ∨ ringCount (s.chan p).ring.order (s.chan p).ring.t t < n →
      exec (.pushCommit f sl d 0b1111) s = .next (s.ignFn f (0x10000 + sl * 0x200 + 0x044) 2).acked)

/-- R93: the consumer value moves on a bound completion ring, never past the producer, and reads back; any other write
is ignored. -/
def Obligations.CrHeadMovesToTheConsumer : Prop :=
  ∀ (s : State) (f r : Nat) (d : W32), s.FnLive f → r < 16 →
    let x := look {} (s.fn f).rings r;
    let n := 2 ^ x.order;
    let c := field32 d 15 0 + n * field32 d 16 16;
    let legal := x.bound = true ∧ field32 d 15 0 < n
      ∧ (2 * n + x.producer - c % (2 * n)) % (2 * n) ≤ (2 * n + x.producer - x.head % (2 * n)) % (2 * n);
    (legal → ∃ y : CplRing, s.Completes (.crHeadWrite f r d 0b1111) (s.modRing f r fun _ => y)
        ∧ y = { x with head := c, episode := y.episode }
        ∧ (y.episode = true → x.episode = true ∧ y.full = true))
    ∧ (¬ legal → s.Completes (.crHeadWrite f r d 0b1111) (s.ignFn f (0x2000 + r * 0x40 + 0x0C) 2))
    ∧ ∀ prot, exec (.registerRead (fnReg f (0x2000 + r * 0x40 + 0x0C)) prot) s = .next { s with
        apb := { prdata := BitVec.ofNat 32 (idxLayout x.order x.head), pslverr := false } }

/-- R161, R162, R164, R314, Table 5-2: GO starts the first pass of an IDLE channel in direct mode, LEHR and ABORT act on
a channel that runs, RESUME starts a stopped ring from H; in any other state, or with two of these bits set, the write
is ignored. It rests on assumptions 12, 29, 33, 87, 98, the model's choices. -/
def Obligations.ControlActsOnlyWhereLegal : Prop :=
  ∀ (s : State) (f sl p : Nat) (circ : Bool), s.SlotLive f sl p →
    let c := s.chan p;
    let off := 0x10000 + sl * 0x200;
    let after := fun (t : State) => (s.settle t).acked;
    (c.cfg.ringMode = false → c.state = .idle → (s.fn f).halted = false → c.started = [] → c.cfg.paceSrc = 0 →
      s.passRefused p = false → spaceOf c.direct.src = 0 →
      exec (.go f sl circ 0b1111) s = .next (after { s.setChan p { c with
          state := .running
          direct := { c.direct with circ := circ, due := false, first := false }
          started := [{ serial := s.nextId, idx := 0, desc := c.passDesc, pass := true }] } with
        nextId := s.nextId + 1 }))
    ∧ (c.cfg.ringMode = false → c.state = .idle → (s.fn f).halted = false → c.started = [] → c.cfg.paceSrc = 1 →
      c.credit = 0 →
      exec (.go f sl circ 0b1111) s = .next (after (s.setChan p { c with
          state := .running, direct := { c.direct with circ := circ, due := true, first := true } })))
    ∧ (c.cfg.ringMode = true ∨ c.state ≠ .idle ∨ (s.fn f).halted = true ∨ (c.cfg.paceSrc = 0 ∧ s.passRefused p = true) →
      exec (.go f sl circ 0b1111) s = .next (s.ignFn f off 2).acked)
    ∧ (c.state = .running → c.halt.pending = false → ∃ u, u = s.setChan p { c with
          state := .stopping, wantsSignal := none, direct := { c.direct with circ := circ, due := false } }
      ∧ exec (.lehr f sl circ 0b1111) s = .next (after (if (u.chan p).lehrReady = true then u.lehrEnd p else u)))
    ∧ (c.state ≠ .running ∨ c.halt.pending = true → exec (.lehr f sl circ 0b1111) s = .next (s.ignFn f off 2).acked)
    ∧ (c.state = .running ∨ c.state = .stopping → c.halt.pending = false → ∃ t, exec (.abort f sl circ 0b1111) s = .next t
      ∧ t = after ((s.modChan p fun x => { x with direct := { x.direct with circ := circ } }).startAbort p false)
      ∧ (c.started ≠ [] → (t.chan p).state = .aborting)
      ∧ (c.started = [] → (t.chan p).state = if c.halt.byFunction = true then .halted
          else if c.cfg.ringMode = true then .stopped else .idle))
    ∧ ((c.state ≠ .running ∧ c.state ≠ .stopping) ∨ c.halt.pending = true →
      exec (.abort f sl circ 0b1111) s = .next (s.ignFn f off 2).acked)
    ∧ (c.cfg.ringMode = true → (s.fn f).halted = false →
      (c.state = .stopped ∨ (c.state = .halted ∧ c.halt.pending = false ∧ c.halt.haltSeen = false)) →
      exec (.resume f sl circ 0b1111) s = .next (after (s.setChan p { c with
          state := .running, direct := { c.direct with circ := circ }
          ring := { c.ring with parked := false, retries := 0, reReadAt := none, again := false } })))
    ∧ (c.cfg.ringMode = false ∨ (s.fn f).halted = true ∨ (c.state ≠ .stopped ∧ c.state ≠ .halted)
        ∨ (c.state = .halted ∧ (c.halt.pending = true ∨ c.halt.haltSeen = true)) →
      exec (.resume f sl circ 0b1111) s = .next (s.ignFn f off 2).acked)
    ∧ (∀ d : W32, let acts := (d.getLsbD 0).toNat + (d.getLsbD 2).toNat + (d.getLsbD 3).toNat + (d.getLsbD 4).toNat;
      (1 < acts → exec (.registerWrite (slotReg f sl 0) d 0b1111 0) s = .next (s.ignFn f off 2).acked)
      ∧ (acts = 0 → exec (.registerWrite (slotReg f sl 0) d 0b1111 0) s = .next (after (s.setChan p { c with
          direct := { c.direct with circ := d.getLsbD 1 } }))))

/-- R152, R154, R172, R211, R212, R309, R310, R12: a raised signal goes to its earliest waiter or to its count, which
stops at 65,535; a flush waits for its edge; DRAINED sets with its condition, and RESTART ends a drained function halt;
the mask of a vector takes what is written, and unmasking one with raises sends its write; each W1C field of the
function's window is cleared by writing 1. It rests on assumptions 33, 40, 97, the model's choices. -/
def Obligations.FunctionRegistersAct : Prop :=
  ∀ (s : State) (f : Nat), s.FnLive f →
    (∀ k : BitVec 8, exec (.sigRaise f k 0b1111) s = .next (s.raiseSignal f k.toNat).acked
      ∧ (s.firstWait f k.toNat = none → s.sigCount f k.toNat < 65535 → s.raiseSignal f k.toNat = s.modFn f fun x =>
          { x with sigCnt := put x.sigCnt k.toNat (s.sigCount f k.toNat + 1) })
      ∧ (s.firstWait f k.toNat = none → 65535 ≤ s.sigCount f k.toNat → s.raiseSignal f k.toNat = s.modFn f fun x =>
          { x with sigOvf := satAdd 16 x.sigOvf 1 })
      ∧ ∀ o, s.firstWait f k.toNat = some o → s.raiseSignal f k.toNat
          = { s with chans := s.chans.map fun e => (e.1, e.2.giveSignal o) })
    ∧ (∀ q : BitVec 6,
      ((s.port q.toNat).holder = some f → ((s.port q.toNat).dirOut = true → s.portNamed q.toNat = false) →
        exec (.spFlush f q 0b1111) s = .next (s.modPort q.toNat fun x =>
          { x with flushWait := true, flushFor := s.takingPort q.toNat }).acked)
      ∧ ((s.port q.toNat).holder ≠ some f ∨ ((s.port q.toNat).dirOut = true ∧ s.portNamed q.toNat = true) →
        exec (.spFlush f q 0b1111) s = .next (s.ignFn f 0x170 2).acked))
    ∧ (s.TablesWf → (∀ p, (s.chan p).owner.map Prod.fst = some f → (s.chan p).started = []) → ∀ s0 : State,
      ((s0.settle s).fn f).drained = ((s.fn f).drained || s.fnDrained f))
    ∧ ((s.fn f).halted = true → (s.fn f).drained = true → (s.fn f).haltSeen = false →
      exec (.restart f 0b1111) s = .next (s.modFn f fun x => { x with halted := false, drained := false }).acked)
    ∧ ((s.fn f).halted = false ∨ (s.fn f).drained = false ∨ (s.fn f).haltSeen = true →
      exec (.restart f 0b1111) s = .next (s.ignFn f 0x034 2).acked)
    ∧ (∀ d, let writes := fun (o : Nat) (t : State) =>
        exec (.registerWrite (fnReg f o) d 0b1111 0) s = .next t.acked;
      writes 0x020 (s.modFn f fun x => { x with haltSeen := x.haltSeen && !d.getLsbD 2 })
      ∧ writes 0x100 (s.modFn f fun x => { x with evt := x.evt &&& ~~~ d.setWidth 8 })
      ∧ (∀ q, q < 64 → s.member.portPresent q = true → (s.port q).holder = some f →
        writes (0x800 + q * 0x20 + 0x04) (s.modPort q fun x => { x with
          overrun := x.overrun && !d.getLsbD 1, wmHighSeen := x.wmHighSeen && !d.getLsbD 2
          wmLowSeen := x.wmLowSeen && !d.getLsbD 3, gapSeen := x.gapSeen && !d.getLsbD 4 }))
      ∧ (∀ r, r < 16 → writes (0x2000 + r * 0x40 + 0x14)
          (s.modRing f r fun x => { x with fullSeen := x.fullSeen && !d.getLsbD 1 }))
      ∧ (∀ i, i < 4 → ∃ t : State, writes (0x140 + 4 * i) t
        ∧ (∀ j, j < 128 → (t.fn f).msiMask.getLsbD j = ((if 32 * i ≤ j ∧ j < 32 * i + 32 then d.getLsbD (j - 32 * i)
            else (s.fn f).msiMask.getLsbD j) || (s.vec (128 * f + j)).admin))
        ∧ (∀ j, j < 32 → let v := 128 * f + 32 * i + j;
          ((s.fn f).msiMask.getLsbD (32 * i + j) = true → d.getLsbD j = false → (s.vec v).admin = false →
            (s.vec v).outstanding = false → 0 < (s.vec v).raises →
            t.vec v = { s.vec v with covered := (s.vec v).raises, raises := 0, since := none, outstanding := true }
            ∧ ∃ x ∈ t.txns, x.purpose = .msi v ∧ x.wlo = (s.vec v).addr ∧ x.wdata = leBytes 4 (s.vec v).data.toNat)
          ∧ (((s.fn f).msiMask.getLsbD (32 * i + j) = false ∨ d.getLsbD j = true ∨ (s.vec v).admin = true
              ∨ (s.vec v).outstanding = true ∨ (s.vec v).raises = 0) → t.vec v = s.vec v))))

/-- R233 to R236, Tables 8-4 and 8-5: SHARE adds a holder, RELEASE takes the issuer's away, FREE by the last holder and
named freer frees the chain; the first failing check gives the result; BUSY ends when the head record is written. It
rests on assumptions 23, 33, the model's choices. -/
def Obligations.HoldingOperations : Prop :=
  ∀ (s : State) (f : Nat), s.FnLive f → s.member.hasCullet = true → (s.fn f).gobBusy = false →
    let h := (s.fn f).gobHandle.toNat;
    let g := handleGob h;
    let r := s.gobRec g;
    let busy := fun (t : State) => (s.settle (t.modFn f fun x =>
      { x with gobBusy := true, gobDone := false, gobResult := 0, gobTarget := g })).acked;
    let refused := fun (t : State) (n : Nat) => (s.settle (t.modFn f fun x =>
      { x with gobBusy := false, gobDone := true, gobResult := n })).acked;
    (∀ (sl : BitVec 7) (q : BitVec 4), q.toNat < s.member.functions →
      (s.stale h = false → r.freerFn = f → r.freerSlot = sl.toNat → s.pinnedFor f g = false →
        r.holdMask.getLsbD q.toNat = false → countBits r.holdMask < 15 →
        exec (.gobShare f sl q 0b1111) s = .next (busy (s.writeRec g { r with
          holdMask := r.holdMask ||| BitVec.ofNat 16 (2 ^ q.toNat) })))
      ∧ (s.stale h = true → exec (.gobShare f sl q 0b1111) s = .next (refused s 1))
      ∧ (s.stale h = false → (r.freerFn ≠ f ∨ r.freerSlot ≠ sl.toNat) →
        exec (.gobShare f sl q 0b1111) s = .next (refused s 3)))
    ∧ (s.stale h = false → r.holdMask.getLsbD f = true → r.freerFn ≠ f → s.pinnedFor f g = false →
        exec (.gobRelease f 0b1111) s = .next (busy (s.writeRec g { r with
          holdMask := r.holdMask &&& ~~~ BitVec.ofNat 16 (2 ^ f) })))
    ∧ (s.stale h = false → r.holdMask.getLsbD f = true → r.freerFn = f →
        exec (.gobRelease f 0b1111) s = .next (refused s 6))
    ∧ (∀ sl : BitVec 7,
      (s.stale h = false → r.holdMask.getLsbD f = true → r.freerFn = f → r.freerSlot = sl.toNat →
        s.pinnedFor f g = false → countBits r.holdMask = 1 →
        exec (.gobFree f sl 0b1111) s = .next (busy (s.freeChain g)))
      ∧ (s.stale h = true → exec (.gobFree f sl 0b1111) s = .next (refused (({ s with cul := { s.cul with
          doubleFree := satAdd 16 s.cul.doubleFree 1 } } : State).raise 1457) 1))
      ∧ (s.stale h = false → r.holdMask.getLsbD f = false → exec (.gobFree f sl 0b1111) s = .next (refused
          (({ s with cul := { s.cul with nonHolder := satAdd 16 s.cul.nonHolder 1 } } : State).raise 1458) 2))
      ∧ (s.stale h = false → r.holdMask.getLsbD f = true → r.freerFn = f → r.freerSlot = sl.toNat →
        s.pinnedFor f g = false → countBits r.holdMask ≠ 1 →
        exec (.gobFree f sl 0b1111) s = .next (refused (({ s with cul := { s.cul with
          premature := satAdd 16 s.cul.premature 1 } } : State).raise 1456) 4)))
    ∧ (∀ d, (field32 d 1 0 = 0 ∨ (field32 d 1 0 = 1 ∧ s.member.functions ≤ field32 d 19 16)) →
        exec (.gobBadOp f d 0b1111) s = .next (refused s 8))

/-- R233, R236, R237: BUSY clears with DONE when the head record's write is answered; the administrator's CU_FORCE marks
a chain, which is freed once no function has it pinned; a stale handle is only counted. Freeing rewrites the head record
FREE with its generation advanced, and walks the members from the head's NEXT. It rests on assumptions 23, 33, the
model's choices. -/
def Obligations.ForcedFreeing : Prop :=
  ∀ s : State,
    (∀ f, (s.fn f).gobBusy = true → s.recBusy (s.fn f).gobTarget = false → exec (.gobOpDone f) s
        = .next (s.settle (s.modFn f fun x => { x with gobBusy := false, gobDone := true })))
    ∧ (∀ h, s.PortUp → s.member.hasCullet = true →
      (s.stale h.toNat = false → exec (.forceFree h 0b1111 1) s = .next ({ s with cul := { s.cul with
          forced := s.cul.forced ++ [handleGob h.toNat] } } : State).acked)
      ∧ (s.stale h.toNat = true → exec (.forceFree h 0b1111 1) s = .next (s.ignAdm 0x22002C 2).acked)
      ∧ (∀ t : State, t.cul.forced.contains (handleGob h.toNat) = true → t.stale h.toNat = true))
    ∧ (∀ g, s.cul.forced.contains g = true → s.pinned g = false → exec (.forceFreeApply g) s = .next
        (s.settle ((({ s with cul := { s.cul with forced := s.cul.forced.filter fun x => x != g } } :
          State).freeChain g).raise 1462)))
    ∧ (∀ g, s.cul.quarantined.contains g = false → let r := s.gobRec g; ∃ e, s.freeChain g
        = ({ s.writeRec g { gen := nextGen r.gen } with
            cul := { (s.writeRec g { gen := nextGen r.gen }).cul with freeing := s.cul.freeing ++ [e] } } : State)
      ∧ e.head = g ∧ e.headGen = r.gen ∧ e.allocFn = r.allocFn ∧ e.freed = false ∧ e.known = none
      ∧ e.cur = if r.last = true ∨ s.cul.fresh ≤ r.next then none else some r.next)

/-- R39, R311, R329, R373: while cclk does not pop the register-write queue, a write waits in it; one that finds 16
entries is dropped and counted, without PSLVERR, and a refused read that finds 16 is not. While hclk is held an access
waits with PREADY low; at the release of hclk it completes with a read of zero and no effect. It rests on assumptions
33, 99, the model's choices. -/
def Obligations.WritesWaitWhileCclkIsDown : Prop :=
  ∀ s : State,
    (∀ (a : BitVec 22) (d : W32), regKind s.member (wordAddr a) ≠ .hole → mbOf (wordAddr a) = none →
      wordAddr a < 0x200018 → hclkUp s = true → cclkUp s = false →
      (s.regq.length < 16 → exec (.registerWrite a d 0b1111 1) s = .next
        ({ s with regq := s.regq ++ [{ addr := wordAddr a, data := d }] } : State).acked)
      ∧ (16 ≤ s.regq.length → exec (.registerWrite a d 0b1111 1) s = .next
        ({ s with glob := { s.glob with regDrop := satAdd 32 s.glob.regDrop 1 } } : State).acked))
    ∧ (∀ a : BitVec 22, regKind s.member (wordAddr a) ≠ .hole → 0x200018 ≤ wordAddr a → hclkUp s = true →
      cclkUp s = false → 16 ≤ s.regq.length →
      exec (.registerRead a 0) s = .next { s with apb := { prdata := 0, pslverr := false } })
    ∧ (hclkUp s = false → s.pready = false ∧ ∀ (a : BitVec 22) (d : W32) (strb : BitVec 4) (prot : BitVec 3),
      exec (.registerWrite a d strb prot) s = .next { s with apb := { held := true } }
      ∧ exec (.registerRead a prot) s = .next { s with apb := { held := true } })
    ∧ (s.rst.releasing = true → s.rst.waiting.getLsbD 2 = true → ∃ t, exec (.domainRelease 2) s = .next t
      ∧ hclkUp t = true ∧ t.apb = {} ∧ t.regq = s.regq ∧ t.chans = s.chans ∧ t.fns = s.fns)

/-- R339, R340, R362: GO puts a free mailbox last among those that the Gaffer takes, GOs of one gclk edge the
administrative mailbox first and then by ascending function, and clears the last reply's flags; while BUSY is 1 the
mailbox takes no write and shows the request. A Gaffer in reset answers BUSY. Which GOs share an edge is open
(assumption 95). -/
def Obligations.MailboxGo : Prop :=
  ∀ (s : State) (m : Nat), s.PortUp → m < 17 → (m < 16 → s.FnLive m) →
    let x := s.mailbox m;
    let reg := fun (o : Nat) => BitVec.ofNat 22 (mbBase m + o);
    let wr := fun (o : Nat) (d : W32) => s.Completes (.registerWrite (reg o) d 0b1111 (if m = 16 then 1 else 0));
    (x.busy = false → s.gaf.down = false → ∃ u, u = s.setMailbox m { x with
        busy := true, done := false, applied := false, replay := false }
      ∧ (Config.goTied s.goCount = false → wr 0x104 1 { u with
          goOrder := s.goOrder ++ [m], goTied := [m], goCount := s.goCount + 1 })
      ∧ (Config.goTied s.goCount = true → ∃ l, wr 0x104 1 { u with
          goOrder := s.goOrder.take (s.goOrder.length - s.goTied.length) ++ l, goTied := l, goCount := s.goCount + 1 }
        ∧ (m = 16 → l = 16 :: s.goTied)
        ∧ (m < 16 → ∃ a b, s.goTied = a ++ b ∧ l = a ++ m :: b ∧ (∀ k ∈ a, k = 16 ∨ k ≤ m)
            ∧ ∀ k ∈ b.head?, k ≠ 16 ∧ m < k)))
    ∧ (x.busy = false → s.gaf.down = true → wr 0x104 1 ((s.setMailbox m { x with
        busy := true, done := false, applied := false, replay := false }).mbReply m 1 []))
    ∧ (x.busy = true → wr 0x104 1 (s.ignore (mbBase m + 0x104) 2))
    ∧ (∀ i d, i < 64 → x.busy = false → wr (4 * i) d (s.setMailbox m { x with data := put x.data i d }))
    ∧ (∀ d, x.busy = false → wr 0x100 d (s.setMailbox m { x with
        code := d.setWidth 16, seq := (d >>> 16).setWidth 16 }))
    ∧ (∀ i d, i < 65 → x.busy = true → wr (4 * i) d (s.ignore (mbBase m + 4 * i) 2))
    ∧ (∀ i, i < 64 → exec (.registerRead (reg (4 * i)) (if m = 16 then 1 else 0)) s
        = .next { s with apb := { prdata := look 0 x.data i, pslverr := false } })

/-! ### Channels and memory (chapters 3, 4, 5, 10, 11) -/

/-- R73, R79, R81: a fetch result accepts the run of visible entries; at the first entry that is not visible the channel
re-reads after 28 edges, at once when a doorbell came meanwhile, and parks after 8 re-reads; RE_READ_READY ends the
interval. A dropped fetch accepts nothing. It rests on assumption 2, the model's choices. -/
def Obligations.FetchesAcceptEntries : Prop :=
  ∀ (s : State) (p : Nat),
    (∀ (t : Txn) (beats : List MemBeat), s.txns.find? (fun x => x.purpose == .fetch p && x.isIssued) = some t →
      (s.answered t.port t.axid false).map Txn.id = some t.id → beats.length = t.beats → t.phase = .issued →
      (∀ resp, resp ≠ .okay → exec (.fetchResult p beats resp) s = .next (s.settle ((s.burstFailed t).touchTxn t)))
      ∧ (t.dropped = true ∨ t.voided = true →
        exec (.fetchResult p beats .okay) s = .next (s.settle (((s.delTxn t.id).freeTxn t).touchTxn t)))
      ∧ (t.dropped = false → t.voided = false →
        let r := (s.chan p).ring;
        let ds := fetchedDescs (beatsSlice t.addr beats t.rlo t.rlen) (t.rlen / 64);
        let u := (((s.delTxn t.id).freeTxn t).recovered t).touchTxn t;
        let run := fun (n : Nat) => ({ r with
          f := ringAdd r.order r.f n
          accepted := r.accepted ++ (List.range n).map fun j =>
            { idx := ringAdd r.order r.f j, desc := ds[j]?.getD {} } } : Machine.Ring);
        let after := fun (x : Machine.Ring) => u.modChan p fun c => { c with ring := x };
        ∀ n, n < 2 ^ (r.order + 1) → r.f < 2 ^ (r.order + 1) →
        (∀ j, j < n → ds[j]?.map Desc.phase = some (expectedPhase r.order (ringAdd r.order r.f j))) →
        (n = ds.length → exec (.fetchResult p beats .okay) s
            = .next (s.settle (after { run n with retries := 0, again := false, forced := false })))
        ∧ (n < ds.length → ds[n]?.map Desc.phase ≠ some (expectedPhase r.order (ringAdd r.order r.f n)) →
          (r.forced = true → exec (.fetchResult p beats .okay) s = .next (s.settle (after { run n with
                retries := if n = 0 then r.retries else 0, again := true, forced := false, reReadAt := none })))
          ∧ (r.forced = false → (0 < n ∨ r.retries < 8) →
            exec (.fetchResult p beats .okay) s = .next (s.settle (after { run n with
                retries := if n = 0 then r.retries else 0, again := true, reReadAt := some (s.now.cclk + 28) })))
          ∧ (r.forced = false → n = 0 → 8 ≤ r.retries →
            exec (.fetchResult p beats .okay) s = .next (s.settle ((after { run 0 with
                parked := true, staleSeen := true, parkCount := satAdd 16 r.parkCount 1, again := false }).raise
                  (chanEvent p 2)))))))
    ∧ (∀ due, (s.chan p).ring.reReadAt = some due → exec (.reReadReady p) s = .next (s.settle ((s.reachCclk due).modChan p
        fun c => { c with ring := { c.ring with reReadAt := none } })))

/-- R131, R153 to R155, R157, R158, R208, R231, R244, R270, R295: the next accepted entry starts and takes a credit of
its gate, or waits for one; a WAIT_TRIG arms, a taker takes the oldest packet or waits for one, a remote one finds its
peer, a chain reader pins and resolves its handle, a stale guarded one meets its stale edge, a malformed one halts its
function; a due pass starts, or is refused by its checks. The numbers of started works are distinct from the next one.
It rests on assumptions 16, 29, the model's choices. -/
def Obligations.WorkStarts : Prop :=
  ∀ (s : State) (p : Nat), s.work? p s.nextId = none →
    let c := s.chan p
    let spent := if c.cfg.paceSrc = 0 then c.credit else c.credit - 1
    let added := fun (w : Work) => ({ s.setChan p { c with
        credit := spent
        ring := { c.ring with accepted := c.ring.accepted.drop 1 }
        started := c.started ++ [w] } with nextId := s.nextId + 1 } : State)
    let taken := fun (w : Work) (k : Packet) => ({ w with pkt := some k, outWords := 0 } : Work).takeRead
      ({ w with pkt := some k, outWords := 0 } : Work).packetBits
    (∀ e, s.startable p = some e → (c.cfg.paceSrc = 0 ∨ 0 < c.credit) → s.malformation p e.desc = none →
      let d := e.desc
      let w : Work := { serial := s.nextId, idx := e.idx, desc := d }
      (s.isStale p w = true →
        exec (.descriptorStart p []) s = .next (s.settle ((added w).staleEdge p w)))
      ∧ (s.isStale p w = false →
        ((∃ o ∈ [Op.copy, .copy2d, .copy3d, .gatherIdx, .scatterIdx, .blockGather, .frag, .streamOut, .signal, .nop,
            .fenceOnly], d.op = some o) → exec (.descriptorStart p []) s = .next (s.settle (added (if d.fromChain then
            { w with chain := .unresolved, headGob := handleGob d.srcAddr, headGen := handleGen d.srcAddr
                     pinned := !s.stale d.srcAddr } else w))))
        ∧ (d.op = some .punty → exec (.descriptorStart p []) s = .next (s.settle (added
            { w with chain := .unresolved, headGob := handleGob d.srcAddr, headGen := handleGen d.srcAddr })))
        ∧ (d.op = some .waitTrig → (d.gate ≠ 0 ∨ s.sigCount (s.chFn p) d.signalId = 0) →
          exec (.descriptorStart p []) s = .next (s.settle { added { w with armed := true, armedAt := s.ev.order } with
            ev := { s.ev with order := s.ev.order + 1 } }))
        ∧ (d.op = some .waitTrig → d.gate = 0 → 0 < s.sigCount (s.chFn p) d.signalId →
          exec (.descriptorStart p []) s = .next (s.settle (({ added { w with
            armed := true, armedAt := s.ev.order, acted := true } with
              ev := { s.ev with order := s.ev.order + 1 } } : State).takeSignal (s.chFn p) d.signalId)))
        ∧ (d.op = some .streamIn ∨ d.op = some .streamInGob → (s.port d.srcAddr).packets = [] →
          exec (.descriptorStart p []) s = .next (s.settle ((added w).modPort d.srcAddr fun x =>
            { x with takers := x.takers ++ [(p, s.nextId)] })))
        ∧ (∀ k rest, (s.port d.srcAddr).packets = k :: rest →
          let got := fun (x : Work) => (added x).modPort d.srcAddr fun x =>
            { x with packets := rest, gapSeen := x.gapSeen || k.gap }
          (d.op = some .streamIn → wordsFitting d.dstLayout d.length ≠ 0 →
            exec (.descriptorStart p []) s = .next (s.settle (got (taken w k))))
          ∧ (d.op = some .streamIn → wordsFitting d.dstLayout d.length = 0 →
            exec (.descriptorStart p []) s = .next (s.settle ((got (taken w k)).failWork p s.nextId .indexRange)))
          ∧ (d.op = some .streamInGob → wordBytes d.dstLayout k.words.length ≤ d.length →
            exec (.descriptorStart p []) s = .next (s.settle (got { taken w k with chain := .requesting })))
          ∧ (d.op = some .streamInGob → d.length < wordBytes d.dstLayout k.words.length →
            exec (.descriptorStart p []) s = .next (s.settle ((got (taken w k)).failWork p s.nextId .indexRange))))
        ∧ (d.op = some .remoteRead ∨ d.op = some .remoteWrite →
          (s.peerFor (s.chFn p) d.remoteInstance = none → exec (.descriptorStart p []) s
            = .next (s.settle ((added w).failWork p s.nextId .windowDenied)))
          ∧ (∀ n x, s.peerFor (s.chFn p) d.remoteInstance = some (n, x) →
            let y : Work := { w with peer := n, remoteFn := x.remoteFn.toNat / 16 ^ s.chFn p % 16, peerPort := x.port
                                     peerRetry := x.retry }
            exec (.descriptorStart p []) s = .next (s.settle (added (if d.fromChain then
              { y with chain := .unresolved, headGob := handleGob d.srcAddr, headGen := handleGen d.srcAddr
                       pinned := !s.stale d.srcAddr } else y)))))))
    ∧ (∀ e, s.startable p = some e → c.credit = 0 →
      (c.cfg.paceSrc = 1 ∨ c.cfg.paceSrc = 2 → exec (.descriptorStart p []) s = .next (s.settle s))
      ∧ (c.cfg.paceSrc = 3 → s.sigCount (s.chFn p) c.cfg.paceNum = 0 → c.wantsSignal = none →
        exec (.descriptorStart p []) s = .next (s.settle { s.setChan p { c with wantsSignal := some s.ev.order } with
          ev := { s.ev with order := s.ev.order + 1 } })))
    ∧ (∀ e cond, s.startable p = some e → c.cfg.paceSrc = 0 → s.malformation p e.desc = some cond → ∃ t,
      exec (.descriptorStart p []) s = .next (s.settle t)
      ∧ t = (s.setChan p { c with ring := { c.ring with accepted := c.ring.accepted.drop 1 } }).malformed p e.idx cond
          (BitVec.ofNat 8 e.desc.opcode)
      ∧ (t.fn (s.chFn p)).halted = true ∧ (t.fn (s.chFn p)).haltSeen = true ∧ (t.fn (s.chFn p)).haltCond = cond)
    ∧ (c.direct.due = true → c.state = .running → c.cfg.ringMode = false → c.started = [] → c.halt.pending = false →
      (c.cfg.paceSrc = 0 ∨ 0 < c.credit) →
      let w : Work := { serial := s.nextId, idx := 0, desc := c.passDesc, pass := true }
      let begun := fun (x : Work) => ({ s.setChan p { c with
          credit := spent, direct := { c.direct with due := false, first := false }, started := [x] } with
        nextId := s.nextId + 1 } : State)
      (s.passRefused p = false → spaceOf c.direct.src = 0 → exec (.passStart p) s = .next (s.settle (begun w)))
      ∧ (s.passRefused p = false → spaceOf c.direct.src = 1 → (s.port c.passDesc.srcAddr).packets = [] →
        exec (.passStart p) s = .next (s.settle ((begun w).modPort c.passDesc.srcAddr fun x =>
          { x with takers := x.takers ++ [(p, s.nextId)] })))
      ∧ (∀ k rest, s.passRefused p = false → spaceOf c.direct.src = 1 → (s.port c.passDesc.srcAddr).packets = k :: rest →
        wordsFitting c.passDesc.dstLayout c.passDesc.length ≠ 0 →
        exec (.passStart p) s = .next (s.settle ((begun (taken w k)).modPort c.passDesc.srcAddr fun x =>
          { x with packets := rest, gapSeen := x.gapSeen || k.gap })))
      ∧ (s.passRefused p = true → exec (.passStart p) s = .next (s.settle (((s.setChan p { c with
          credit := spent, state := .idle, direct := { c.direct with due := false, first := false } }).ignFn (s.chFn p)
            (s.ctlOffset p) 2).raise (chanEvent p 4)))))

/-- R139 to R142, R185, R280, R281: a scheduler selects the highest class with a channel whose next burst fits the
class's cap, else the highest class with any; the running turn goes on up to BURST bursts, else the next channel in
ascending index with turns left takes one; the grant is counted, 256 beats close the window, and its burst enters the
request queue. At every edge the turns and rounds that are over end. An address scan steps through the channels. It
rests on assumptions 14, 15, 21, 22, the model's choices. -/
def Obligations.GrantsFollowClassAndTurn : Prop :=
  ∀ (s : State) (b pick : Nat) (dir : Dir),
    let x := (s.bench b).sched dir
    let can := s.candidates b dir pick
    (∀ k step1 i, i ∈ can k step1 ↔ i < 16 ∧ ∃ q, s.nextBid b dir pick k i = some q ∧ q.cls = k
      ∧ (step1 = false ∨ k = 3 ∨ (x.cl k).count + q.txn.beats ≤ capOf ((s.bench b).cap dir) k))
    ∧ (∀ k, k < 4 → can k true ≠ [] → (∀ j, j < k → can j true = []) →
      s.selectClass b dir pick = some (k, can k true))
    ∧ (∀ k, k < 4 → (∀ j, j < 4 → can j true = []) → can k false ≠ [] → (∀ j, j < k → can j false = []) →
      s.selectClass b dir pick = some (k, can k false))
    ∧ (∀ last l i, last < 16 → i < 16 → i ∈ l → (∀ j ∈ l, j < 16 → (i + 15 - last) % 16 ≤ (j + 15 - last) % 16) →
      nextAfter last l = some i)
    ∧ (∀ (c : ClassState) (cand : List Nat),
      let goesOn := c.inTurn = true ∧ c.last ∈ cand ∧ c.used < (s.chan (16 * b + c.last)).cfg.burst
      let ready := cand.filter fun i => decide (0 < look 0 (s.turnsLeft b c) i)
      (goesOn → s.turn b c cand = some (c.last, { c with used := c.used + 1 }))
      ∧ (∀ i, ¬ goesOn → nextAfter c.last ready = some i → s.turn b c cand = some (i, { c with
          inTurn := true, last := i, used := 1
          left := put (s.turnsLeft b c) i (look 0 (s.turnsLeft b c) i - 1) }))
      ∧ (∀ i, ¬ goesOn → nextAfter c.last ready = none → nextAfter c.last cand = some i →
        s.turn b c cand = some (i, { c with
          inTurn := true, last := i, used := 1, left := put (s.weights b) i (look 0 (s.weights b) i - 1) }))
      ∧ (c.left = [] → s.turnsLeft b c = s.weights b) ∧ (c.left ≠ [] → s.turnsLeft b c = c.left)
      ∧ (∀ i, i < 16 → look 0 (s.weights b) i = (s.chan (16 * b + i)).cfg.weight)
      ∧ ∀ el, c.atEdge el = { c with
          inTurn := c.inTurn && el.contains c.last
          left := if ∃ i ∈ el, 0 < look 0 c.left i then c.left else [] })
    ∧ (∀ k n (c : ClassState), k < 4 →
      let total := ((List.range 4).map fun j => if j = k then c.count + n else (x.cl j).count).sum
      (x.account k n c).lastCls = some k
      ∧ ∀ j, j < 4 → (x.account k n c).cl j = { (if j = k then c else { x.cl j with inTurn := false }) with
          count := if 256 ≤ total then 0 else if j = k then c.count + n else (x.cl j).count })
    ∧ (∀ k, ((s.endTurns.bench b).sched dir).cl k
        = (x.cl k).atEdge ((List.range 16).filter fun i => (s.bids (16 * b + i) dir).any fun q => q.cls == k))
    ∧ (b < s.member.benches → cclkUp s = true → s.rst.crucible = true →
      (∀ k cand i c q, s.selectClass b dir pick = some (k, cand) → s.turn b (x.cl k) cand = some (i, c) →
        s.nextBid b dir pick k i = some q →
        let counted := s.modBench b fun z => z.setSched dir (x.account k q.txn.beats c)
        (∀ fault found ctx, exec (.schedulerGrant b dir pick fault ⟨found, ctx⟩) s
          = .next (s.settle ((counted.issueBid (16 * b + i) q fault found).ctxFaults ctx)))
        ∧ (((∃ n w, (q.ask = .read n ∨ q.ask = .write n) ∧ s.work? (16 * b + i) n = some w
              ∧ ∃ o ∈ [Op.copy, .copy2d, .copy3d, .streamOut, .remoteWrite], w.desc.op = some o)
            ∨ q.ask = .fetch ∨ (∃ n, q.ask = .table n ∨ q.ask = .result n)) →
          (counted.issueBid (16 * b + i) q false []).txns
            = s.txns ++ [{ q.txn with id := s.nextId, cell := s.nextCell (benchOf (16 * b + i)) q.txn.landing }])
        ∧ (s.member.safetyFull = true → q.ask = .fetch →
          (counted.issueBid (16 * b + i) q true []).safety.addrBurst = satAdd 16 s.safety.addrBurst 1))
      ∧ ((∀ k i, k < 4 → i < 16 → s.nextBid b dir pick k i = none) →
        ∀ fault faulty, exec (.schedulerGrant b dir pick fault faulty) s = .next s))
    ∧ (b < s.member.benches → cclkUp s = true → s.member.safetyFull = true →
      let h := (s.bench b).scan
      let counted := ({ s.modBench b (fun q => { q with scan := (h + 1) % 16 }) with
        safety := { s.safety with addrState := satAdd 16 s.safety.addrState 1 } } : State)
      exec (.addressStateScan b false) s = .next (s.modBench b fun q => { q with scan := (h + 1) % 16 })
      ∧ (∀ w, s.member.chanPresent (16 * b + h) = true → (s.chan (16 * b + h)).started.find? Work.live = some w →
        exec (.addressStateScan b true) s = .next (s.settle (((counted.failWork (16 * b + h) w.serial
          .crcMismatch).chanCause (16 * b + h) 2).raise 1410)))
      ∧ (s.member.chanPresent (16 * b + h) = true → (s.chan (16 * b + h)).owner.isSome = true →
        (s.chan (16 * b + h)).started = [] →
        exec (.addressStateScan b true) s = .next (s.settle (((counted.failPoint (16 * b + h)
          { cause := .addrState, status := .crcMismatch, idx := (s.chan (16 * b + h)).ring.h, record := false }).chanCause
            (16 * b + h) 2).raise 1410))))

/-- R41, R43, R101, R118, R120, R134, R136, R146, R194, R195, R280, R299, R301: a port issues no more than 512
transactions; a burst of several beats is decided at its last; a failed one is reheated 64 edges later while its limit
allows, re-enters its queue, and fails its owner else; read data land and free the space they do not fill; an
acknowledged write delivers its data bits, and the words it covers are released. It rests on assumptions 2, 11, 14, 91,
92, the model's choices. -/
def Obligations.BurstsIssueAndReheat : Prop :=
  ∀ s : State,
    (∀ port dir t, s.portUp port = true → s.portLoad port < 512 → s.nextIssue port (dir == .write) = some t →
      ((s.member.safetyFull = false ∨ t.purpose.ungranted = false) → ∀ fault,
        exec (.addressHandshake port ⟨dir, fault⟩) s = .next (s.settle { s with
          txns := (s.txns.filter fun x => x.id != t.id) ++ [{ t with phase := .issued }] }))
      ∧ exec (.addressHandshake port ⟨dir, false⟩) s = .next (s.settle { s with
          txns := (s.txns.filter fun x => x.id != t.id) ++ [{ t with phase := .issued }] })
      ∧ (s.member.safetyFull = true → t.purpose.ungranted = true →
        exec (.addressHandshake port ⟨dir, true⟩) s = .next (s.settle (s.addrFailed t))
        ∧ (s.addrFailed t).safety.addrBurst = satAdd 16 s.safety.addrBurst 1))
    ∧ (∀ port dir fault, 512 ≤ s.portLoad port ∨ s.portUp port = false →
      exec (.addressHandshake port ⟨dir, fault⟩) s = .next (s.settle s))
    ∧ (∀ port axid (t : Txn) data resp found ctx, s.answered port axid false = some t → (∀ p, t.purpose ≠ .fetch p) →
      (t.got.length + 1 < t.beats → exec (.readResponse port axid ⟨data, ⟨found, ctx⟩⟩ resp) s
        = .next (s.settle ((s.setTxn t.id fun _ => { t with
            got := t.got ++ [data], failed := t.failed || resp.isError }).touchTxn t)))
      ∧ (t.beats ≤ t.got.length + 1 → t.phase = .issued → (t.failed = true ∨ resp ≠ .okay) →
        exec (.readResponse port axid ⟨data, ⟨found, ctx⟩⟩ resp) s = .next (s.settle ((s.burstFailed
          { t with got := t.got ++ [data], failed := true }).touchTxn t)))
      ∧ (t.beats ≤ t.got.length + 1 → t.phase = .issued → t.failed = false → t.dropped = false → t.voided = false →
        exec (.readResponse port axid ⟨data, ⟨found, ctx⟩⟩ .okay) s
          = .next (s.settle (((((s.delTxn t.id).recovered t).readDone
              { t with got := t.got ++ [data] } found).touchTxn t).ctxFaults ctx))))
    ∧ (∀ (t : Txn) p n vlo len w, t.purpose = .dataRead p n vlo len → s.work? p n = some w →
      let bytes := beatsSlice t.addr t.got t.rlo t.rlen
      let words := w.wordSpan vlo bytes.length
      let keep := min t.space ((words.2.2 - words.2.1 + 63) / 64)
      let u := s.readDone t []
      (t.landing = .lane ∨ t.landing = .drain →
        (u.work? p n).map Work.landed = some (w.landed ++ [{ off := vlo, bytes := bytes, space := keep
                                                             drain := t.landing == .drain, touch := words.1
                                                             first := words.2.1, last := words.2.2, cell := t.cell }]))
      ∧ (t.landing = .lane → (u.bench (benchOf p)).laneCells = (s.bench (benchOf p)).laneCells - (t.space - keep)
        ∧ (u.bench (benchOf p)).drainCells = (s.bench (benchOf p)).drainCells)
      ∧ (t.landing = .drain → (u.bench (benchOf p)).drainCells = (s.bench (benchOf p)).drainCells - (t.space - keep)
        ∧ (u.bench (benchOf p)).laneCells = (s.bench (benchOf p)).laneCells))
    ∧ (∀ (t : Txn) p n off, t.purpose = .table p n off → (s.work? p n).isSome = true → ∃ u : State,
      s.readDone t [] = u.decodeEntry p n ∧ (u.work? p n).map Work.tableRaw
        = (s.work? p n).map fun w => w.tableRaw ++ [(off, beatsSlice t.addr t.got t.rlo t.rlen)])
    ∧ (∀ p n w o bytes, s.work? p n = some w → w.desc.op = some o → o.usesTable = true → w.live = true →
      w.tableEnd = false → w.entriesGranted = true → w.entries.length < w.desc.entryCount →
      tableSlice w.tableRaw (w.entries.length * w.desc.entrySize) w.desc.entrySize = some bytes →
      let e := BitVec.ofNat 128 (ofLeBytes bytes)
      (w.entryOk e = true → (s.decodeEntry p n).work? p n = some (w.addEntry e)
        ∧ (w.addEntry e).entries = w.entries ++ [e])
      ∧ (w.entryOk e = false → s.decodeEntry p n = s.failWork p n .indexRange))
    ∧ (∀ port axid (t : Txn), s.answered port axid true = some t → (∀ p, t.purpose ≠ .completion p) →
      t.phase = .issued → t.voided = false →
      (∀ resp, resp ≠ .okay → exec (.writeResponse port axid resp) s
        = .next (s.settle ((s.burstFailed t).touchTxn t)))
      ∧ exec (.writeResponse port axid .okay) s
          = .next (s.settle ((((s.delTxn t.id).recovered t).writeDone t).touchTxn t)))
    ∧ (∀ (t : Txn) p n lo hi w, t.purpose = .dataWrite p n lo hi → s.work? p n = some w →
      let z := { w with delivered := addRange lo hi w.delivered }
      let half := w.halfRaised = false ∧ (w.pass = true ∨ w.desc.intHalf = true) ∧ w.desc.halfMark ≤ z.usedBits / 8
      let compares := w.live = true ∧ w.clip = none ∧ w.desc.crcCheck = true ∧ w.desc.op.any Op.comparesCrc = true
        ∧ z.prefixBits = w.dataBits ∧ w.crcBits = w.dataBits ∧ ~~~ w.crcReg ≠ w.desc.expectCrc
      (w.abandoned = true → s.writeDone t = s)
      ∧ (w.abandoned = false → ¬ half → ¬ compares → s.writeDone t = s.modWork p n fun _ => z)
      ∧ (w.abandoned = false → half → ¬ compares → s.writeDone t
        = (s.modWork p n fun _ => { z with halfRaised := true }).raise (chanEvent p 0))
      ∧ (w.abandoned = false → ¬ half → compares → s.writeDone t
        = (s.modWork p n fun _ => { z with expectFailed := true }).failWork p n .crcMismatch))
    ∧ (∀ (t : Txn) p n w, t.purpose = .result p n → s.work? p n = some w →
      (s.writeDone t).work? p n = some { w with result := 2 })
    ∧ (∀ (t : Txn) v, t.purpose = .msi v →
      s.writeDone t = (s.setVec v { s.vec v with covered := 0, outstanding := false }).decideVec v false)
    ∧ (∀ p w, s.work? p w.serial = some w → w.pkt = none → w.desc.viaFifo = false →
      let keep := s.keepsWord p w
      (w.live = true → w.desc.toPort = false → ∀ i, keep i = true
        ↔ ¬ ∃ r ∈ w.delivered, r.1 ≤ w.wordBitsBefore i ∧ w.wordBitsAfter i ≤ r.2)
      ∧ ((s.trimWork p w).work? p w.serial).map Work.landed = some (((w.landed.filter fun g =>
          (List.range (g.last - g.touch)).any fun i => keep (g.touch + i)).map fun g =>
            { g with space := min g.space ((List.range ((g.last - g.first + 63) / 64)).filter fun c =>
              ((List.range (g.last - g.first)).filter fun i => keep (g.first + i)).any fun i => i / 64 == c).length }))
      ∧ ((∀ g ∈ w.landed, g.drain = false) → ((s.trimWork p w).bench (benchOf p)).laneCells
          = (s.bench (benchOf p)).laneCells - (w.landed.map fun g => g.space - g.holds false keep).sum))
    ∧ (∀ t : Txn, (s.noReheat t = false → t.attempt < s.glob.retryLimit → s.burstFailed t = s.setTxn t.id fun x =>
          { x with phase := .reheat (s.now.cclk + 64), got := [], failed := false })
      ∧ (s.noReheat t = false → s.glob.retryLimit ≤ t.attempt → s.burstFailed t
          = (((s.delTxn t.id).freeTxn t).countExhausted t).busFail t)
      ∧ (s.noReheat t = true → s.burstFailed t = (s.delTxn t.id).freeTxn t)
      ∧ (s.noReheat t = true ↔ t.dropped = true ∨ t.voided = true
        ∨ ∃ p, t.purpose.pch? = some p ∧ (s.chan p).state = .aborting)
      ∧ (∀ p, t.purpose.pch? = some p →
        s.countReheat t = s.modChan p (fun c => { c with halt := { c.halt with
          reheats := satAdd 16 c.halt.reheats 1 } })
        ∧ s.countExhausted t = s.modChan p (fun c => { c with halt := { c.halt with
          exhausted := satAdd 16 c.halt.exhausted 1 } }))
      ∧ (∀ p n, t.purpose.serial? = some (p, n) → s.busFail t = s.failWork p n .busError)
      ∧ (∀ p, t.purpose = .fetch p → s.busFail t = s.failPoint p
          { cause := .fetch, status := .busError, idx := (s.chan p).ring.f })
      ∧ (∀ v, t.purpose = .msi v → s.busFail t = ((s.setVec v { s.vec v with
          raises := (s.vec v).raises + (s.vec v).covered, covered := 0, outstanding := false }).maskVec v true).raise
            1475
        ∧ s.countReheat t = { s with glob := { s.glob with devReheats := satAdd 16 s.glob.devReheats 1 } }))
    ∧ (∀ (t : Txn) due, s.txns.find? (fun x => x.id == t.id) = some t → t.phase = .reheat due →
      (∀ p, t.purpose ≠ .completion p) → s.queueLen t.port t.write < 64 →
      exec (.reheat t.id) s = .next (s.settle { (s.reachCclk due).countReheat t with
        txns := (s.txns.filter fun x => x.id != t.id) ++ [{ t with phase := .queued, attempt := t.attempt + 1 }] }))

/-- R159, R268 to R272, R278, R283, R296, R302, R303: what ends work: completion in ring order, the end of a pass, a
segment check, a stale edge, the release of a packet, the stall watchdog; and what a completion, a stale edge and a
decided status do. It rests on assumptions 2, 9, 27, the model's choices. -/
def Obligations.WorkEnds : Prop :=
  ∀ (s : State) (p : Nat), let c := s.chan p;
    (∀ w rest, c.started = w :: rest → (c.state = .running ∨ c.state = .stopping) → w.pass = false →
      (s.chainExhausted p w = false → s.finished p w = true → s.isStale p w = false →
        exec (.descriptorComplete p) s = .next (s.settle (s.completeHead p w)))
      ∧ (s.chainExhausted p w = true → s.isStale p w = false →
        exec (.descriptorComplete p) s = .next (s.settle (s.failWork p w.serial .indexRange)))
      ∧ (s.chainExhausted p w = true ∨ s.finished p w = true → s.isStale p w = true →
        exec (.descriptorComplete p) s = .next (s.settle (s.staleEdge p w))))
    ∧ (∀ w rest, c.started = w :: rest → w.desc.op ≠ some .signal →
      let u := s.completeHead p w
      let h := ringNext c.ring.order c.ring.h
      let writes := c.cpl.due = true ∨ c.cfg.coalCount ≤ c.cpl.uncovered + 1 ∨ c.cfg.coalTime = 0
      w.okReport.status = .ok ∧ w.okReport.idx = w.idx
      ∧ (u.chan p).started = rest ∧ (u.chan p).ring = { c.ring with h := h }
      ∧ (c.cfg.cplRingMode = true → (u.chan p).cpl = { c.cpl with queue := c.cpl.queue ++ [w.okReport] })
      ∧ (c.cfg.cplRingMode = false → writes → c.cpl.outstanding = false →
        (u.chan p).cpl.flying = c.cpl.queue ++ [w.okReport] ∧ (u.chan p).cpl.queue = []
        ∧ (u.chan p).cpl.flyingIdx = h ∧ (u.chan p).cpl.outstanding = true ∧ (u.chan p).cpl.uncovered = 0)
      ∧ (c.cfg.cplRingMode = false → ¬ writes →
        (u.chan p).cpl.queue = c.cpl.queue ++ [w.okReport] ∧ (u.chan p).cpl.uncovered = c.cpl.uncovered + 1
        ∧ (u.chan p).cpl.outstanding = c.cpl.outstanding
        ∧ (u.chan p).cpl.deadline = c.cpl.deadline.or (some (s.now.cclk + c.cfg.coalTime))))
    ∧ (∀ w rest, c.started = w :: rest → w.desc.op = some .signal → ∃ v : State,
      s.completeHead p w = (v.raiseSignal (s.chFn p) w.desc.signalId).addReport p w.okReport false
      ∧ v.fns = s.fns ∧ v.chan p = { c with
        started := rest, ring := { c.ring with h := ringNext c.ring.order c.ring.h } })
    ∧ (∀ w rest, c.started = w :: rest → w.pass = true → s.finished p w = true →
      (c.state = .running → exec (.passComplete p) s = .next (s.settle (((s.dropSpace p w).setChan p { c with
        started := rest, lastStatus := .ok, state := if c.direct.circ = true then .running else .idle
        direct := { c.direct with due := c.direct.due || c.direct.circ } }).raise (chanEvent p 1))))
      ∧ (c.state = .stopping → exec (.passComplete p) s = .next (s.settle (((s.dropSpace p w).setChan p { c with
        started := rest, lastStatus := .ok }).raise (chanEvent p 1)))))
    ∧ (∀ w, c.started.find? (fun w => s.isStale p w) = some w →
      exec (.staleEdge p) s = .next (s.settle (s.staleEdge p w)))
    ∧ (∀ w cause, s.staleCause p w = some cause ↔ w.desc.fresh = true ∧ w.pass = false
      ∧ ((c.ageBound = 0 ∧ cause = 4) ∨ (c.ageBound ≠ 0 ∧ s.time.valid = false ∧ cause = 3)
        ∨ (c.ageBound ≠ 0 ∧ s.time.valid = true ∧ (c.ageBound.toNat : Int) < s.age w ∧ cause = 1)
        ∨ (c.ageBound ≠ 0 ∧ s.time.valid = true ∧ s.age w ≤ c.ageBound.toNat ∧ s.age w < -(c.leadLimit.toNat : Int)
            ∧ cause = 2)))
    ∧ (∀ w cause, p < 128 → s.work? p w.serial = some w → s.staleCause p w = some cause →
      let u := s.staleEdge p w
      (u.chan p).fresh = { cause := cause, negative := decide (cause = 2), staleSeen := true,
                           staleCount := satAdd 16 c.fresh.staleCount 1,
                           age := BitVec.ofNat 32 (if cause = 1 ∨ cause = 2 then min (s.age w).natAbs 0xFFFFFFFF else 0) }
      ∧ (u.work? p w.serial).map Work.staleDone = some true
      ∧ u.isPending (chanEvent p 6) = true ∧ u.isPending 1408 = true
      ∧ (w.live = true → c.state ≠ .aborting → (u.work? p w.serial).bind Work.verdict = some .stale))
    ∧ (∀ n st w, s.work? p n = some w →
      (c.state = .aborting ∨ w.live = false → s.failWork p n st = s)
      ∧ (p < 128 → c.state ≠ .aborting → w.live = true →
        let u := s.failWork p n st
        (u.work? p n).bind Work.verdict = some st ∧ (u.chan p).halt.pending = true
        ∧ (u.chan p).wantsSignal = none ∧ (u.chan p).gobWait = none ∧ u.isPending (chanEvent p 3) = true
        ∧ (∀ t ∈ u.txns, t.purpose.serial? = some (p, n) → t.dropped = true)
        ∧ ∀ x ∈ laterThan n c.started, (∃ y ∈ (u.chan p).started, y.serial = x.serial ∧ y.abandoned = true)
          ∧ ∀ t ∈ u.txns, t.purpose.serial? = some (p, x.serial) → t.dropped = true))
    ∧ (∀ idx w r f, c.started.find? (fun w => !w.abandoned && w.idx == idx) = some w →
      w.segOk < w.segments s.member → w.segmentReady w.segOk = true →
      let passed := s.modWork p w.serial fun x => { x with segOk := w.segOk + 1 }
      (w.segReadCrc w.segOk ^^^ r = w.segWriteCrc w.segOk ^^^ f →
        exec (.segmentCheck p idx w.segOk r f) s = .next (s.settle passed))
      ∧ (w.segReadCrc w.segOk ^^^ r ≠ w.segWriteCrc w.segOk ^^^ f →
        exec (.segmentCheck p idx w.segOk r f) s = .next (s.settle (((({ passed with
          safety := { s.safety with segStat := satAdd 32 s.safety.segStat 1 } } : State).failWork p w.serial
            .crcMismatch).chanCause p 1).raise 1409))))
    ∧ (∀ port serial k w, (s.port port).heldPacket = some (serial, k) → s.workOf serial = some (p, w) → w.live = true →
      w.packetChecked s.member k = true →
      (s.isStale p w = false → exec (.packetRelease port) s = .next (s.settle (s.modPort port fun x =>
        { x with released := x.released ++ [(serial, k)] })))
      ∧ (s.isStale p w = true → exec (.packetRelease port) s = .next (s.settle (s.staleEdge p w))))
    ∧ (c.watch = none → exec (.stallWatchdogFire p) s = .next (s.settle s))
    ∧ (∀ from_, p < 128 → c.watch = some from_ → ∃ t, exec (.stallWatchdogFire p) s = .next t
      ∧ s.now.refclk ≤ t.now.refclk ∧ from_ + s.safety.stallLimit ≤ t.now.refclk
      ∧ t.safety.stallCnt = satAdd 32 s.safety.stallCnt 1 ∧ t.isPending (chanEvent p 7) = true ∧ t.isPending 1413 = true
      ∧ (∀ y ∈ t.txns, y.purpose.pch? = some p → y.voided = true)
      ∧ ∀ w rest, c.started = w :: rest → w.live = true → c.state ≠ .aborting →
        (t.work? p w.serial).bind Work.verdict = some .stall)

/-- R87 to R94, R162, R163, R165, R304, R307: an index write follows its deadline and covers every completion so far, a
record takes the next producer slot or waits on its full ring, an acknowledged write frees the entry and raises what it
reports; a stop, an abort and a halt end when their work has, load their registers and report. It rests on assumptions
2, 12, 31, 32, 83, 84, 89, the model's choices. -/
def Obligations.ReportsAndStopsEnd : Prop :=
  ∀ (s : State) (p : Nat), let c := s.chan p; let f := s.chFn p; let x := look {} (s.fn f).rings c.cfg.cplRing;
    (∀ at_, c.cpl.deadline = some at_ → exec (.coalTimeExpiry p) s = .next (((s.reachCclk at_).modChan p fun y =>
        { y with cpl := { y.cpl with due := true } }).kickIndex p))
    ∧ (c.cfg.cplRingMode = false → c.cpl.due = true → c.cpl.outstanding = false → s.kickIndex p
        = (s.setChan p { c with cpl := { c.cpl with
            uncovered := 0, deadline := none, due := false, queue := [], flying := c.cpl.queue, flyingIdx := c.ring.h
            outstanding := true } }).post
          (s.cplTxn p c.cfg.cplAddr c.cfg.cplCoherent (leBytes 4 (idxLayout c.ring.order c.ring.h))))
    ∧ (∀ r, c.cfg.ringMode = true → c.cfg.cplRingMode = false → c.cpl.outstanding = false →
      ((s.flushIndex p r).chan p).cpl.flying = c.cpl.queue ++ [r] ∧ ((s.flushIndex p r).chan p).cpl.outstanding = true
      ∧ ((s.flushIndex p r).chan p).cpl.flyingIdx = c.ring.h)
    ∧ (∀ r rest, c.cpl.queue = r :: rest → c.cfg.cplRingMode = true → c.cpl.outstanding = false → x.bound = true →
      (ringCount x.order x.head x.producer ≠ 2 ^ x.order → exec (.recordAllocate p) s = .next
        (((s.modRing f c.cfg.cplRing fun y => { y with producer := ringNext x.order x.producer }).setChan p { c with
            cpl := { c.cpl with queue := rest, flying := [r], flyingSlot := some x.producer, outstanding := true
                                waiting := false } }).post
          (s.cplTxn p (x.base + 16 * (x.producer % 2 ^ x.order)) x.coherent (s.recordBytes p x.producer x.order r))))
      ∧ (ringCount x.order x.head x.producer = 2 ^ x.order → x.episode = false → exec (.recordAllocate p) s = .next
        (((s.setChan p { c with cpl := { c.cpl with waiting := true } }).modRing f c.cfg.cplRing fun y => { y with
            episode := true, fullSeen := true, waitCount := satAdd 16 x.waitCount 1 }).raise (fnEvent f 3)))
      ∧ (ringCount x.order x.head x.producer = 2 ^ x.order → x.episode = true → exec (.recordAllocate p) s
          = .next (s.setChan p { c with cpl := { c.cpl with waiting := true } })))
    ∧ (∀ port axid (t : Txn), s.answered port axid true = some t → t.purpose = .completion p → t.phase = .issued →
      exec (.completionWriteResponse port axid .okay) s
        = .next (s.settle (((s.delTxn t.id).recovered t).completionDone p))
      ∧ ∀ resp, resp ≠ .okay → exec (.completionWriteResponse port axid resp) s = .next (s.settle (s.burstFailed t)))
    ∧ (∀ r, p < 128 → c.cpl.flying = [r] → c.cfg.cplRingMode = true ∨ c.cpl.due = false →
      let u := s.completionDone p
      (u.chan p).cpl = { c.cpl with flying := [], flyingSlot := none, outstanding := false }
      ∧ (r.done = true → u.isPending (chanEvent p 1) = true)
      ∧ (r.loads = some .lehr → (u.chan p).halt = { c.halt with
          stopSeen := true, cause := .lehr, status := r.status, idx := idxLayout c.ring.order r.idx
          residue := r.residue, crc := 0 } ∧ u.isPending (chanEvent p 4) = true)
      ∧ (r.loads = some .abort → (u.chan p).halt = { c.halt with
          stopSeen := true, cause := .abort, status := r.status, idx := idxLayout c.ring.order r.idx
          residue := r.residue, crc := 0 } ∧ u.isPending (chanEvent p 5) = true)
      ∧ (∀ v, c.cfg.cplRingMode = true → c.cpl.flyingSlot = some v →
        look {} (u.fn f).rings c.cfg.cplRing = x.ack v)
      ∧ (∀ k, r.done = false → r.signal = some k → r.loads = none → c.cfg.cplRingMode = false →
        u = (s.setChan p { c with cpl := { c.cpl with
          flying := [], flyingSlot := none, outstanding := false } }).raiseSignal f k))
    ∧ (∀ (r : CplRing) v, r.acked = [] → (v = r.tail → r.ack v = { r with tail := ringNext r.order v })
      ∧ (v ≠ r.tail → r.ack v = { r with acked := [v] }))
    ∧ (c.state = .stopping → c.started = [] → c.halt.pending = false →
      (c.cfg.ringMode = false ∨ c.ring.accepted ≠ [] ∨ c.ring.f = c.ring.t ∨ c.ring.parked = true) →
      let u := s.lehrEnd p
      exec (.lehrStopComplete p) s = .next (s.settle u)
      ∧ (u.chan p).state = (if c.cfg.ringMode = true then .stopped else .idle)
      ∧ (u.chan p).stopKind = false ∧ (u.chan p).stopIdx = idxLayout c.ring.order c.ring.h ∧ (u.chan p).ring.f = c.ring.h
      ∧ (c.ring.accepted = [] → p < 128 → u.isPending (chanEvent p 4) = true)
      ∧ (∀ e rest, c.ring.accepted = e :: rest → c.cpl.outstanding = true ∨ c.cfg.cplRingMode = true →
        (u.chan p).cpl.queue = c.cpl.queue ++ [{ idx := e.idx, status := .stopped, residue := e.desc.total, crc := 0
                                                 done := false, signal := none, loads := some .lehr }]))
    ∧ (c.state = .aborting → c.halt.pending = false → s.workDrained p = true →
      let u := s.finishAbort p
      exec (.abortComplete p) s = .next (s.settle u)
      ∧ (u.chan p).state = (if c.halt.byFunction = true then .halted
            else if c.cfg.ringMode = true then .stopped else .idle)
      ∧ (u.chan p).stopKind = true ∧ (u.chan p).started = [] ∧ (u.chan p).ring.accepted = []
      ∧ (∀ w rest, c.started = w :: rest → c.cfg.ringMode = true →
        (u.chan p).ring.h = ringNext c.ring.order c.ring.h ∧ (u.chan p).ring.f = ringNext c.ring.order c.ring.h
        ∧ (c.cpl.outstanding = true ∨ c.cfg.cplRingMode = true → (u.chan p).cpl.queue = c.cpl.queue
          ++ [{ idx := w.idx, status := .aborted, residue := w.residue, crc := 0, done := false, signal := none
                loads := some (if c.halt.byFunction = true then .function else .abort) }]))
      ∧ (∀ w rest, c.started = w :: rest → c.cfg.ringMode = false → (u.chan p).lastStatus = .aborted))
    ∧ (∀ w, s.haltReady p = true → c.failed = some w → w.verdict.isSome = true →
      let u := s.haltEdge p
      exec (.channelHalt p) s = .next (s.settle u) ∧ (u.chan p).state = .halted ∧ (u.chan p).started = []
      ∧ (u.chan p).halt = { c.halt with
          haltSeen := true, halts := satAdd 16 c.halt.halts 1, cause := if w.pass = true then .pass else .descriptor
          status := w.verdict.getD .busError, idx := if w.pass = true then 0 else idxLayout c.ring.order w.idx
          residue := w.residue
          crc := if w.verdict = some .crcMismatch ∧ w.expectFailed = true then ~~~ w.crcReg else 0
          pending := false, point := none }
      ∧ (w.pass = false → c.cpl.outstanding = true ∨ c.cfg.cplRingMode = true → (u.chan p).cpl.queue = c.cpl.queue
          ++ [{ idx := w.idx, status := w.verdict.getD .busError, residue := w.residue, crc := (u.chan p).halt.crc
                done := false, signal := none, loads := some .descriptor }]))
    ∧ (∀ h, s.haltReady p = true → c.failed = none → c.halt.point = some h →
      let u := s.haltEdge p
      exec (.channelHalt p) s = .next (s.settle u) ∧ (u.chan p).state = .halted ∧ (u.chan p).started = []
      ∧ (u.chan p).halt = { c.halt with
          haltSeen := true, halts := satAdd 16 c.halt.halts 1, cause := h.cause, status := h.status
          idx := idxLayout c.ring.order h.idx, residue := h.residue, crc := h.crc, pending := false, point := none
          byFunction := false })

/-- R55, R58, R59, R149 to R152, R154, R168, R172, R173: samples of the time input, its advance count and its stall,
firings of timers and trigger inputs, raises of signals, the pulses of a trigger output, and a vector's TIME. It rests
on assumptions 2, 17, 37, 94, the model's choices. -/
def Obligations.TimeGatesAndPulses : Prop :=
  ∀ s : State,
    (cclkUp s = true →
      (∀ v, exec (.timeSample v false) s = .next (let t : State := { s with time := { s.time with lastValid := false } }
          if s.time.valid = true then t.raise 1474 else t))
      ∧ (∀ v, (s.time.unset = true ∨ s.time.tnow ≤ v) → exec (.timeSample v true) s
          = .next { s with time := { s.time with tnow := v, lastValid := true, unset := false } })
      ∧ ∀ v, s.time.unset = false → v < s.time.tnow → exec (.timeSample v true) s
          = .next (({ s with time := { s.time with backsteps := satAdd 16 s.time.backsteps 1 } } : State).raise 1473))
    ∧ (s.time.equal = 8 → exec .timeStall s = .next (let t : State := { s with time := { s.time with
          stalled := true, lastValid := false } }
        if s.time.valid = true then t.raise 1474 else t))
    ∧ (s.time.equal ≠ 8 → exec .timeStall s = .next s)
    ∧ (s.time.equal = 0 → exec .timeStallWithdrawn s = .next { s with time := { s.time with stalled := false } })
    ∧ (s.time.equal ≠ 0 → exec .timeStallWithdrawn s = .next s)
    ∧ (∀ ns, s.time.sampled ns false = s.time
      ∧ (∀ before, s.time.advNs = some before → (before.toNat < ns.toNat →
          s.time.sampled ns true = { s.time with advNs := some ns, advance := grayNext s.time.advance })
        ∧ (ns.toNat ≤ before.toNat → s.time.sampled ns true = { s.time with advNs := some ns })))
    ∧ (∀ g : BitVec 4, grayNext g ≠ g ∧ ∃ i, i < 4 ∧ grayNext g ^^^ g = BitVec.ofNat 4 (2 ^ i))
    ∧ s.time.checked = { s.time with
        atEdge := s.time.advance, flop1 := s.time.atEdge, flop2 := s.time.flop1, seen := s.time.flop2
        equal := if s.time.flop2 = s.time.seen then min 8 (s.time.equal + 1) else 0 }
    ∧ (∀ f k, let x := s.fn f
        (∀ o, s.firstWait f k = some o → s.raiseSignal f k
          = { s with chans := s.chans.map fun e => (e.1, e.2.giveSignal o) })
        ∧ (s.firstWait f k = none → look 0 x.sigCnt k < 65535 → s.raiseSignal f k
          = s.setFn f { x with sigCnt := put x.sigCnt k (look 0 x.sigCnt k + 1) })
        ∧ (s.firstWait f k = none → 65535 ≤ look 0 x.sigCnt k → s.raiseSignal f k
          = s.setFn f { x with sigOvf := satAdd 16 x.sigOvf 1 }))
    ∧ (∀ (c : Chan) o, (c.wantsSignal = some o → c.giveSignal o = { c with wantsSignal := none, credit := 1 })
      ∧ (c.wantsSignal ≠ some o → c.giveSignal o = { c with
          started := c.started.map fun w => if w.armed && w.armedAt == o then { w with acted := true } else w }))
    ∧ (∀ n f, (look {} s.ev.timers n).holder = some f → s.time.valid = true → (look {} s.ev.timers n).armed = true →
        let x := look {} s.ev.timers n;
        let fired := fun y => exec (.timerFire n) s = .next (({ s with ev := { s.ev with
          timers := put s.ev.timers n y } } : State).fireGate f 1 n);
        (x.next ≤ s.time.tnow.toNat → x.period = 0 → fired { x with armed := false, spent := true })
        ∧ (∀ k, 0 < x.period → x.next + k * x.period ≤ s.time.tnow.toNat → s.time.tnow.toNat < x.next + (k + 1) * x.period →
            fired { x with next := x.next + (k + 1) * x.period, missed := satAdd 32 x.missed k }))
    ∧ (∀ n f, look none s.ev.trigIn n = some f → f < 16 → cclkUp s = true →
        exec (.trigIn n) s = .next (s.fireGate f 2 n))
    ∧ (∀ f kind n p, let c := s.chan p; let d := (s.fireGate f kind n).chan p;
        (c.owner.map Prod.fst ≠ some f → d = c)
        ∧ (c.owner.map Prod.fst = some f → d.started = c.started.map (fun w =>
            if w.armed && !w.acted && w.desc.gate == kind && w.desc.gateNum == n then { w with acted := true } else w)
          ∧ (c.cfg.paceSrc = kind → c.cfg.paceNum = n → c.credit < c.cfg.paceDepth →
              d.credit = c.credit + 1 ∧ d.dropped = c.dropped)
          ∧ (c.cfg.paceSrc = kind → c.cfg.paceNum = n → c.cfg.paceDepth ≤ c.credit →
              d.credit = c.credit ∧ d.dropped = satAdd 8 c.dropped 1)))
    ∧ (∀ n, let x := s.tout n;
        let after := fun y => exec (.trigOutPulse n) s = .next (s.setTout n y);
        (0 < x.queued → x.phase = .idle → after { x with queued := x.queued - 1, phase := .high })
        ∧ (0 < x.queued → x.phase ≠ .idle → x.pending = false →
            after { x with queued := x.queued - 1, pending := true })
        ∧ (0 < x.queued → x.phase ≠ .idle → x.pending = true →
            after { x with queued := x.queued - 1, merged := satAdd 16 x.merged 1 })
        ∧ (x.queued = 0 → x.phase = .high → after { x with phase := .low })
        ∧ (x.queued = 0 → x.phase = .low → x.pending = true → after { x with phase := .high, pending := false })
        ∧ (x.queued = 0 → x.phase = .low → x.pending = false → after { x with phase := .idle })
        ∧ (s.trigLevel n = true ↔ x.phase = .high))
    ∧ (∀ v at_, (s.vec v).since = some at_ → s.vecMasked v = false → (s.vec v).outstanding = false →
        0 < (s.vec v).raises → ∃ t, exec (.msiTimeExpiry v) s = .next t ∧ at_ + (s.vec v).time ≤ t.now.cclk
        ∧ t = ((s.reachCclk (at_ + (s.vec v).time)).setVec v { s.vec v with
            covered := (s.vec v).raises, raises := 0, since := none, outstanding := true }).post
          (deviceWrite s (.msi v) 0 (s.vec v).addr 3 false (leBytes 4 (s.vec v).data.toNat)))

/-- R48 to R50, R136, R199 to R202, R207 to R216, R384: beats enter the inbound queue, are packed, committed, rewound or
refused; outbound beats are formed, leave and deliver their words; a flush discards; the scrubber counts, queues and
makes its rewrites. It rests on assumptions 11, 38, 39, 40, the model's choices. -/
def Obligations.StreamBeatsAndScrubbing : Prop :=
  ∀ (s : State) (p : Nat), let x := s.port p;
    let refused := fun (y : Port) => if s.member.flagPolicy = true then { y with full := true, overrun := true }
      else { y with marker := true, gaps := satAdd 16 x.gaps 1 };
    (let q := splitTail x.inq;
      q.1 ++ q.2 = x.inq ∧ (∀ b ∈ q.2, b.ends = false) ∧ ∀ b, q.1.getLast? = some b → b.ends = true)
    ∧ (∀ b, s.inboundOn p = true →
      let cut := splitTail x.inq
      let words := (cut.2.map StreamBeat.counted).sum + b.counted
      (x.refusingIn = false → x.inq.length < 32 →
        exec (.inboundBeatAccept p b) s = .next (s.settle (s.setPort p { x with inq := x.inq ++ [b] })))
      ∧ (x.refusingIn = true → exec (.inboundBeatAccept p b) s = .next (s.settle (s.setPort p { x with
          ovfWords := satAdd 32 x.ovfWords b.counted, refusingIn := !b.ends })))
      ∧ (x.refusingIn = false → 32 ≤ x.inq.length → cut.1 = [] →
        (x.refusing = true ∨ x.dropping = true → exec (.inboundBeatAccept p b) s = .next (s.settle (s.setPort p { x with
          inq := [], refusingIn := !b.ends, refusing := false, dropping := false
          ovfWords := satAdd 32 x.ovfWords words })))
        ∧ (x.refusing = false → x.dropping = false → exec (.inboundBeatAccept p b) s = .next (s.settle ((s.setPort p
          (refused { x.retract x.parison.length with
            inq := [], refusingIn := !b.ends, parison := []
            ovfWords := satAdd 32 x.ovfWords (x.parison.length + words) })).raise (portEvent p 2)))))
      ∧ (x.refusingIn = false → 32 ≤ x.inq.length → cut.1 ≠ [] → ∃ y : Port,
        y = refused { x.retract 0 with
          inq := cut.1, refusingIn := !b.ends, parison := [], ovfWords := satAdd 32 x.ovfWords words }
        ∧ exec (.inboundBeatAccept p b) s = .next (s.settle (((s.setPort p y).raise (portEvent p 2)).modPort p fun z =>
          { z with parison := x.parison }))))
    ∧ (∀ b rest, x.inq = b :: rest → cclkUp s = true → s.rst.crucible = true →
      let drop := x.retract x.parison.length
      let written := s.wrote p x.cellBase x.tailPos 4
      (x.cut = true → exec (.inboundBeatPop p) s = .next (s.settle (s.setPort p { x with inq := rest, cut := !b.ends })))
      ∧ (x.cut = false → x.dropping = true → exec (.inboundBeatPop p) s = .next (s.settle (s.setPort p { x with
        inq := rest, flushDropped := satAdd 32 x.flushDropped b.counted, dropping := !b.ends })))
      ∧ (x.cut = false → x.dropping = false → x.refusing = true → exec (.inboundBeatPop p) s
        = .next (s.settle (s.setPort p { x with
          inq := rest, ovfWords := satAdd 32 x.ovfWords b.counted, refusing := !b.ends })))
      ∧ (x.cut = false → x.dropping = false → x.refusing = false → s.hasRoom p = true →
        (b.ends = false → exec (.inboundBeatPop p) s = .next (s.settle (written.setPort p { x with
          inq := rest, parison := x.parison ++ b.words 4, tailPos := x.tailPos + 4 })))
        ∧ (b.last = true → b.abortPkt = false → 1 ≤ b.count → b.count ≤ 4 →
          let k := ({ words := x.parison ++ b.words b.count, slots := x.parison.length + 4
                      pos := x.tailPos - x.parison.length, gap := x.marker } : Packet);
          let y := ({ x with inq := rest, parison := [], marker := false, tailPos := x.tailPos + 4 } : Port);
          (x.takers = [] → exec (.inboundBeatPop p) s
            = .next (s.settle (written.setPort p { y with packets := x.packets ++ [k] })))
          ∧ (∀ q n l, x.takers = (q, n) :: l → exec (.inboundBeatPop p) s
            = .next (s.settle ((written.setPort p { y with takers := l }).givePacket q n k))))
        ∧ ((b.abortPkt = true ∨ (b.last = true ∧ (b.count = 0 ∨ 4 < b.count))) → exec (.inboundBeatPop p) s
          = .next (s.settle ((s.setPort p { drop with
              inq := rest, parison := [], badPkt := satAdd 16 x.badPkt 1 }).raise (portEvent p 3)))))
      ∧ (x.cut = false → x.dropping = false → x.refusing = false → s.hasRoom p = false →
        exec (.inboundBeatPop p) s = .next (s.settle (((s.setPort p (refused { drop with
          inq := rest, parison := [], ovfWords := satAdd 32 x.ovfWords (x.parison.length + b.counted) })).raise
            (portEvent p 2)).modPort p fun z => { z with refusing := !b.ends }))))
    ∧ (∀ b : OutBeat, b.words.length ≤ 4 → (∀ j, j < 4 → (b.tdata >>> (36 * j)).setWidth 36 = b.words.getD j 0)
      ∧ b.tuser.toNat % 8 = (if b.abort = true then 0 else if b.last = true then b.words.length else 4)
      ∧ b.tuser.getLsbD 3 = b.abort ∧ b.tuser.getLsbD 4 = b.gap)
    ∧ (∀ b found, x.enable = true → x.dirOut = true → sclkUp s p = true → x.presented = some b →
      (s.workOf b.serial = none →
        exec (.outboundBeatAccept p found) s = .next (s.settle ((s.beatDelivered p b).pumpRead p found)))
      ∧ (∀ q w, s.workOf b.serial = some (q, w) → exec (.outboundBeatAccept p found) s
        = .next (s.settle (((s.beatDelivered p b).pumpRead p found).touchWatch q))))
    ∧ (∀ b : OutBeat,
      let left := s.modPort p fun x => { x with
        outq := x.outq.drop 1
        released := if b.last = true then x.released.filter fun r => r != (b.serial, b.pkt) else x.released }
      (b.abort = true ∨ s.workOf b.serial = none → s.beatDelivered p b = left)
      ∧ (∀ q w, b.abort = false → s.workOf b.serial = some (q, w) → s.work? q b.serial = some w → w.abandoned = false →
        w.pass = false → w.desc.intHalf = false → w.desc.crcCheck = false →
        let n := w.wordAt w.prefixBits
        let after := addRange (w.wordBitsBefore n) (w.wordBitsAfter (n + b.words.length - 1)) w.delivered
        s.beatDelivered p b = left.modWork q b.serial fun _ => { w with delivered := after }))
    ∧ (∀ q n l w, x.takers = (q, n) :: l → s.work? q n = some w → x.outq.length < 32 →
      (w.nextBeat = none → (∀ found, s.pumpRead p found = s) ∧ ∀ k, s.pumpPort (k + 1) p = s)
      ∧ (∀ ws, w.nextBeat = some ws →
        let fin := (w.outWords + ws.length) % w.packetWords = 0
        (∀ found, eccUe found = false → s.pumpRead p found = (s.countEcc found).pumpPort 32 p)
        ∧ (∀ found, eccUe found = true → s.pumpRead p found
          = ((s.countEcc found).failWork q n .eccUncorrected).chanCause q 3)
        ∧ ∀ k, s.pumpPort (k + 1) p = ((s.modWork q n fun _ => { w.takeCrc (w.wordBitsAfter
              (w.outWords + ws.length - 1)) with outWords := w.outWords + ws.length }).setPort p { x with
            outq := x.outq ++ [{ words := ws, last := decide fin, serial := n, pkt := w.outWords / w.packetWords
                                 gap := x.gapNext && !s.member.flagPolicy }]
            gapNext := false, takers := if fin then l else x.takers }).pumpPort k p))
    ∧ (x.flushWait = true → x.dirOut = false → s.beingRead p = false →
      let slots := (x.packets.map Packet.slots).sum + x.parison.length
      exec (.inboundFlushEdge p) s = .next (s.settle (s.setPort p { x.retract slots with
        packets := [], parison := [], marker := false, flushWait := false, flushFor := [], refusing := false
        dropping := x.dropping || x.refusing || !x.parison.isEmpty
        flushDropped := satAdd 32 x.flushDropped ((x.packets.map fun k => k.words.length).sum + x.parison.length) })))
    ∧ (s.beingRead p = true ↔ ∃ e ∈ x.flushFor, e ∈ s.takingPort p)
    ∧ (x.flushWait = true → x.dirOut = true → s.atBoundary p = true →
      exec (.outboundFlushEdge p) s = .next (s.settle ((s.discardOut p).modPort p fun y => { y with
          flushWait := false, flushFor := [], flushDropped := satAdd 32 y.flushDropped (s.fifoWords p)
          gapNext := y.gapNext || decide (0 < s.fifoWords p) }))
      ∧ (s.discardOut p).port p = { x with reserved := x.reserved - s.fifoWords p }
      ∧ ∀ q w, s.work? q w.serial = some w → w.desc.viaFifo = true → w.desc.dstAddr = p →
        (s.discardOut p).work? q w.serial = some { w with landed := [] })
    ∧ (s.cru.scrub ≠ 0 → cclkUp s = true → s.rst.crucible = true →
      let c := s.cru.scrubCell
      (∀ ctx found u, u = s.ctxFaults ctx → (∀ f ∈ found, f.cell ≠ c) → exec (.scrubCell ctx found) s
        = .next (s.settle { u with cru := { u.cru with scrubCell := (c + 1) % s.member.cells } }))
      ∧ (∀ f, f.cell = c → ∃ t, exec (.scrubCell [] [f]) s = .next (s.settle t)
        ∧ t.cru.scrubCell = (c + 1) % s.member.cells
        ∧ t.cru.rewrites = (if f.uncorrectable = true ∧ s.cellHeld c = true then s.cru.rewrites
            else if f.uncorrectable = true ∨ f.corrected = true
              then s.cru.rewrites ++ [{ addr := f.addr, zero := f.uncorrectable }]
            else s.cru.rewrites)
        ∧ t.safety.cause = s.safety.cause ||| (if f.uncorrectable = true then 8#16 else 0)
        ∧ (f.uncorrectable = true → look 0 t.cru.ue (c % 16) = satAdd 16 (look 0 s.cru.ue (c % 16)) 1
          ∧ t.isPending (1432 + c % 16) = true)
        ∧ (f.corrected = true → let n := satAdd 16 (look 0 s.cru.ce (c % 16)) 1
          look 0 t.cru.ce (c % 16) = n
          ∧ (s.cru.thresh ≠ 0 → n % s.cru.thresh = 0 → t.isPending (1432 + c % 16) = true))))
    ∧ (∀ h n i k, (s.wrote h n i k).cru.rewrites = s.cru.rewrites.map fun r =>
      if ∃ j < k, s.cruAddr h n (i + j) = r.addr then { r with written := true } else r)
    ∧ (∀ bank old r rest, s.cru.rewrites = old ++ r :: rest → r.bank = bank → (∀ o ∈ old, o.bank ≠ bank) →
      (∀ w, r.written = true ∨ w = true → exec (.scrubRewrite bank w) s
        = .next { s with cru := { s.cru with rewrites := old ++ rest } })
      ∧ (r.written = false → exec (.scrubRewrite bank false) s
        = .next (({ s with cru := { s.cru with rewrites := old ++ rest } } : State).raise 1419)))

/-- R115, R126, R218, R224 to R229, R231, R232: the rotating grant of gobs and what it records, a lost request and a
wait's end, the commit of a chain, the checks of a resolve on the head record as read, a hand-over, and the members of a
chain as the read reaches them. It rests on assumptions 10, 28, 41, 44, the model's choices. -/
def Obligations.GobsAreGrantedAndResolved : Prop :=
  ∀ s : State,
    (s.member.hasCullet = true → cclkUp s = true →
      (∀ p w, s.cul.pointer < 128 → p < 128 → s.requester p = some w → s.mayTakeGob (s.chFn p) = true →
        s.gobReady = true →
        (∀ q, q < 128 → (s.requester q).isSome = true → s.mayTakeGob (s.chFn q) = true →
          (p + 128 - s.cul.pointer) % 128 ≤ (q + 128 - s.cul.pointer) % 128) →
        ∃ u, u = s.grantGob p w ∧ exec .gobGrant s = .next (s.settle ((s.requesters.filter fun q => q != p).foldl
          State.loseGob { u with cul := { u.cul with pointer := (p + 1) % 128 } })))
      ∧ ((∀ q, q < 128 → (s.requester q).isSome = true → s.mayTakeGob (s.chFn q) = false) ∨ s.gobReady = false →
        exec .gobGrant s = .next (s.settle (s.requesters.foldl State.loseGob s))))
    ∧ (∀ p w, s.work? p w.serial = some w →
      let f := s.chFn p
      let g := match s.cul.stack with | g :: _ => g | [] => s.cul.fresh
      let u := s.grantGob p w
      (u.fn f).charge = (s.fn f).charge + 1 ∧ u.cul.stack = s.cul.stack.drop 1
      ∧ u.cul.fresh = (if s.cul.stack = [] then s.cul.fresh + 1 else s.cul.fresh) ∧ (u.chan p).gobWait = none
      ∧ u.work? p w.serial = some { w with
          chain := .building, gobs := w.gobs ++ [{ gob := g, bytes := min 4096 (w.dstRowBytes - 4096 * w.gobs.length) }]
          headGob := if w.gobs = [] then g else w.headGob }
      ∧ (w.gobs = [] → u.gobRec g = { state := .building, gen := (s.gobRec g).gen, freerFn := f, allocFn := f
                                      freerSlot := ((s.chan p).owner.map Prod.snd).getD 0
                                      holdMask := BitVec.ofNat 16 (2 ^ f) })
      ∧ (∀ prev, w.gobs.getLast? = some prev → prev.gob ≠ g →
        u.gobRec g = { state := .member, gen := (s.gobRec g).gen, head := w.headGob
                       headGen := (s.gobRec w.headGob).gen }
        ∧ u.gobRec prev.gob = { s.gobRec prev.gob with next := g, fill := 4095 }))
    ∧ (∀ p, let f := s.chFn p
      (s.mayTakeGob f = true ∨ (s.chan p).gobWait.isSome = true → s.loseGob p = s)
      ∧ (s.mayTakeGob f = false → (s.chan p).gobWait = none → (s.fn f).gobWait = 0 → s.loseGob p = s.exhaust p)
      ∧ (s.mayTakeGob f = false → (s.chan p).gobWait = none → (s.fn f).gobWait ≠ 0 →
        s.loseGob p = s.modChan p fun c => { c with gobWait := some (s.now.cclk + 1024 * (s.fn f).gobWait) }))
    ∧ (∀ f, s.mayTakeGob f = true ↔ 0 < s.cuFree ∧ (s.cul.quota = true →
        (s.fn f).charge < (s.fn f).ceiling ∧ ((s.fn f).charge < (s.fn f).reserve ∨ s.unusedSum < s.cuFree)))
    ∧ (∀ p w, s.requester p = some w → s.exhaust p = (let t := s.failWork p w.serial .gobExhausted;
        (({ t with cul := { t.cul with exhausted := satAdd 32 t.cul.exhausted 1 } } : State).raise 1461)))
    ∧ (∀ p at_, (s.chan p).gobWait = some at_ → exec (.gobWaitExpiry p) s
        = .next (s.settle (((s.reachCclk at_).modChan p fun c => { c with gobWait := none }).exhaust p)))
    ∧ (∀ p w, (s.chan p).started.find? (fun w => w.live && w.chain == .building) = some w → w.writesDone = true →
        w.prefixBits = w.dataBits → (∀ g ∈ w.gobs, s.recBusy g.gob = false) →
        exec (.chainCommit p) s = .next (s.settle ((s.writeRec w.headGob { s.gobRec w.headGob with
          state := .head }).modWork p w.serial fun x => { x with chain := .committing })))
    ∧ (∀ p w, w.live = true → w.chain = .unresolved → w.headRec = none → s.staleIndex w.desc.srcAddr = false →
        let head := handleGob w.desc.srcAddr
        let addr := s.cul.metaBase + 16 * head
        s.recBusy head = false → s.reading (.headRec p w.serial) = false →
        s.workRecs p w = s.post (deviceRead s (.headRec p w.serial) (s.portOf addr) addr 16 2 false))
    ∧ (∀ p ctx (u : State) w, u = s.ctxFaults ctx →
        ((s.chan p).started.any fun w => w.live && w.chain == .unresolved) = true →
        (u.chan p).started.find? (fun w => w.live && w.chain == .unresolved) = some w →
        let h := w.desc.srcAddr
        let head := handleGob h
        let r := u.gobRec head
        let f := u.chFn p
        let slot := ((u.chan p).owner.map Prod.snd).getD 0
        let failed := fun (t : State) => s.settle ((t.modWork p w.serial fun x =>
          { x with pinned := false }).failWork p w.serial .indexRange)
        (u.staleIndex h = true → exec (.handleResolve p ctx) s = .next (failed u))
        ∧ (u.staleIndex h = false → w.headRec = none → exec (.handleResolve p ctx) s = .next (s.settle s))
        ∧ (∀ x, u.staleIndex h = false → w.headRec = some x → x.bind (parseRec head) = none →
          exec (.handleResolve p ctx) s = .next (failed (u.quarantine head)))
        ∧ (∀ x q, u.staleIndex h = false → w.headRec = some (some x) → parseRec head x = some q →
          (rawState x ≠ 2 ∨ rawGen x ≠ handleGen h ∨ u.stale h = true ∨ r.holdMask.getLsbD f = false →
            exec (.handleResolve p ctx) s = .next (failed u))
          ∧ (rawState x = 2 → rawGen x = handleGen h → u.stale h = false → r.holdMask.getLsbD f = true →
            (w.desc.op = some .punty → (r.freerFn ≠ f ∨ r.freerSlot ≠ slot ∨ u.pinnedFor f head = true) →
              exec (.handleResolve p ctx) s = .next (s.settle (u.failWork p w.serial .indexRange)))
            ∧ (w.desc.op = some .punty → r.freerFn = f → r.freerSlot = slot → u.pinnedFor f head = false →
              exec (.handleResolve p ctx) s = .next (s.settle ((u.writeRec head { r with
                  freerFn := w.desc.toFunction, freerSlot := w.desc.toSlot
                  holdMask := (r.holdMask &&& ~~~ BitVec.ofNat 16 (2 ^ f)) ||| BitVec.ofNat 16 (2 ^ w.desc.toFunction)
                }).modWork p w.serial fun x => { x with acted := true, chain := .none })))
            ∧ (w.desc.op ≠ some .punty → exec (.handleResolve p ctx) s = .next (s.settle (u.modWork p w.serial fun y =>
                ({ y with chain := .resolved, headGob := head, headGen := handleGen h, pinned := true, gobs := [] } :
                  Work).addGob u.cul.fresh head r))))))
    ∧ (∀ (w : Work) fresh g (r : GobRec),
      let x := ({ w with gobs := w.gobs ++ [{ gob := g, bytes := r.fill + 1 }] } : Work)
      let need := rowBytes w.desc.srcLayout w.desc.length
      (r.last = false → r.next < fresh → x.chainHas < need → w.addGob fresh g r = { x with nextGob := some r.next })
      ∧ (r.last = false → r.next < fresh → need ≤ x.chainHas → w.addGob fresh g r = { x with nextGob := none })
      ∧ (r.last = true ∨ fresh ≤ r.next → w.addGob fresh g r = { x with
          nextGob := none
          clip := if x.chainHas < need then some (contentBits w.desc.srcLayout x.chainHas) else w.clip }))
    ∧ (∀ p n g x w, s.work? p n = some w →
      let ended := fun (t : State) => t.modWork p n fun y => { y with
        nextGob := none
        clip := if y.chainHas < y.chainNeed then some (contentBits y.desc.srcLayout y.chainHas) else y.clip }
      (∀ r, x.bind (parseRec g) = some r → r.state = .member → r.head = w.headGob → r.headGen = w.headGen →
        s.memberRead p n g x = s.modWork p n fun y => y.addGob s.cul.fresh g r)
      ∧ (∀ r, x.bind (parseRec g) = some r → (r.state ≠ .member ∨ r.head ≠ w.headGob ∨ r.headGen ≠ w.headGen) →
        s.memberRead p n g x = ended s)
      ∧ (x.bind (parseRec g) = none → s.memberRead p n g x = ended (s.quarantine g)))

/-- R218, R220, R222, R224, R236, R239: freed gobs go back one by one, the head last; the walk frees what points to its
head and quarantines the rest; the stack spills and fills in bursts; a sweep reads its records and takes one after the
other; a freed or unknown handle is stale. It rests on assumptions 10, 45, 46, 67, the model's choices. -/
def Obligations.GobsAreFreedAndSwept : Prop :=
  ∀ s : State, let c := s.cul;
    (∀ g ctx (u : State) e, u = s.ctxFaults ctx →
      (c.freeing.any fun e => e.cur == some g || e.head == g) = true → u.recBusy g = false →
      u.cul.freeing.find? (fun e => if e.cur.isSome then e.freed && e.cur == some g else e.head == g) = some e →
      (e.cur = none → exec (.gobMemberFreed g ctx) s
        = .next (s.settle ((u.setFreeing e.head fun _ => none).returnGob g e.allocFn)))
      ∧ (e.cur.isSome = true → u.cul.quarantined.contains g = true → exec (.gobMemberFreed g ctx) s
        = .next (s.settle (u.setFreeing e.head fun y => some { y with cur := none, freed := false })))
      ∧ (e.cur.isSome = true → u.cul.quarantined.contains g = false → exec (.gobMemberFreed g ctx) s
        = .next (s.settle ((u.returnGob g e.allocFn).setFreeing e.head fun y =>
            some { y with cur := y.next, freed := false, next := none }))))
    ∧ (∀ g f, (c.quarantined.contains g = true ∨ (c.sweep = true ∧ c.sweepPos ≤ g ∧ g < c.sweepEnd)
        → s.returnGob g f = s)
      ∧ (c.quarantined.contains g = false → (c.sweep = false ∨ g < c.sweepPos ∨ c.sweepEnd ≤ g) → c.onBlock < 16384 →
        s.returnGob g f = ({ s with cul := { c with stack := g :: c.stack, onBlock := c.onBlock + 1 } } : State).modFn f
          fun x => { x with charge := x.charge - 1 }))
    ∧ (∀ head x e m, c.freeing.find? (fun e => e.head == head && !e.freed) = some e → e.cur = some m →
      (∀ r, x.bind (parseRec m) = some r → r.state = .member → r.head = head → r.headGen = e.headGen →
        s.walkRead head x = (s.writeRec m { gen := nextGen r.gen }).setFreeing head fun y =>
          some { y with freed := true, next := y.after c.fresh r, known := y.known.map (List.drop 1) })
      ∧ (∀ r, x.bind (parseRec m) = some r → (r.state ≠ .member ∨ r.head ≠ head ∨ r.headGen ≠ e.headGen) →
        s.walkRead head x = (if c.quarantined.contains m = true then s else s.quarantine m).setFreeing head fun y =>
          some { y with cur := none })
      ∧ (x.bind (parseRec m) = none →
        s.walkRead head x = (s.quarantine m).setFreeing head fun y => some { y with cur := none }))
    ∧ (∀ g, let t := s.quarantine g
      t.gobRec g = { quar := true } ∧ g ∉ t.cul.stack ∧ t.cul.quarantined.contains g = true
      ∧ t.cul.metaCheck = satAdd 16 c.metaCheck 1 ∧ t.isPending 1459 = true
      ∧ t.cul.quar = (if c.quarantined.contains g = true then c.quar else c.quar + 1))
    ∧ (256 ≤ c.onBlock → ∃ addr bytes n, n = 256 - c.inMemory % 256 ∧ addr = c.stackBase + 4 * c.inMemory
      ∧ bytes = ((s.stackGobs addr (4 * n)).map fun g => leBytes 4 (handleOf (s.gobRec g).gen g)).flatten
      ∧ exec .freeStackSpill s = .next (s.settle (({ s with cul := { c with onBlock := c.onBlock - n } } : State).post
          (deviceWrite s .spill (s.portOf addr) addr 2 false bytes))))
    ∧ (0 < c.inMemory → c.onBlock + 256 ≤ 16384 → (∀ t ∈ s.txns, t.purpose ≠ .spill ∧ t.purpose ≠ .fill) →
      let n := (c.inMemory - 1) % 256 + 1
      let addr := c.stackBase + 4 * (c.inMemory - n)
      exec .freeStackFill s = .next (s.settle (s.post (deviceRead s .fill (s.portOf addr) addr (4 * n) 2 false))))
    ∧ (∀ k, c.sweep = true → c.sweepNext < c.sweepEnd → s.sweepReads < 64 →
      let addr := c.metaBase + 16 * c.sweepNext
      State.sweepRecs (k + 1) s = State.sweepRecs k (({ s with cul := { c with sweepNext := c.sweepNext + 64 } } :
        State).post (deviceRead s (.sweep c.sweepNext) (s.portOf addr) addr (16 * min 64 (c.count - c.sweepNext)) 0
          false)))
    ∧ (∀ l m (u : State), u = (s.ctxFaults l).ctxFaults m → c.sweep = true →
      (u.sweepRec u.cul.sweepPos = none → exec (.sweepRecord l m) s = .next (s.settle s))
      ∧ (∀ x, u.sweepRec u.cul.sweepPos = some x → (∀ r, x = some r → r.state ≠ .member) →
        exec (.sweepRecord l m) s = .next (s.settle (u.sweepOn u.cul.sweepPos x none)))
      ∧ (∀ r y, u.sweepRec u.cul.sweepPos = some (some r) → r.state = .member → u.sweepHeadRec r.head = some y →
        exec (.sweepRecord l m) s = .next (s.settle (u.sweepOn u.cul.sweepPos (some r) y)))
      ∧ (∀ r, u.sweepRec u.cul.sweepPos = some (some r) → r.state = .member → u.sweepHeadRec r.head = none →
        exec (.sweepRecord l m) s = .next (s.settle (u.askHead r.head))))
    ∧ (∀ g x y, ∃ u : State, u = { s with cul := { c with
          sweepPos := g + 1, sweepHead := none, sweepData := c.sweepData.filter fun e => decide (g + 1 < e.1 + 64) } }
      ∧ (g + 1 < c.sweepEnd → s.sweepOn g x y = u.sweepParsed g x y)
      ∧ (c.sweepEnd ≤ g + 1 → (s.sweepOn g x y).cul.sweep = false ∧ (s.sweepOn g x y).isPending 1460 = true))
    ∧ (∀ g y, s.sweepParsed g none y = s.quarantine g
      ∧ ∀ r : GobRec,
        let kept := ({ s with cul := { c with records := put c.records g r } } : State)
        let back := (kept.writeRec g { gen := nextGen r.gen }).pushGob g
        let charged := fun (f : Nat) => kept.modFn f fun x => { x with charge := x.charge + 1 }
        (r.state = .free → r.quar = false → s.sweepParsed g (some r) y = kept.pushGob g)
        ∧ (r.state = .free → r.quar = true → (c.quarantined.contains g = true → s.sweepParsed g (some r) y = kept)
          ∧ (c.quarantined.contains g = false → s.sweepParsed g (some r) y = { kept with cul := { kept.cul with
              quar := c.quar + 1, quarantined := c.quarantined ++ [g] } }))
        ∧ (r.state = .building → s.sweepParsed g (some r) y = back)
        ∧ (r.state = .head → (s.sweepParsed g (some r) y).fns = (charged r.allocFn).fns
          ∧ (s.sweepParsed g (some r) y).gobRec g = r)
        ∧ (r.state = .member → ∀ h, y = some h → h.state = .head → h.gen = r.headGen →
          s.sweepParsed g (some r) y = charged h.allocFn)
        ∧ (r.state = .member → (y = none ∨ ∃ h, y = some h ∧ (h.state ≠ .head ∨ h.gen ≠ r.headGen)) →
          s.sweepParsed g (some r) y = back))
    ∧ (∀ h, s.stale h = false ↔ handleGen h ≠ 0 ∧ handleGob h < c.count ∧ handleGob h < 2 ^ s.member.gobBits
        ∧ handleGob h < c.fresh ∧ (s.gobRec (handleGob h)).state = .head
        ∧ (s.gobRec (handleGob h)).gen = handleGen h ∧ c.forced.contains (handleGob h) = false)

/-- R214, R248, R250 to R252, R259 to R262, R265, R271: a ready channel takes a place and forms its next request; the
port sends responses before requests, by class and in turn; a response ends its request, and a time-out retries it or
fails its owner. It rests on assumptions 2, 24, 43, 49, 52, 53, 54, 55, the model's choices. -/
def Obligations.RemoteRequestsRun : Prop :=
  ∀ s : State,
    (s.member.hasXezan = true → cclkUp s = true → s.rst.crucible = true → s.opt.bad = false → s.xez.outstanding < 1024 →
      s.xez.placePtr < 128 → ∀ p w q, p < 128 → s.readyWork p = some (w, q) →
      (∀ o, o < 128 → (s.readyWork o).isSome = true →
        (p + 128 - s.xez.placePtr) % 128 ≤ (o + 128 - s.xez.placePtr) % 128) →
      let t := ({ s with xez := { s.xez with placePtr := (p + 1) % 128 } } : State);
      ∀ found, (s.isStale p w = true → exec (.xezanPlaceGrant found) s = .next (s.settle (s.staleEdge p w)))
      ∧ (s.isStale p w = false → w.desc.toRemote = false →
        exec (.xezanPlaceGrant found) s = .next (s.settle (t.formReq p w q)))
      ∧ (s.isStale p w = false → w.desc.toRemote = true → eccUe found = false →
        exec (.xezanPlaceGrant found) s = .next (s.settle ((t.countEcc found).formReq p w q)))
      ∧ (s.isStale p w = false → w.desc.toRemote = true → eccUe found = true → exec (.xezanPlaceGrant found) s
        = .next (s.settle (((t.countEcc found).failWork p w.serial .eccUncorrected).chanCause p 3))))
    ∧ (∀ p w, (s.nextReq p w).hdr.seq = (s.sendState w.peer p).counter
      ∧ (s.nextReq p w).hdr.sync = (s.sendState w.peer p).sync ∧ (s.nextReq p w).hdr.chan = p
      ∧ (s.nextReq p w).hdr.offset = (if w.desc.toRemote = true then w.desc.dstAddr else w.desc.srcAddr) + 1024 * w.frames
      ∧ (s.nextReq p w).len = min 1024 (w.desc.length - 1024 * w.frames))
    ∧ (∀ p w q, w.peer = q.peer → ∃ t, s.formReq p w q = t ∧ t.nextId = s.nextId + 1
      ∧ t.xez.reqs = s.xez.reqs ++ [{ q with cell := s.nextCell (benchOf p) q.landing }]
      ∧ (t.sendState q.peer p).counter = (s.sendState q.peer p).counter + 1)
    ∧ (∀ port, s.xezanOn port = true → s.opt.bad = false →
      (∀ old r rest, s.xez.respq = old ++ (port, r) :: rest → (∀ o ∈ old, o.1 ≠ port) →
        exec (.xezanFrameSent port) s = .next { s with xez := { s.xez with
          respq := old ++ rest, sent := put s.xez.sent port r } })
      ∧ (∀ q, (∀ o ∈ s.xez.respq, o.1 ≠ port) → s.nextSend port = some q → q.abandoned = false →
        exec (.xezanFrameSent port) s = .next { s with xez := { s.xez with
          reqs := s.xez.reqs.map fun r => if r.id == q.id then { r with phase := .sent s.now.refclk } else r
          turnPtr := put s.xez.turnPtr (4 * port + q.hdr.svc) q.pch
          sent := put s.xez.sent port (frameBytes q.hdr q.payload) } }))
    ∧ (∀ port frame bad, s.xezanOn port = true →
      (s.receive frame bad ≠ .good → exec (.xezanResponseArrival port frame bad) s
        = .next (s.settle (s.discardFrame (s.receive frame bad))))
      ∧ (s.receive frame bad = .good → (frameHdr frame).isResponse = true →
        let h := frameHdr frame;
        (s.peerOf h.srcId = none → exec (.xezanResponseArrival port frame bad) s = .next (s.settle (({ s with
          xez := { s.xez with unknownPeer := satAdd 16 s.xez.unknownPeer 1 } } : State).raise 1465)))
        ∧ (∀ e, s.peerOf h.srcId = some e →
          let x := { s.sendState e h.chan with sync := false };
          let t := ({ s with xez := { s.xez with send := put s.xez.send (128 * e + h.chan) x } } : State);
          let mine := fun (q : XReq) => !q.abandoned && q.pch == h.chan && q.hdr.seq == h.seq && q.hdr.dstId == h.srcId;
          (s.xez.reqs.find? mine = none → exec (.xezanResponseArrival port frame bad) s
            = .next (s.settle (({ t with xez := { t.xez with late := satAdd 16 s.xez.late 1 } } : State).raise 1468)))
          ∧ (∀ q, s.xez.reqs.find? mine = some q → exec (.xezanResponseArrival port frame bad) s
            = .next (s.settle (t.applyResponse q h ((frame.drop 64).take h.payloadLen)))))))
    ∧ (∀ (q : XReq) h payload,
      let t := ({ s with xez := { s.xez with reqs := s.xez.reqs.filter fun r => r.id != q.id } } : State);
      (h.status = 0x06 → s.applyResponse q h payload = s.reqTimeout q)
      ∧ (h.status = 0 → q.hdr.kind = kindReadReq → s.applyResponse q h payload = t.landResponse q payload)
      ∧ (∀ w, h.status = 0 → q.hdr.kind = kindWriteReq → s.work? q.pch q.serial = some w → w.abandoned = false →
        w.pass = false → w.desc.intHalf = false → w.desc.crcCheck = false →
        s.applyResponse q h payload = t.modWork q.pch q.serial fun _ => { w with
          delivered := addRange (8 * q.vlo) (8 * (q.vlo + q.len)) w.delivered })
      ∧ (h.status = 0x05 → s.applyResponse q h payload = (t.freeReq q).failWork q.pch q.serial .busError)
      ∧ (h.status = 0x07 → s.applyResponse q h payload = (t.freeReq q).failWork q.pch q.serial .eccUncorrected)
      ∧ ((h.status = 0x01 ∨ h.status = 0x02 ∨ h.status = 0x03 ∨ h.status = 0x04) → s.applyResponse q h payload
        = (t.freeReq q).failWork q.pch q.serial .windowDenied))
    ∧ (∀ (q : XReq) payload,
      (s.work? q.pch q.serial = none → s.landResponse q payload = s.freeReq q)
      ∧ ∀ w, s.work? q.pch q.serial = some w →
        (w.live = false ∨ (s.chan q.pch).state = .aborting → s.landResponse q payload = s.freeReq q)
        ∧ (w.live = true → (s.chan q.pch).state ≠ .aborting → w.desc.toPort = false →
          ((s.landResponse q payload).work? q.pch q.serial).map (fun x => x.landed.map fun g => (g.off, g.bytes))
            = some ((w.landed.map fun g => (g.off, g.bytes)) ++ [(q.vlo, payload)])))
    ∧ (∀ q at_, s.xez.reqs.find? (fun r => r.id == q.id && !r.abandoned) = some q → q.phase = .sent at_ →
      exec (.xezanRequestTimeout q.id) s = .next (s.settle ((s.reachRefclk (at_ + s.xez.tmo)).reqTimeout q)))
    ∧ (∀ q : XReq, (s.chan q.pch).state = .aborting → s.reqTimeout q
      = ({ s with xez := { s.xez with reqs := s.xez.reqs.filter fun r => r.id != q.id } } : State).freeReq q)
    ∧ (∀ q : XReq, (s.chan q.pch).state ≠ .aborting →
      let t := ({ s with xez := { s.xez with reqs := s.xez.reqs.filter fun r => r.id != q.id } } : State);
      (q.retries < q.retryLimit → ∃ u : State, s.reqTimeout q = u.raise 1469 ∧ u.xez.retries = satAdd 16 s.xez.retries 1
        ∧ u.xez.reqs = t.xez.reqs ++ [{ q with
            retries := q.retries + 1, phase := .queued
            hdr := { q.hdr with seq := (s.sendState q.peer q.pch).counter, sync := (s.sendState q.peer q.pch).sync } }]
        ∧ (u.sendState q.peer q.pch).counter = (s.sendState q.peer q.pch).counter + 1)
      ∧ (q.retryLimit ≤ q.retries → ∃ u, u = t.freeReq q ∧ s.reqTimeout q = (((({ u with xez := { u.xez with
          exhausted := satAdd 16 u.xez.exhausted 1 } } : State).raise 1471).raise (fnEvent q.fn 7)).failWork q.pch
            q.serial .remoteTimeout)))

/-- R246, R253 to R256, R258, R214: what becomes of a received request: discarded, held in its channel's sequence or
answered SEQ_OLD; its turn, its checks, a hold's end, and its response. It rests on assumptions 18, 48, 49, 50, 51, the
model's choices. -/
def Obligations.RemoteRequestsAreServed : Prop :=
  ∀ s : State,
    (∀ port frame bad space, s.xezanOn port = true → let h := frameHdr frame;
      (s.receive frame bad ≠ .good → exec (.xezanRequestReceive port frame bad space) s
        = .next (s.discardFrame (s.receive frame bad)))
      ∧ (s.receive frame bad = .good → h.isRequest = true →
        (s.peerOf h.srcId = none → exec (.xezanRequestReceive port frame bad space) s = .next s.unknownPeer)
        ∧ (∀ e, s.peerOf h.srcId = some e →
          exec (.xezanRequestReceive port frame bad false) s = .next s.noSpaceFor
          ∧ (let t := s.syncRecv e h; let ahead := seqAhead (t.recvState e h.chan).expected h.seq;
            (2 ^ 31 ≤ ahead → exec (.xezanRequestReceive port frame bad true) s = .next (({ t with xez := { t.xez with
              seqOld := satAdd 16 t.xez.seqOld 1 } } : State).queueResponse (t.portTo e port) (h.reply 0x06 0) []))
            ∧ (ahead < 2 ^ 31 → (ahead = 0 ∨ (t.xez.jobs.filter fun j => j.held && j.peer == e).length < 64) →
              exec (.xezanRequestReceive port frame bad true) s = .next { t with
                nextId := t.nextId + 1
                xez := { t.xez with jobs := t.xez.jobs ++ [{
                  id := t.nextId, port := port, peer := e, hdr := h
                  payload := (frame.drop 64).take h.payloadLen, heldAt := t.now.refclk }] } })
            ∧ (0 < ahead → ahead < 2 ^ 31 → 64 ≤ (t.xez.jobs.filter fun j => j.held && j.peer == e).length →
              exec (.xezanRequestReceive port frame bad true) s = .next t.noSpaceFor)))))
    ∧ (s.opt.bad = false → s.discardFrame .link
        = ({ s with xez := { s.xez with link := satAdd 16 s.xez.link 1 } } : State).raise 1464
      ∧ s.discardFrame .format = ({ s with xez := { s.xez with format := satAdd 16 s.xez.format 1 } } : State).raise 1464)
    ∧ (∀ peer (h : FrameHdr), ((s.recvState peer h.chan).initial = true ∨ h.sync = true) →
      ((s.syncRecv peer h).recvState peer h.chan).expected = h.seq)
    ∧ (∀ peer port, let x := (look {} s.xez.peers peer : Peer)
      s.portTo peer port = if x.bound = true then x.port else port)
    ∧ (∀ peer chan j, s.xezanUp = true →
      (s.heldOf peer chan).find? (fun j => j.hdr.seq == (s.recvState peer chan).expected) = some j →
      exec (.xezanRequestTurn peer chan) s = .next (s.serve j))
    ∧ (∀ j : XJob, let w := s.windowOf j.hdr;
      let t := (s.setRecv j.peer j.hdr.chan { expected := j.hdr.seq + 1, initial := false }).modJob j.id fun x =>
        { x with held := false, status := s.windowCheck j.hdr, sigEn := w.sigEn, sigId := w.sigId };
      (s.windowCheck j.hdr = 0 → s.serve j = t.serveAccesses j)
      ∧ (s.windowCheck j.hdr ≠ 0 → s.member.fnPresent j.hdr.fn = true → s.serve j = (({ t with xez := { t.xez with
          refused := satAdd 16 t.xez.refused 1 } } : State).raise 1470).raise (fnEvent j.hdr.fn 7)))
    ∧ (∀ h : FrameHdr, h.kind = kindWriteReq → let w := s.windowOf h;
      (s.windowCheck h = 1 ↔ h.fn ≥ s.member.functions ∨ w.pages = 0)
      ∧ (h.fn < s.member.functions → w.pages ≠ 0 → (s.windowCheck h = 2 ↔ w.token ≠ h.token)
        ∧ (w.token = h.token → (s.windowCheck h = 3 ↔ w.write = false)
          ∧ (w.write = true → (s.windowCheck h = 4 ↔ 4096 * w.pages < h.offset + h.payloadLen)
            ∧ (s.windowCheck h = 0 ↔ h.offset + h.payloadLen ≤ 4096 * w.pages)))))
    ∧ (∀ peer chan j, s.xezanUp = true →
      (s.heldOf peer chan).find? (fun j => j.hdr.seq != (s.recvState peer chan).expected) = some j →
      ∃ (t u : State) (l : List XJob), t = s.reachRefclk (j.heldAt + s.xez.hold)
      ∧ u = ({ t with xez := { t.xez with voids := satAdd 16 t.xez.voids 1 } } : State).raise 1467
      ∧ exec (.xezanHoldTimeout peer chan) s = .next (l.foldl State.serve u)
      ∧ (∀ x, x ∈ l ↔ x ∈ s.heldOf peer chan ∧ seqAhead (s.recvState peer chan).expected x.hdr.seq
          ≤ seqAhead (s.recvState peer chan).expected j.hdr.seq))
    ∧ (∀ port job (j : XJob), s.xezanUp = true →
      s.xez.jobs.find? (fun j => j.id == job && !j.held && s.portTo j.peer j.port == port) = some j →
      (∀ t ∈ s.txns, t.purpose ≠ .xwrite job ∧ ∀ o n, t.purpose ≠ .xread job o n) →
      let t := ({ s with xez := { s.xez with jobs := s.xez.jobs.filter fun x => x.id != job } } : State);
      let bytes := gather j.data
      (j.status ≠ 0 → s.txRoom port 1 = true → ∀ found, exec (.xezanResponseSend port job found) s
        = .next (t.queueResponse port (j.hdr.reply j.status 0) []))
      ∧ (j.status = 0 → j.failed = true → s.txRoom port 1 = true → exec (.xezanResponseSend port job []) s
        = .next (t.queueResponse port (j.hdr.reply 5 0) []))
      ∧ (j.status = 0 → j.failed = false → j.hdr.kind = kindReadReq →
        s.txRoom port (1 + (bytes.length + 63) / 64) = true → exec (.xezanResponseSend port job []) s
        = .next (t.queueResponse port (j.hdr.reply 0 bytes.length) bytes))
      ∧ (j.status = 0 → j.failed = false → j.hdr.kind = kindWriteReq → s.txRoom port 1 = true →
        let u := t.queueResponse port (j.hdr.reply 0 0) [];
        exec (.xezanResponseSend port job []) s = .next (if (j.hdr.last && j.sigEn) = true
          then u.raiseSignal j.hdr.fn j.sigId else u))
      ∧ (j.status = 0 → s.txRoom port 1 = true → ∀ found, eccUe found = true →
        ∃ u, exec (.xezanResponseSend port job found) s = .next u
        ∧ u.xez.respq = s.xez.respq ++ [(port, frameBytes (j.hdr.reply 7 0) [])]
        ∧ u.safety.cause = s.safety.cause ||| 8#16))

/-- R238, R239, R315 to R320, R330, R333, R334, R64 to R66: what cold, warm and debug resets leave, their release, the
release of a domain, the ends of function and bench resets, and the test ports: IDCODE, BYPASS, and what DEBUG_LOCK
leaves of them. It rests on assumptions 57, 58, 59, 65, 66, 96, the model's choices. -/
def Obligations.ResetsAndTheirReleases : Prop :=
  ∀ s : State,
    exec .coldReset s = .next { member := s.member, pending := s.pending, now := s.now, edges := s.edges, tap := s.tap
                                wrapper := s.wrapper, apb := { held := s.apb.held }, goCount := s.goCount }
    ∧ (s.rst.coldHeld = true → exec .warmResetPin s = .next s ∧ exec .debugReset s = .next s)
    ∧ (s.opt.debugLock = true → exec .debugReset s = .next s)
    ∧ (∀ pin, s.rst.coldHeld = false → (pin = true ∨ s.opt.debugLock = false) →
        ∃ t, exec (if pin = true then .warmResetPin else .debugReset) s = .next t
        ∧ t.rst.warmHeld = true ∧ t.rst.last = (if pin = true then 2 else 4) ∧ t.rst.stable = 0
        ∧ t.rst.warmCount = satAdd 16 s.rst.warmCount 1 ∧ t.rst.crucible = false ∧ t.rst.gaffer = false
        ∧ t.opt = s.opt ∧ t.gaf.image = s.gaf.image ∧ t.cul.records = s.cul.records ∧ t.cul.fresh = s.cul.fresh
        ∧ t.chans = [] ∧ t.fns = [] ∧ t.ports = [] ∧ t.mailboxes = [] ∧ t.regq = [] ∧ t.xez = {} ∧ t.glob = {}
        ∧ t.txns = (if s.rst.memLost = true then [] else (s.txns.filter Txn.isIssued).map Txn.retire)
        ∧ t.safety.cause = 0x8000 ∧ t.safety.asserted = true ∧ t.safety.alarmP = false
        ∧ t.safety.alarmN = (s.opt.loaded && !s.rst.refLost))
    ∧ (s.rst.coldHeld = true → exec .resetRelease s
        = .next { s with rst := { s.rst with coldHeld := false, optLoading := true, optNext := 0 } })
    ∧ (s.rst.coldHeld = false → s.rst.warmHeld = true →
        (s.rst.optLoading = true → exec .resetRelease s = .next { s with rst := { s.rst with warmHeld := false } })
        ∧ (s.rst.optLoading = false → exec .resetRelease s = .next { s with rst := { s.rst with
            warmHeld := false, releasing := true, waiting := ~~~ s.rst.stable } }))
    ∧ (∀ d, s.rst.releasing = true → d < 9 → s.rst.waiting.getLsbD d = true →
        let t := ({ s with rst := { s.rst with
          stable := s.rst.stable ||| BitVec.ofNat 9 (2 ^ d), waiting := s.rst.waiting &&& ~~~ BitVec.ofNat 9 (2 ^ d)
          lost := s.rst.lost &&& ~~~ BitVec.ofNat 9 (2 ^ d) } } : State);
        (d ≠ 0 → d ≠ 2 → exec (.domainRelease d) s = .next t)
        ∧ (d = 2 → exec (.domainRelease d) s = .next { t with apb := {} })
        ∧ (d = 0 → s.rst.optEvent = false →
          (s.rst.sweep = true → s.member.hasCullet = true → s.cul.fresh ≠ 0 → ∃ u, u = ({ t with
              rst := { t.rst with sweep := false }
              cul := { t.cul with sweep := true, sweepPos := 0, sweepNext := 0, sweepEnd := s.cul.fresh, quar := 0
                                  quota := false }
              regq := [] } : State) ∧ exec (.domainRelease d) s = .next (u.settle (s.regq.foldl State.applyEntry u)))
          ∧ (s.rst.sweep = false ∨ s.member.hasCullet = false → ∃ u,
            u = ({ t with rst := { t.rst with sweep := false }, regq := [] } : State)
            ∧ exec (.domainRelease d) s = .next (u.settle (s.regq.foldl State.applyEntry u)))))
    ∧ (∀ f, (s.fn f).resetting = true → s.fnQuiet f = true → ∃ t, exec (.resetDone f) s = .next t
        ∧ (t.fn f).resetting = false ∧ (t.fn f).ready = ((s.fn f).ready || (s.fn f).enabled)
        ∧ (f < 16 → t.isPending (fnEvent f 6) = true)
        ∧ ∀ p sl, (s.chan p).owner = some (f, sl) → (t.chan p).ring.t = 0 ∧ (t.chan p).ring.f = 0
          ∧ (t.chan p).ring.h = 0 ∧ (t.chan p).owner = some (f, sl)
          ∧ (t.chan p).state = if ((s.chan p).cfg.ringMode && (s.chan p).ring.bound) = true then .running else .idle)
    ∧ (∀ b, (s.bench b).resetting = true → ∃ t, exec (.benchResetDone b) s = .next t
        ∧ t.benches = put s.benches b { s.bench b with resetting := false }
        ∧ (∀ m, m < 17 → (s.mailbox m).wait = .bench b → (s.mailbox m).busy = true → gclkUp s = true →
            (t.mailbox m).wait = .none ∧ (t.mailbox m).busy = false ∧ (t.mailbox m).done = true
            ∧ (t.mailbox m).status = 0))
    ∧ (∀ (x : Tap) (lock : Bool) (id : W32),
        (∀ a b c d e, let y := ((((x.cycle lock id true a).cycle lock id true b).cycle lock id true c).cycle lock id
            true d).cycle lock id true e; y.phase = .reset ∧ y.instr = .idcode)
        ∧ (x.phase = .captureDr → x.instr = .idcode → ∀ tdi,
            (x.cycle lock id false tdi).phase = .shiftDr
            ∧ (x.cycle lock id false tdi).drShift = (List.range 32).map fun i => id.getLsbD i)
        ∧ (x.phase = .captureDr → x.instr ≠ .idcode → (lock = true ∨ x.instr = .bypass) → ∀ tdi,
            (x.cycle lock id false tdi).drShift = [false]))
    ∧ (∀ bits : List Bool, bits.all id = true → tapDecode bits = .bypass)
    ∧ (∀ (x : Wrapper) (n : Nat) (capture update wsi : Bool), x.wdrCycle n true capture true update wsi
        = { x with bypass := wsi, wso := wsi })
    ∧ (s.opt.debugLock = true → s.isolated = false)

/-- R325 to R327, R335, R336, R338, R356, R363: the option map is taken after its sixteenth word when it passes its
checks, else its safe defaults; the crucible's fill and the Gaffer's boot make functions ready; a flash boot reads SFDP,
raises FL_SCK to its fastest, and runs the image of the higher valid activation record that verifies, or recovery mode.
It rests on assumptions 4, 69, the model's choices. -/
def Obligations.OptionLoadAndBringUp : Prop :=
  ∀ s : State,
    (s.rst.coldHeld = false → s.rst.optLoading = true →
      (∀ v, let t := ({ s with
          opt := { s.opt with words := put s.opt.words s.rst.optNext v }
          rst := { s.rst with optNext := s.rst.optNext + 1, optReq := false } } : State);
        let w := fun i => look 0 t.opt.words i;
        let passes := (crc16 (optBytes w)).toNat = (w 15).toNat % 2 ^ 16;
        (s.rst.optNext < 15 → exec (.optWordRead v) s = .next t)
        ∧ (s.rst.optNext = 15 → ¬ passes → exec (.optWordRead v) s = .next (t.loadFailed .crc))
        ∧ (s.rst.optNext = 15 → passes → optContentOk s.member w = false →
          exec (.optWordRead v) s = .next (t.loadFailed .content))
        ∧ (s.rst.optNext = 15 → passes → optContentOk s.member w = true → ∃ u, exec (.optWordRead v) s = .next u
          ∧ u = t.loadDone (optGood t.opt w) ∧ u.opt.loaded = true ∧ u.opt.bad = s.opt.bad
          ∧ u.opt.instanceId = (w 1).toNat % 2 ^ 18 ∧ u.opt.debugLock = (w 0).getLsbD 19))
      ∧ exec .optAckTimeout s = .next (s.loadFailed .timeout))
    ∧ (∀ why, (s.loadFailed why).opt.bad = true ∧ (s.loadFailed why).opt.reason = why
        ∧ (s.loadFailed why).opt.debugLock = true ∧ (s.loadFailed why).opt.instanceId = 0x3FFFF
        ∧ (s.loadFailed why).opt.quadAllow = false ∧ (s.loadFailed why).safety.cause.getLsbD 8 = true
        ∧ (s.loadFailed why).rst.optLoading = false)
    ∧ (cclkUp s = true → s.rst.crucible = false → ∃ t, t = { s with rst := { s.rst with crucible := true } }
        ∧ exec .crucibleFillDone s = .next ((List.range s.member.functions).foldl State.readyOne t))
    ∧ (∀ f, (s.readyOne f = if ((s.fn f).enabled && !(s.fn f).ready && !(s.fn f).resetting && s.rst.crucible
        && s.rst.gaffer) = true then (s.setFn f { s.fn f with ready := true }).raise (fnEvent f 0) else s))
    ∧ (s.rst.stable.getLsbD 8 = true → s.gaf.state = .booting → ∀ x a b,
        let t := ({ s with gaf := { s.gaf.foundSfdp s.opt.quadAllow x with slotA := some a, slotB := some b } } : State);
        (∀ i, s.gaf.image = some i → s.rst.needFlash = false →
          exec (.gafferBootDone true x ⟨a, b⟩) s = .next ((s.gafferUp i true).rollBack 0))
        ∧ (∀ ok, s.gaf.image = none →
          (∀ j, flashImage a b = some j → exec (.gafferBootDone ok x ⟨a, b⟩) s = .next (t.gafferUp j false))
          ∧ (flashImage a b = none → exec (.gafferBootDone ok x ⟨a, b⟩) s = .next (t.gafferRecovery a b)))
        ∧ (∀ ok, s.gaf.image.isSome = true → (ok = false ∨ s.rst.needFlash = true) →
          (∀ j, flashImage a b = some j → exec (.gafferBootDone ok x ⟨a, b⟩) s = .next ((t.gafferUp j false).rollBack 0))
          ∧ (flashImage a b = none → exec (.gafferBootDone ok x ⟨a, b⟩) s = .next ((t.gafferRecovery a b).rollBack 0))))
    ∧ (∀ x, (s.gaf.foundSfdp s.opt.quadAllow x).quad = (s.opt.quadAllow && x.quad)
        ∧ (s.gaf.foundSfdp s.opt.quadAllow x).addr4 = x.addr4
        ∧ ∃ n, (s.gaf.foundSfdp s.opt.quadAllow x).sckDiv = some n ∧ n % 2 = 0 ∧ 2 ≤ n ∧ x.gclkKhz ≤ 100000 * n
          ∧ ∀ m, m % 2 = 0 → 2 ≤ m → x.gclkKhz ≤ 100000 * m → n ≤ m)
    ∧ (∀ i sram, (s.gafferUp i sram).gaf.state = .running ∧ (s.gafferUp i sram).rst.gaffer = true
        ∧ (s.gafferUp i sram).gaf.fwVersion = i.version ∧ (s.gafferUp i sram).gaf.actSeq = i.seq)
    ∧ (∀ a b, (s.gafferRecovery a b).gaf.state = .recovery ∧ (s.gafferRecovery a b).gaf.recovery = true
        ∧ (s.gafferRecovery a b).rst.gafferFail = true ∧ (s.gafferRecovery a b).rst.gaffer = s.rst.gaffer
        ∧ (s.gafferRecovery a b).gaf.image = none)
    ∧ (∀ x : FlashSlot, let r := imageBytes x.recordBytes 16;
        x.seq? = if imageField r 0 4 = 0x41435456 ∧ imageField r 12 4 = (crc32 (r.take 12)).toNat
            ∧ BitVec.ofNat 32 (imageField r 8 4) = x.digestLo then some (imageField r 4 4) else none)
    ∧ (∀ (a b : FlashSlot) (m n : Nat), let image := fun k (x : FlashSlot) j =>
          ({ slot := k, bank := 0, version := x.version, seq := j } : GafImage);
        (a.seq? = some m → (b.seq? = none ∨ (b.seq? = some n ∧ n ≤ m)) → a.verifies = true →
          flashImage a b = some (image 0 a m))
        ∧ (b.seq? = some n → (a.seq? = none ∨ (a.seq? = some m ∧ m < n)) → b.verifies = true →
          flashImage a b = some (image 1 b n))
        ∧ (a.seq? = some m → b.seq? = some n → m < n → b.verifies = false → a.verifies = true →
          flashImage a b = some (image 0 a m)))

/-- R284 to R286, R322, R353, R354, R362: the Gaffer's resets, the loss of a clock and of refclk, and the samples,
events and faults of the sensors. It rests on assumptions 58, 61, 63, 64, 70, 79, the model's choices. -/
def Obligations.LossesAndSensors : Prop :=
  ∀ s : State,
    (s.rst.stable.getLsbD 8 = true → s.gaf.state ≠ .booting →
      exec .gafferWatchdog s = .next ((({ s with gaf := { s.gaf with
          resWatchdog := satAdd 8 s.gaf.resWatchdog 1 } } : State).raiseUp 1451).gafferReset 2)
      ∧ (s.member.safetyFull = true → ∃ t, t = ({ s with
          gaf := { s.gaf with resLockstep := satAdd 8 s.gaf.resLockstep 1, recovering := true }
          safety := { s.safety with lockstep := satAdd 16 s.safety.lockstep 1 } } : State)
        ∧ exec .lockstepMismatch s = .next (((t.setCause 7).raiseUp 1414).gafferReset 1)))
    ∧ (∀ cause, (s.gafferReset cause).rst.gaffer = false ∧ (s.gafferReset cause).gaf.state = .booting
      ∧ (s.gafferReset cause).gaf.staging = false ∧ (s.gafferReset cause).gaf.act = none
      ∧ (s.gafferReset cause).goOrder = [] ∧ (s.gafferReset cause).goTied = [])
    ∧ (∀ d, d < 9 → s.rst.stable.getLsbD d = true → ∃ t, exec (.clockLoss d) s = .next t
      ∧ t.rst.stable.getLsbD d = false ∧ t.rst.lost.getLsbD d = true ∧ t.rst.waiting.getLsbD d = true
      ∧ t.safety.clkLoss.getLsbD d = true ∧ t.safety.cause.getLsbD 6 = true ∧ t.safety.asserted = true
      ∧ (3 ≤ d → d ≤ 6 → (s.chans.any fun e => (e.2.inGroup (d - 3)).isSome) = true → t.safety.cause.getLsbD 5 = true)
      ∧ (d = 8 → t.gaf.state = .booting ∧ t.rst.gaffer = false))
    ∧ ((cclkUp s = true ∨ s.rst.stable.getLsbD 8 = true) → s.rst.refLost = false → ∃ t, exec .refclkLoss s = .next t
      ∧ t.rst.refLost = true ∧ t.safety.alarmP = false ∧ t.safety.alarmN = false
      ∧ t.safety.cause.getLsbD 6 = true ∧ t.safety.clkLoss.getLsbD 9 = true)
    ∧ (∀ n, n < 4 → look false s.gaf.sensors.faulty n = false → ∀ v, let x := s.gaf.sensors;
      let y := ({ x with temp := put x.temp n v, tempMax := put x.tempMax n (maxSigned (look v x.tempMax n) v) } : Sensors);
      let after := fun z => ({ s with gaf := { s.gaf with sensors := z } } : State);
      (look true x.armed n = true → x.thermHigh.toInt ≤ v.toInt → exec (.thermalSample n v) s
        = .next ((after { y with armed := put x.armed n false }).sensorEvent (1424 + n) v.toNat))
      ∧ (v.toInt < x.thermHigh.toInt - 16 → exec (.thermalSample n v) s
        = .next (after { y with armed := put x.armed n true }))
      ∧ (x.thermHigh.toInt - 16 ≤ v.toInt → (look true x.armed n = false ∨ v.toInt < x.thermHigh.toInt) →
        exec (.thermalSample n v) s = .next (after y)))
    ∧ (∀ n mv, n < 3 → let x := s.gaf.sensors;
      let y := ({ x with droopMin := put x.droopMin n (min (look mv x.droopMin n) mv) } : Sensors);
      let after := fun z => ({ s with gaf := { s.gaf with sensors := z } } : State);
      (mv < x.droopLow → look false x.excursion n = false → exec (.droopExcursion n mv) s = .next ((after { y with
          excursion := put x.excursion n true
          droopCnt := put x.droopCnt n (satAdd 16 (look 0 x.droopCnt n) 1) }).sensorEvent (1428 + n) mv))
      ∧ (x.droopLow ≤ mv ∨ look false x.excursion n = true → exec (.droopExcursion n mv) s = .next (after y))
      ∧ (look false x.excursion n = true → x.droopLow + 10 ≤ mv → exec (.droopExcursionEnd n mv) s
        = .next (after { x with excursion := put x.excursion n false })))
    ∧ (∀ n, n < 4 → exec (.sensorFault n) s = .next (({ s with gaf := { s.gaf with sensors := { s.gaf.sensors with
          temp := put s.gaf.sensors.temp n 0x8000, faulty := put s.gaf.sensors.faulty n true } } } : State).sensorEvent 1431
            0x8000))
    ∧ (∀ n, 4 ≤ n → exec (.sensorFault n) s = .next (s.sensorEvent 1431 0))
    ∧ (∀ n value, s.sensorEvent n value = (s.raiseUp n).log 0x20 0xFF (leBytes 2 n ++ leBytes 2 value))
    ∧ (∀ d khz, d < 9 → exec (.clockFreqMeasure d khz) s = .next { s with gaf := { s.gaf with sensors :=
        { s.gaf.sensors with clkKhz := put s.gaf.sensors.clkKhz d (if s.rst.lost.getLsbD d = true then 0 else khz) } } })
/-! ### Mailbox commands (chapter 13)

Every statement of this part is about a mailbox whose command is decided now (`State.Issues`, `State.Fresh`); `t` is the
state with that command taken. -/

/-- R344, R353, R355, R381: GET_INFO, SENSOR_READ READ and LOG_READ reply and change nothing else; a code that the
member does not implement is answered UNKNOWN. It rests on assumption 79, the model's choices. -/
def Obligations.QueryCommandsReply : Prop :=
  ∀ s : State,
    (∀ mb, s.Issues mb 0x0001 [] → exec (.getInfo mb) s = s.decided mb (.apply (s.takenBy mb)
      (leBytes 4 0x0201 ++ leBytes 4 s.gaf.fwVersion.toNat ++ leBytes 4 (s.gValue 0x004).toNat
        ++ ((List.range 4).map fun i => leBytes 4 (s.gValue (0x008 + 4 * i)).toNat).flatten
        ++ leBytes 1 s.gaf.slot ++ leBytes 1 (b2n s.gaf.fromSram) ++ leBytes 1 (b2n s.gaf.recovery)
        ++ leBytes 1 (issuer mb) ++ leBytes 4 s.gaf.actSeq) .none))
    ∧ (∀ mb, s.Fresh mb → codeKnown s.member (s.mailbox mb).code.toNat = false →
        exec (.unknownCommand mb) s = s.decided mb (.refuse 6 []))
    ∧ (∀ mb, s.Issues mb 0x0070 [(0, 1)] → reqByte (s.mailbox mb) 0 = 0 →
        exec (.sensorRead mb) s = s.decided mb (.apply (s.takenBy mb) s.sensorReply .none))
    ∧ (s.Issues 16 0x0071 [(0, 5)] → 1 ≤ reqByte (s.mailbox 16) 4 → reqByte (s.mailbox 16) 4 ≤ 7 →
        reqField (s.mailbox 16) 0 4 ≤ s.gaf.logNext →
        ∃ (n : Nat) (records : List (List Byte)), n = min (reqByte (s.mailbox 16) 4)
            (s.gaf.logNext - max (reqField (s.mailbox 16) 0 4) (s.gaf.logNext - 2048))
          ∧ records.length = n
          ∧ (∀ i, i < n → records[i]? = some
              (match s.gaf.logs.find? fun e => e.1 ==
                  (max (reqField (s.mailbox 16) 0 4) (s.gaf.logNext - 2048) + i) % 2048 with
                | some e => LogRec.bytes e.2 (max (reqField (s.mailbox 16) 0 4) (s.gaf.logNext - 2048) + i)
                | none => List.replicate 32 0))
          ∧ exec (.logRead 16) s = s.decided 16 (.apply (s.takenBy 16)
              (leBytes 4 s.gaf.logNext ++ leBytes 4 (s.gaf.logNext - 2048) ++ leBytes 1 n ++ List.replicate 23 0
                ++ records.flatten) .none))

/-- R354, R290, R268: SENSOR_READ SET and CLEAR, SAFETY_CONFIG and FRESH_SET write the values of their request. -/
def Obligations.ThresholdCommandsApply : Prop :=
  ∀ s : State, let x := s.mailbox 16; let t := s.takenBy 16;
    (s.Issues 16 0x0070 [(0, 1), (4, 4)] → reqByte x 0 = 1 → ∃ u, exec (.sensorSet 16) s = s.decided 16 (.apply u
        u.sensorReply (.config 8)) ∧ u = { t with gaf := { t.gaf with sensors := { t.gaf.sensors with
          thermHigh := BitVec.ofNat 16 (reqField x 4 2), droopLow := reqField x 6 2 } } })
    ∧ (s.Issues 16 0x0070 [(0, 1)] → reqByte x 0 = 2 → ∃ u, exec (.sensorClear 16) s = s.decided 16 (.apply u
        u.sensorReply (.config 8)) ∧ u = { t with gaf := { t.gaf with sensors := { t.gaf.sensors with
          tempMax := [], droopMin := [], droopCnt := [] } } })
    ∧ (s.Issues 16 0x0061 [(0, 2), (4, 4)] → 25 ≤ reqField x 4 4 → reqField x 4 4 ≤ 16777215 →
        exec (.safetyConfig 16) s = s.decided 16 (.apply { t with safety := { t.safety with
          alarmEn := BitVec.ofNat 16 (reqField x 0 2), stallLimit := reqField x 4 4 } } [] (.config 8)))
    ∧ (s.Issues 16 0x0060 [(0, 1), (4, 8)] → s.member.safetyFull = true → s.member.chanPresent (reqByte x 0) = true →
        1000 ≤ reqField x 4 4 → reqField x 8 4 ≤ 65535000 →
        exec (.freshSet 16) s = s.decided 16 (.apply (t.modChan (reqByte x 0) fun c => { c with
          ageBound := BitVec.ofNat 32 (reqField x 4 4), leadLimit := BitVec.ofNat 32 (reqField x 8 4) }) []
          (.config 8)))

/-- R332, R334, R338, R349: enabling a function, disabling it in each of its three cases, and the resets that a command
asks for; and what the reset edge of a function leaves: of the function its enable, quotas, charge, windows and rings
with their indices, of its channels the mapping, configuration and ring, of the ports it holds their configuration,
their XOFF at level 0; its transactions and remote requests are abandoned, and no other channel is touched. It rests on
assumptions 73, 75, 100, the model's choices. -/
def Obligations.EnableAndResetCommands : Prop :=
  ∀ s : State, let x := s.mailbox 16; let t := s.takenBy 16; let f := reqByte x 0;
    let off := t.modFn f fun y => { y with enabled := false };
    (s.Issues 16 0x0002 [(0, 2)] → reqByte x 1 = 1 → s.member.fnPresent f = true →
        exec (.funcEnable 16) s = s.decided 16 (.apply ((t.modFn f fun y => { y with enabled := true }).readyOne f) []
          (if (s.fn f).enabled = true then .none else .config 8)))
    ∧ (s.Issues 16 0x0002 [(0, 2)] → reqByte x 1 = 0 → s.member.fnPresent f = true →
        ((s.fn f).resetting = true → exec (.funcDisable 16) s = s.decided 16 (.later off (.resetDone f) (.config 8)))
        ∧ ((s.fn f).resetting = false → (s.fn f).enabled = true →
            exec (.funcDisable 16) s = s.decided 16 (.later (t.settle (off.fnReset f)) (.resetDone f) (.config 8)))
        ∧ ((s.fn f).resetting = false → (s.fn f).enabled = false →
            exec (.funcDisable 16) s = s.decided 16 (.apply t [] .none)))
    ∧ (∀ mb, s.Issues mb 0x0090 [(0, 1)] → s.member.fnPresent (actFn mb (s.mailbox mb)) = true →
        (s.fn (actFn mb (s.mailbox mb))).resetting = false →
        exec (.funcReset mb) s = s.decided mb (.later
          ((s.takenBy mb).settle ((s.takenBy mb).fnReset (actFn mb (s.mailbox mb))))
          (.resetDone (actFn mb (s.mailbox mb))) (.config 8)))
    ∧ (s.Issues 16 0x0091 [(0, 1)] → f < s.member.benches → s.benchIdle f = true →
        exec (.benchReset 16) s = s.decided 16 (.later (t.modBench f fun q =>
          { q with rd := {}, wr := {}, scan := 0, resetting := true }) (.bench f) (.config 8)))
    ∧ (s.Issues 16 0x0092 [(0, 4)] → reqField x 0 4 = 0x5741524D →
        exec (.warmReset 16) s = .next ((t.trace 16 x (.config 8)).warmAssert 3))
    ∧ (∀ g, s.TablesWf → g < 16 → let u := s.fnReset g; let y := s.fn g;
        u.fn g = { enabled := y.enabled, resetting := true, charge := y.charge, reserve := y.reserve
                   ceiling := y.ceiling, lowMark := y.lowMark, gobWait := y.gobWait, windows := y.windows
                   rings := y.rings.map fun e => (e.1, {
                     bound := e.2.bound, order := e.2.order, coherent := e.2.coherent, base := e.2.base
                     head := e.2.head, producer := e.2.producer, tail := e.2.tail }) }
        ∧ (∀ p, let c := s.chan p; let r := c.ring; c.owner.map Prod.fst = some g → u.chan p = {
              owner := c.owner, cfg := c.cfg, ageBound := c.ageBound, leadLimit := c.leadLimit
              ring := { bound := r.bound, order := r.order, coherent := r.coherent, base := r.base
                        t := r.t, f := r.f, h := r.h } }
            ∧ ∀ x ∈ u.txns, x.purpose.pch? ≠ some p ∧ x.purpose ≠ .completion p)
        ∧ (∀ p, let c := s.chan p; let d := u.chan p; c.owner.map Prod.fst ≠ some g →
            d.owner = c.owner ∧ d.state = c.state ∧ d.cfg = c.cfg ∧ d.ring = c.ring ∧ d.halt = c.halt ∧ d.cpl = c.cpl)
        ∧ (∀ q ∈ u.xez.reqs, q.fn = g → q.abandoned = true)
        ∧ ∀ p, let a := s.port p; let b := u.port p; a.holder = some g →
            b.holder = some g ∧ b.enable = a.enable ∧ b.dirOut = a.dirOut ∧ b.reserve = a.reserve ∧ b.limit = a.limit
            ∧ b.highWm = a.highWm ∧ b.lowWm = a.lowWm ∧ b.packets = [] ∧ b.parison = [] ∧ b.takers = [] ∧ b.claim = none
            ∧ b.level = 0 ∧ b.evt = 0 ∧ b.inq = a.inq
            ∧ (a.enable = true → a.xoff = true → 0 < a.highWm →
                b.xoff = false ∧ b.lowCross = 1 ∧ b.wmLowSeen = true))

/-- R68, R347, R348: mapping a channel gives its slot Reset values but for the freshness bounds; a repeated mapping
changes nothing; CHAN_CONFIG, RING_BIND and CPL_RING_BIND take the values of their request, the rings with every index
zero. It rests on assumption 76, the model's choices. -/
def Obligations.ChannelCommandsApply : Prop :=
  ∀ s : State,
    (let x := s.mailbox 16; let t := s.takenBy 16;
     let f := reqByte x 0; let sl := reqByte x 1; let p := reqByte x 2;
     s.Issues 16 0x0010 [(0, 4)] → s.member.fnPresent f = true → s.member.slotPresent sl = true →
      s.member.chanPresent p = true →
        (reqByte x 3 = 1 → s.pchOf f sl = some p → exec (.chanAssign 16) s = s.decided 16 (.apply t [] .none))
        ∧ (reqByte x 3 = 1 → s.pchOf f sl = none → (s.chan p).owner = none →
            exec (.chanAssign 16) s = s.decided 16 (.apply (t.setChan p
              { owner := some (f, sl), ageBound := (s.chan p).ageBound, leadLimit := (s.chan p).leadLimit }) []
              (.grant 1 f p)))
        ∧ (reqByte x 3 = 1 → s.pchOf f sl ≠ some p → ((s.chan p).owner ≠ none ∨ s.pchOf f sl ≠ none) →
            exec (.chanAssign 16) s = s.decided 16 (.refuse 3 []))
        ∧ (reqByte x 3 = 0 → s.pchOf f sl = some p → s.chanQuiet p = true →
            exec (.chanUnassign 16) s = s.decided 16 (.apply ((t.setChan p
              { ageBound := (s.chan p).ageBound, leadLimit := (s.chan p).leadLimit }).dropSources fun n =>
                decide (n / 8 = p)) [] (.grant 0 f p))))
    ∧ (∀ mb p, let x := s.mailbox mb; let t := s.takenBy mb; let f := actFn mb x;
        s.member.fnPresent f = true → s.member.slotPresent (reqByte x 1) = true → s.pchOf f (reqByte x 1) = some p →
        (s.Issues mb 0x0011 [(0, 15), (16, 8)] → (chanCfgOf x).bad (reqByte x 2) = false →
            ((chanCfgOf x).cplRingMode = true → (look {} (s.fn f).rings (chanCfgOf x).cplRing).bound = true) →
            ((chanCfgOf x).paceSrc = 1 → (s.timer (chanCfgOf x).paceNum).holder = some f) →
            ((chanCfgOf x).paceSrc = 2 → look none s.ev.trigIn (chanCfgOf x).paceNum = some f) →
            (s.chan p).ring.h = (s.chan p).ring.t → (s.chan p).started = [] → (s.chan p).direct.due = false →
            exec (.chanConfig mb) s = s.decided mb (.apply (t.modChan p fun c => { c with
              cfg := chanCfgOf x, credit := 0, wantsSignal := none
              state := if (chanCfgOf x).ringMode = c.cfg.ringMode then c.state
                       else if (chanCfgOf x).ringMode && c.ring.bound then .running else .idle }) [] (.config 8)))
        ∧ (s.Issues mb 0x0012 [(0, 4), (8, 8)] → 2 ≤ reqByte x 2 → reqByte x 2 ≤ 16 → reqByte x 3 ≤ 1 →
            regionBad (reqField x 8 8) (64 * 2 ^ reqByte x 2) = false → (s.chan p).cfg.ringMode = true →
            (s.chan p).ring.h = (s.chan p).ring.t →
            exec (.ringBind mb) s = s.decided mb (.apply (t.modChan p fun c => { c with
              state := .running
              ring := { bound := true, order := reqByte x 2, coherent := decide (reqByte x 3 = 1), base := reqField x 8 8
                        staleSeen := c.ring.staleSeen, parkCount := c.ring.parkCount } }) [] (.config 8))))
    ∧ (∀ mb, let x := s.mailbox mb; let t := s.takenBy mb; let f := actFn mb x;
        s.Issues mb 0x0013 [(0, 4), (8, 8)] → s.member.fnPresent f = true → reqByte x 1 ≤ 15 → 4 ≤ reqByte x 2 →
        reqByte x 2 ≤ 16 → reqByte x 3 ≤ 1 → regionBad (reqField x 8 8) (16 * 2 ^ reqByte x 2) = false →
        (∀ e ∈ s.chans, e.2.owner.map Prod.fst = some f → e.2.cfg.cplRingMode = true → e.2.cfg.cplRing = reqByte x 1 →
          e.2.ring.h = e.2.ring.t ∧ e.2.cpl.waiting = false) →
        exec (.cplRingBind mb) s = s.decided mb (.apply
          (({ t with chans := t.chans.map fun e => (e.1, if e.2.owner.map Prod.fst == some f && e.2.cfg.cplRingMode
              && e.2.cfg.cplRing == reqByte x 1 then { e.2 with cpl := { e.2.cpl with flyingSlot := none } } else e.2) } :
            State).modRing f (reqByte x 1) fun y =>
              { bound := true, order := reqByte x 2, coherent := decide (reqByte x 3 = 1), base := reqField x 8 8
                fullSeen := y.fullSeen, waitCount := y.waitCount }) []
          (.config 8)))

/-- R196, R197, R205: a port is granted, revoked and given watermarks. It rests on assumptions 36, 103, the model's
choices. -/
def Obligations.StreamPortCommandsApply : Prop :=
  ∀ s : State,
    (let x := s.mailbox 16; let t := s.takenBy 16; let p := reqByte x 0; let h := reqByte x 1; let y := s.port p;
     (s.Issues 16 0x0020 [(0, 3), (4, 4)] → h ≠ 0xFF → s.member.portPresent p = true → s.member.fnPresent h = true →
        reqByte x 2 ≤ 3 → 4 ≤ reqField x 4 2 → reqField x 4 2 ≤ reqField x 6 2 → reqField x 6 2 ≤ 65280 →
        y.highWm ≤ reqField x 6 2 * 64 → (y.holder = none ∨ y.holder = some h) →
        s.cruReserved - y.reserve + reqField x 4 2 ≤ s.member.reservable →
        s.portHolds p = false → s.portNamed p = false → y.cells ≤ reqField x 6 2 →
        ∃ z u, z = { y with holder := some h, enable := decide (reqByte x 2 % 2 = 1), dirOut := decide (2 ≤ reqByte x 2)
                            reserve := reqField x 4 2, limit := reqField x 6 2
                            xoff := decide (reqByte x 2 % 2 = 1) && y.enable
                              && decide (2 ≤ reqByte x 2) == y.dirOut && y.xoff }
          ∧ u = (if z.enable && !(y.enable && z.dirOut == y.dirOut) then (t.setPort p z).compareWm p else t.setPort p z)
          ∧ exec (.streamConfig 16) s = s.decided 16 (.apply u (leBytes 4 u.cruFree) (.grant 0 h p)))
     ∧ (s.Issues 16 0x0020 [(0, 2)] → h = 0xFF → s.member.portPresent p = true → y.holder.isSome = true →
        s.portHolds p = false → s.portNamed p = false →
        ∃ u, u = (t.setPort p { y with holder := none, enable := false, reserve := 0, limit := 0
                                       highWm := 0, lowWm := 0, xoff := false }).dropSources (fun n =>
              decide (1024 ≤ n) && decide (n < 1280) && decide ((n - 1024) / 4 = p))
          ∧ exec (.streamRevoke 16) s = s.decided 16 (.apply u (leBytes 4 u.cruFree) (.grant 0 0xFF p))))
    ∧ (∀ mb, let x := s.mailbox mb; let t := s.takenBy mb; let f := actFn mb x; let p := reqByte x 1;
        s.Issues mb 0x0021 [(0, 2), (4, 8)] → s.member.fnPresent f = true → s.member.portPresent p = true →
        reqField x 8 4 < reqField x 4 4 → reqField x 4 4 ≤ (s.port p).limit * 64 → (s.port p).holder = some f →
        exec (.wmSet mb) s = s.decided mb (.apply
          ((t.modPort p fun y => { y with highWm := reqField x 4 4, lowWm := reqField x 8 4 }).compareWm p) []
          (.config 8)))

/-- R217, R225, R226: quotas and the three forms of POOL_MODE; INIT empties the pool and uncharges every function. It
rests on assumption 28, the model's choices. -/
def Obligations.PoolCommandsApply : Prop :=
  ∀ s : State, let x := s.mailbox 16; let t := s.takenBy 16; let f := reqByte x 0;
    s.member.hasCullet = true → s.cul.sweep = false →
    (s.Issues 16 0x0030 [(0, 1), (4, 14)] → s.member.fnPresent f = true → reqField x 4 4 ≤ reqField x 8 4 →
        reqField x 8 4 ≤ s.cul.count → reqField x 12 4 < 2 ^ 28 → s.reserveSum f (reqField x 4 4) ≤ s.cul.count - s.cul.quar →
        s.cul.quota = false →
        exec (.quotaSet 16) s = s.decided 16 (.apply (t.settle (t.modFn f fun y => { y with
          reserve := reqField x 4 4, ceiling := reqField x 8 4, lowMark := reqField x 12 4
          gobWait := reqField x 16 2 })) [] (.config 8)))
    ∧ (s.Issues 16 0x0031 [(0, 1)] → reqByte x 0 = 0 →
        exec (.poolModeFcfs 16) s = s.decided 16 (.apply (t.settle { t with cul := { t.cul with quota := false } })
          (leBytes 4 s.cuFree) (if s.cul.quota = true then .config 8 else .none)))
    ∧ (s.Issues 16 0x0031 [(0, 1)] → reqByte x 0 = 1 → s.unusedSum ≤ s.cuFree →
        exec (.poolModeQuota 16) s = s.decided 16 (.apply (t.settle { t with cul := { t.cul with quota := true } })
          (leBytes 4 s.cuFree) (if s.cul.quota = true then .none else .config 8)))
    ∧ (let n := reqField x 4 4; let pool := reqField x 8 8; let recs := reqField x 16 8; let stack := reqField x 24 8;
       s.Issues 16 0x0031 [(0, 1), (4, 28)] → reqByte x 0 = 2 → 1 ≤ n → n ≤ 2 ^ s.member.gobBits →
        regionBad pool (4096 * n) = false → regionBad recs (16 * n) = false → regionBad stack (4 * n) = false →
        overlap pool (4096 * n) recs (16 * n) = false → overlap pool (4096 * n) stack (4 * n) = false →
        overlap recs (16 * n) stack (4 * n) = false → s.cul.fresh ≤ s.cul.stack.length + s.cul.quarantined.length →
        exec (.poolModeInit 16) s = s.decided 16 (.apply (t.settle (({ t with
          cul := { t.cul with poolBase := pool, metaBase := recs, stackBase := stack, count := n, fresh := 0
                              quota := false, quar := 0, stack := [], onBlock := 0, quarantined := [], records := []
                              freeing := [], forced := [] }
          fns := t.fns.map fun e => (e.1, { e.2 with charge := 0 }) } : State).raise 1463)) (leBytes 4 n) (.config 8)))

/-- R149, R350, R352, R383: TIMER_SET in its four forms; a repeated grant and a revoke of a free timer change nothing.
-/
def Obligations.TimerCommandsApply : Prop :=
  ∀ (s : State) (mb : Nat), let x := s.mailbox mb; let t := s.takenBy mb; let f := actFn mb x; let n := reqByte x 2;
    let y := s.timer n;
    s.member.fnPresent f = true → n ≤ 63 →
    (s.Issues mb 0x0040 [(0, 3), (8, 16)] → reqByte x 1 = 0 →
        (reqField x 16 8 = 0 ∨ (100 ≤ reqField x 16 8 ∧ reqField x 16 8 < 2 ^ 48)) → y.holder = some f →
        exec (.timerSet mb) s = s.decided mb (.apply (t.setTimer n { y with
          start := reqField x 8 8, period := reqField x 16 8, next := reqField x 8 8, missed := 0, armed := true, spent := false })
          (leBytes 8 (reqField x 8 8) ++ leBytes 4 y.missed ++ leBytes 1 1) (.config 8)))
    ∧ (s.Issues mb 0x0040 [(0, 3)] → reqByte x 1 = 1 → y.holder = some f →
        exec (.timerRead mb) s = s.decided mb (.apply (t.setTimer n { y with missed := 0 })
          (leBytes 8 y.next ++ leBytes 4 y.missed ++ leBytes 1 (b2n (!y.spent))) .none))
    ∧ (mb = 16 → s.Issues mb 0x0040 [(0, 3)] → reqByte x 1 = 2 →
        (y.holder = some f → exec (.timerGrant mb) s = s.decided mb (.apply t [] .none))
        ∧ (y.holder = none → exec (.timerGrant mb) s = s.decided mb (.apply (t.setTimer n { holder := some f }) []
            (.grant 2 f n)))
        ∧ (∀ g, y.holder = some g → g ≠ f → exec (.timerGrant mb) s = s.decided mb (.refuse 3 [])))
    ∧ (mb = 16 → s.Issues mb 0x0040 [(0, 3)] → reqByte x 1 = 3 →
        (y.holder = none → exec (.timerRevoke mb) s = s.decided mb (.apply t [] .none))
        ∧ (y.holder = some f → s.gateUsed 1 n = false → exec (.timerRevoke mb) s = s.decided mb (.apply
            (t.setTimer n {}) [] (.grant 3 f n)))
        ∧ (∀ g, y.holder = some g → g ≠ f → exec (.timerRevoke mb) s = s.decided mb (.refuse 3 [])))

/-- R352, R383: TRIG_ROUTE grants and revokes a trigger; a revoked TRIG_OUT is no target any more. -/
def Obligations.TriggerCommandsApply : Prop :=
  ∀ (s : State) (who : Nat), let x := s.mailbox 16; let t := s.takenBy 16; let kind := reqByte x 2; let n := reqByte x 3;
    s.Issues 16 0x0041 [(0, 4)] → kind ≤ 1 → n ≤ 15 → s.party (reqByte x 0) = some who →
    (kind = 0 → reqByte x 0 ≠ 0xFE) →
    (reqByte x 1 = 2 →
        (s.trigHolder kind n = some who → exec (.trigGrant 16) s = s.decided 16 (.apply t [] .none))
        ∧ (s.trigHolder kind n = none → exec (.trigGrant 16) s = s.decided 16 (.apply (t.setTrig kind n (some who)) []
            (.grant 2 (reqByte x 0) n)))
        ∧ (∀ g, s.trigHolder kind n = some g → g ≠ who → exec (.trigGrant 16) s = s.decided 16 (.refuse 3 [])))
    ∧ (reqByte x 1 = 3 →
        (s.trigHolder kind n = none → exec (.trigRevoke 16) s = s.decided 16 (.apply t [] .none))
        ∧ (s.trigHolder kind n = some who → (kind = 0 → s.gateUsed 2 n = false) →
            exec (.trigRevoke 16) s = s.decided 16 (.apply
              (if kind = 0 then t.setTrig kind n none else (t.setTrig kind n none).dropTarget (.trigOut n)) []
              (.grant 3 (reqByte x 0) n)))
        ∧ (∀ g, s.trigHolder kind n = some g → g ≠ who → exec (.trigRevoke 16) s = s.decided 16 (.refuse 3 []))
        ∧ (Tbl.wf s.ev.routes = true →
            ∀ m, (t.dropTarget (.trigOut n)).route m = if s.route m = .trigOut n then .none else s.route m))

/-- R169, R171, R172, R351: an owner routes its source to a target that it holds, and sets a vector that it holds. It
rests on assumption 25, the model's choices. -/
def Obligations.RouteAndVectorApply : Prop :=
  ∀ (s : State) (mb who : Nat), let x := s.mailbox mb; let t := s.takenBy mb;
    s.eventParty mb x = some who →
    (s.Issues mb 0x0042 [(0, 8)] → reqByte x 1 = 0 → sourceBad s.member (reqField x 2 2) = false →
        s.routeBad who x = false → s.sourceOwner (reqField x 2 2) = some who → s.holdsTarget who (routeOf who x) = true →
        exec (.eventRoute mb) s = s.decided mb (.apply { t with ev := { t.ev with
          routes := put t.ev.routes (reqField x 2 2) (routeOf who x) } } [] (.config 8)))
    ∧ (let num := reqField x 2 2; let v := vecOf who num;
       s.Issues mb 0x0042 [(0, 9), (16, 12)] → reqByte x 1 = 1 → num < (if who = 16 then 2048 else 128) →
        1 ≤ reqField x 4 2 → reqField x 4 2 ≤ 256 → reqByte x 8 ≤ 1 → reqField x 16 8 % 4 = 0 → reqField x 16 8 < 2 ^ 52 →
        s.vecHolder v = who → v < 128 * s.member.functions →
        exec (.eventVector mb) s = s.decided mb (.apply ((t.setVec v { t.vec v with
          addr := reqField x 16 8, data := BitVec.ofNat 32 (reqField x 24 4), count := reqField x 4 2
          time := reqField x 6 2 }).setMask v (decide (reqByte x 8 = 1))) [] (.config 8)))

/-- R352, R383: EVENT_ROUTE grants and revokes INT wires and vectors; a revoked one is no target any more. -/
def Obligations.WireAndVectorGrants : Prop :=
  ∀ (s : State) (who : Nat), let x := s.mailbox 16; let t := s.takenBy 16; let num := reqField x 4 2;
    s.Issues 16 0x0042 [(0, 3), (4, 2)] → s.party (reqByte x 0) = some who →
    (reqByte x 2 = 1 → num ≤ 63 → reqByte x 1 = 2 →
        (look none s.ev.ints num = some who → exec (.eventGrant 16) s = s.decided 16 (.apply t [] .none))
        ∧ (look none s.ev.ints num = none → exec (.eventGrant 16) s = s.decided 16 (.apply { t with ev := { t.ev with
            ints := put t.ev.ints num (some who) } } [] (.grant 2 (reqByte x 0) num))))
    ∧ (reqByte x 2 = 2 → num < 128 * s.member.functions → reqByte x 1 = 2 → who = 16 → (s.vec num).admin = false →
        num / 128 < 16 → s.vecRouted num = false →
        exec (.eventGrant 16) s = s.decided 16 (.apply (t.takeVec num) [] (.grant 2 (reqByte x 0) num)))
    ∧ (reqByte x 2 = 1 → num ≤ 63 → reqByte x 1 = 3 →
        (look none s.ev.ints num = none → exec (.eventRevoke 16) s = s.decided 16 (.apply t [] .none))
        ∧ (look none s.ev.ints num = some who → exec (.eventRevoke 16) s = s.decided 16 (.apply
            (({ t with ev := { t.ev with ints := put t.ev.ints num none } } : State).dropTarget (.int num)) []
            (.grant 3 (reqByte x 0) num))))
    ∧ (reqByte x 2 = 2 → num < 128 * s.member.functions → reqByte x 1 = 3 → who = 16 → (s.vec num).admin = true →
        (s.vec num).outstanding = false →
        exec (.eventRevoke 16) s = s.decided 16 (.apply
          ((t.setVec num { s.vec num with admin := false }).dropTarget (.vector num)) [] (.grant 3 (reqByte x 0) num)))
    ∧ (Tbl.wf s.ev.routes = true → ∀ r m, (t.dropTarget r).route m = if s.route m = r then .none else s.route m)

/-- R243, R257: a window and a peer entry are bound and unbound; binding a peer puts its sequence states back to their
initial ones. It rests on assumption 78, the model's choices. -/
def Obligations.WindowAndPeerCommandsApply : Prop :=
  ∀ s : State, let x := s.mailbox 16; let t := s.takenBy 16; let a := reqByte x 0; let b := reqByte x 1;
    s.member.hasXezan = true →
    (s.Issues 16 0x0050 [(0, 20)] → reqField x 16 4 ≠ 0 → s.member.fnPresent a = true → b ≤ 15 → reqByte x 2 ≤ 15 →
        reqField x 4 4 ≠ 0 → reqField x 16 4 ≤ 2 ^ 24 → regionBad (reqField x 8 8) (4096 * reqField x 16 4) = false →
        (look {} (s.fn a).windows b).pages = 0 →
        exec (.xezanWindow 16) s = s.decided 16 (.apply (t.setWindow a b
          { pages := reqField x 16 4, base := reqField x 8 8, read := decide (reqByte x 2 % 2 = 1)
            write := decide (reqByte x 2 / 2 % 2 = 1), coherent := decide (reqByte x 2 / 4 % 2 = 1)
            sigEn := decide (reqByte x 2 / 8 = 1), sigId := reqByte x 3, token := BitVec.ofNat 32 (reqField x 4 4) }) []
          (.config 4)))
    ∧ (s.Issues 16 0x0050 [(0, 2), (16, 4)] → reqField x 16 4 = 0 → s.member.fnPresent a = true → b ≤ 15 →
        exec (.xezanWindowUnbind 16) s = s.decided 16 (.apply (t.setWindow a b {}) []
          (if 0 < (look {} (s.fn a).windows b).pages then .config 4 else .none)))
    ∧ (s.Issues 16 0x0051 [(0, 10), (16, 8)] → b = 1 → reqByte x 2 < s.member.xezanPorts → reqByte x 3 ≤ 7 →
        reqField x 4 4 < 2 ^ 18 → reqField x 4 4 ≠ s.opt.instanceId → s.opt.bad = false →
        (∀ q ∈ s.xez.peers, q.1 ≠ a → q.2.bound = true → q.2.inst ≠ reqField x 4 4) →
        exec (.xezanPeer 16) s = s.decided 16 (.apply (t.setPeer a
          { bound := true, inst := reqField x 4 4, port := reqByte x 2, retry := reqByte x 3
            funcMask := BitVec.ofNat 16 (reqField x 8 2), remoteFn := BitVec.ofNat 64 (reqField x 16 8) }) []
          (.config 8)))
    ∧ (s.Issues 16 0x0051 [(0, 2)] → b = 0 → s.opt.bad = false →
        exec (.xezanPeerUnbind 16) s = s.decided 16 (.apply (t.setPeer a {}) []
          (if (look {} s.xez.peers a).bound = true then .config 8 else .none)))
    ∧ (∀ e y n, look ({} : SendState) (s.setPeer e y).xez.send n = (if n / 128 = e then {} else look {} s.xez.send n)
        ∧ look ({} : RecvState) (s.setPeer e y).xez.recv n = (if n / 128 = e then {} else look {} s.xez.recv n))

/-- R356, R357, R358: FW_STAGE BEGIN erases the sectors of the inactive slot and opens a staging, DATA programs its
bytes page by page, END verifies what the slot then holds and closes, CANCEL discards; the reply of a flash step follows
its end. An image verifies when its format, its digest, its signature and its unit are right. It rests on assumptions 4,
72, 104, the model's choices. -/
def Obligations.StagingCommandsApply : Prop :=
  ∀ s : State, let x := s.mailbox 16; let t := s.takenBy 16;
    s.gaf.act = none →
    (s.Issues 16 0x0080 [(0, 1)] → reqByte x 0 = 0 →
        ∃ u, u = { t with gaf := { t.gaf with staging := true, staged := 0, verified := none } }
        ∧ exec (.fwStageBegin 16) s = .next (((u.trace 16 x (.config 8)).flashStep 16
            ((List.range 32).map (fun i => FlashOp.erase (slotBase s.gaf.inactive + 4096 * i))
              ++ [.erase (slotBase s.gaf.inactive + 0x3F000)]) 0 []).waitFlash 16 true))
    ∧ (let len := reqField x 8 2;
       s.Issues 16 0x0080 [(0, 1), (4, 6), (16, len)] → reqByte x 0 = 1 → s.gaf.staging = true → 4 ≤ len → len ≤ 240 →
        len % 4 = 0 → reqField x 4 4 = s.gaf.staged → reqField x 4 4 + len ≤ 131072 →
        let at_ := slotBase s.gaf.inactive + s.gaf.staged; let d := reqBytes x 16 len; let n := 256 - at_ % 256;
        ∃ u, u = { t with gaf := { t.gaf with staged := s.gaf.staged + len } }
        ∧ exec (.fwStageData 16) s = .next (((u.trace 16 x (.config 8)).flashStep 16
            (if len ≤ n then [.program at_ d] else [.program at_ (d.take n), .program (at_ + n) (d.drop n)]) 0 []).waitFlash
              16 true))
    ∧ (s.Issues 16 0x0080 [(0, 1)] → reqByte x 0 = 2 → s.gaf.staging = true →
        let v := s.gaf.target; let r := imageResult v.image; let slot := s.gaf.inactive;
        let st := if r = 0 then 0 else 2;
        ∃ u, u = (({ t with gaf := { t.gaf with staging := false, verified := if r = 0 then some v else none } } :
            State).traceAs 16 x st (.config 8)).log 0x40 0xFE (leBytes 4 (r + 256 * slot) ++ leBytes 4 v.version.toNat)
        ∧ exec (.fwStageEnd 16) s = .next (((if r = 0 then u.raise 1452 else u).flashStep 16 [] st
            (leBytes 4 r ++ leBytes 4 v.version.toNat ++ leBytes 4 v.length ++ leBytes 1 slot)).waitFlash 16
              (decide (r = 0))))
    ∧ (s.Issues 16 0x0080 [(0, 1)] → reqByte x 0 = 2 → s.gaf.staging = false →
        exec (.fwStageEnd 16) s = s.decided 16 (.refuse 4 (leBytes 4 (imageResult s.gaf.target.image)
          ++ leBytes 4 s.gaf.target.version.toNat ++ leBytes 4 s.gaf.target.length ++ leBytes 1 s.gaf.inactive)))
    ∧ (s.Issues 16 0x0080 [(0, 1)] → reqByte x 0 = 3 →
        exec (.fwStageCancel 16) s = s.decided 16 (.apply
          { t with gaf := { t.gaf with staging := false, staged := 0 } } []
          (if s.gaf.staging = true then .config 8 else .none)))
    ∧ (∀ m, s.gaf.flashMb = some m → (s.gaf.state = .running ∨ s.gaf.state = .recovery) →
        let u := ({ s with gaf := { s.gaf with flashMb := none, flashOps := [] } } : State).modMailbox m fun y =>
          { y with wait := .none };
        (s.gaf.flashStatus = 0 → exec .flashOperationDone s = .next
            ((u.markApplied m s.gaf.flashReply .none).mbReply m 0 s.gaf.flashReply))
        ∧ (s.gaf.flashStatus ≠ 0 → exec .flashOperationDone s = .next
            (u.mbReply m s.gaf.flashStatus s.gaf.flashReply)))
    ∧ (∀ ops st reply, let g := (s.flashStep 16 ops st reply).gaf;
        g.target = ops.foldl (FlashOp.apply s.gaf.inactive) s.gaf.target ∧ g.flashOps = ops ∧ g.flashMb = some 16
        ∧ g.flashStatus = st ∧ g.flashReply = reply)
    ∧ (∀ l, imageResult l = 0 ↔ formatOk (imageBytes l 256) = true
        ∧ Config.digestMatches (imageBytes l (imageField (imageBytes l 256) 0x0C 4)) = true
        ∧ Config.signatureVerifies (imageBytes l (imageField (imageBytes l 256) 0x0C 4)) = true
        ∧ imageField (imageBytes l 256) 7 1 = 2)

/-- R359, R360, R361: the steps of an activation, in their order. It rests on assumptions 70, 71, the model's choices.
-/
def Obligations.ActivationSteps : Prop :=
  ∀ s : State,
    (let x := s.mailbox 16; let t := s.takenBy 16;
     s.Issues 16 0x0081 [(0, 1)] → s.gaf.act = none → s.gaf.verified.isSome = true → s.gaf.staging = false →
      reqByte x 0 = s.gaf.inactive →
      exec (.fwActivate 16) s = .next (({ t with gaf := { t.gaf with
        act := some { mb := 16, slot := reqByte x 0, step := .loading } } } :
          State).modMailbox 16 fun y => { y with wait := .activation }))
    ∧ (∀ a, s.gaf.act = some a → s.gaf.state = .running →
        (a.step = .loading → exec (.fwActivateLoadDone true) s
            = .next { s with gaf := { s.gaf with act := some { a with step := .loaded } } })
        ∧ (a.step = .loading → exec (.fwActivateLoadDone false) s
            = .next (s.endActivation a 2 (activateReply s.gaf.fwVersion s.gaf.actSeq 0 0)))
        ∧ (a.step = .loaded → s.unanswered a.mb = false → exec .fwActivatePause s
            = .next ((({ s with gaf := { s.gaf with
                state := .paused, bank := 1 - s.gaf.bank, act := some { a with step := .paused }
                resActivate := satAdd 8 s.gaf.resActivate 1 } } : State).raiseUp 1449).log 0x03 0xFF [3]))
        ∧ (∀ v, a.step = .resumed → s.gaf.verified = some v → s.gaf.recovery = false → exec .fwActivateRecord s
            = .next ((((s.programRecord a v).raise 1453).logActivated 0 a.slot v.version a.pauseUs).endActivation a 0
                (activateReply v.version (s.gaf.actSeq + 1) a.pauseUs 0))))
    ∧ (∀ a micros, s.gaf.act = some a → a.step = .paused →
        (∀ v, micros ≤ 200 → s.gaf.verified = some v → exec (.fwActivateResume micros) s
            = .next ({ s with gaf := { s.gaf with
                state := .running, fromSram := true, act := some { a with step := .resumed, pauseUs := micros }
                fwVersion := v.version } } : State).flushLog)
        ∧ exec (.fwActivateTimeout micros) s = .next
            (((({ s with gaf := { s.gaf with state := .running, fromSram := true } } : State).flushLog.raiseUp 1449).log 0x03 0xFF
              [4]).rollBack micros))

/-- R341, R342, R343: what an applied and a refused command leave in their mailbox; a refused one changes nothing else
but the order of takes and the completion event, and leaves the replay store. -/
def Obligations.RepliesAreWritten : Prop :=
  ∀ (s t : State) (mb : Nat) (reply : List Byte) (log : Trace) (st : BitVec 8),
    (let u := (s.takenBy mb).conclude mb (.apply t reply log);
     let done := if mb = 16 then 1448 else fnEvent mb 2;
     (mb ≠ 16 ∨ log = .none → ∃ y, u = ({ t with mailboxes := put t.mailboxes mb y } : State).raiseUp done)
      ∧ (mb = 16 → log ≠ .none → t.gaf.writes = true → ∃ y r, u = ({ t with
            mailboxes := put t.mailboxes mb y
            gaf := { t.gaf with logs := put t.gaf.logs (t.gaf.logNext % 2048) r
                                logNext := (t.gaf.logNext + 1) % 2 ^ 32 } } : State).raiseUp done
          ∧ r.source = 0xFE ∧ r.kind = (match log with | .grant _ _ _ => 0x30 | _ => 0x31)
          ∧ r.data.take 2 = leBytes 2 (s.mailbox mb).code.toNat)
      ∧ (u.mailbox mb).busy = false ∧ (u.mailbox mb).done = true ∧ (u.mailbox mb).applied = true
      ∧ (u.mailbox mb).status = 0 ∧ (u.mailbox mb).len = reply.length ∧ (u.mailbox mb).data = bufferOf reply
      ∧ (u.mailbox mb).seqEcho = (t.mailbox mb).seq
      ∧ (u.mailbox mb).store = some { code := (t.mailbox mb).code, seq := (t.mailbox mb).seq, reply := reply, ready := true })
    ∧ (let u := (s.takenBy mb).conclude mb (.refuse st reply);
       (u.mailbox mb).busy = false ∧ (u.mailbox mb).done = true ∧ (u.mailbox mb).status = st
        ∧ (u.mailbox mb).len = reply.length ∧ (u.mailbox mb).data = bufferOf reply
        ∧ (u.mailbox mb).applied = (s.mailbox mb).applied ∧ (u.mailbox mb).store = (s.mailbox mb).store
        ∧ ∃ y, u = ({ s with
            goOrder := s.goOrder.drop 1
            goTied := if s.goTied.contains mb = true then [] else s.goTied
            mailboxes := put s.mailboxes mb y } : State).raiseUp
            (if mb = 16 then 1448 else fnEvent mb 2))
    ∧ (∀ w, let u := (s.takenBy mb).conclude mb (.later t w .none); let x := t.mailbox mb;
       u = t.setMailbox mb { x with
          applied := true, wait := w, again := false
          store := some { code := x.code, seq := x.seq, reply := [], ready := w == .none, waits := w } })

/-- R343, R344, R345, R363: a repeated command is answered from the replay store; then recovery mode, the issuer and the
unused request bytes are judged, in this order, before anything of the command's own. It rests on assumptions 73, 74,
the model's choices. -/
def Obligations.RefusalsComeInOrder : Prop :=
  ∀ (s : State) (mb : Nat), s.canTake mb = true →
    (∀ c ∈ [((.getInfo mb : Instr), 0x0001), (.chanConfig mb, 0x0011), (.ringBind mb, 0x0012), (.cplRingBind mb, 0x0013),
        (.wmSet mb, 0x0021), (.safetyConfig mb, 0x0061), (.logRead mb, 0x0071), (.fwActivate mb, 0x0081),
        (.funcReset mb, 0x0090), (.benchReset mb, 0x0091), (.warmReset mb, 0x0092)],
      (s.mailbox mb).code.toNat = c.2 → ∀ r, (s.mailbox mb).store = some r → r.code = (s.mailbox mb).code →
        r.seq = (s.mailbox mb).seq →
        exec c.1 s = .next (({ s with goOrder := s.goOrder.drop 1
                                      goTied := if s.goTied.contains mb = true then [] else s.goTied } :
          State).replayed mb r))
    ∧ (∀ r, let x := s.mailbox mb; let y := (s.replayed mb r).mailbox mb;
        y.applied = true ∧ y.store = x.store
        ∧ (r.ready = true → y.replay = true ∧ y.busy = false ∧ y.done = true ∧ y.status = 0 ∧ y.data = bufferOf r.reply
          ∧ y.len = r.reply.length)
        ∧ (r.ready = false → y.busy = x.busy ∧ y.again = true ∧ y.wait = r.waits))
    ∧ ((∀ r, (s.mailbox mb).store = some r → ¬ (r.code = (s.mailbox mb).code ∧ r.seq = (s.mailbox mb).seq)) →
        (∀ c ∈ [((.chanConfig mb : Instr), 0x0011), (.ringBind mb, 0x0012), (.cplRingBind mb, 0x0013), (.wmSet mb, 0x0021),
            (.safetyConfig mb, 0x0061), (.funcReset mb, 0x0090), (.benchReset mb, 0x0091), (.warmReset mb, 0x0092)],
          (s.mailbox mb).code.toNat = c.2 → s.gaf.recovery = true → exec c.1 s = s.decided mb (.refuse 2 []))
        ∧ (codeKnown s.member (s.mailbox mb).code.toNat = false → s.gaf.recovery = true →
            exec (.unknownCommand mb) s = s.decided mb (.refuse 2 []))
        ∧ (∀ c ∈ [((.safetyConfig mb : Instr), 0x0061), (.logRead mb, 0x0071), (.fwActivate mb, 0x0081),
              (.benchReset mb, 0x0091), (.warmReset mb, 0x0092)],
            (s.mailbox mb).code.toNat = c.2 → mb ≠ 16 → exec c.1 s = s.decided mb (.refuse 2 []))
        ∧ (∀ c ∈ [((.getInfo mb : Instr), 0x0001, ([] : List (Nat × Nat))), (.chanConfig mb, 0x0011, [(0, 15), (16, 8)]),
              (.ringBind mb, 0x0012, [(0, 4), (8, 8)]), (.cplRingBind mb, 0x0013, [(0, 4), (8, 8)]),
              (.wmSet mb, 0x0021, [(0, 2), (4, 8)]), (.funcReset mb, 0x0090, [(0, 1)])],
            (s.mailbox mb).code.toNat = c.2.1 → s.gaf.recovery = false →
            reqZeroOutside (s.mailbox mb) c.2.2 = false → exec c.1 s = s.decided mb (.refuse 4 [])))
end

