-- ==== Sys2Proof/Laws/Table.lean ====
section
/-! SUPPORT. Laws of the sparse tables: reading after writing, and the canonical form. -/

set_option Elab.async false

namespace Sys2Proof.Machine

variable {α : Type}

@[simp] theorem look_nil (d : α) (n : Nat) : look d [] n = d := rfl

theorem look_cons (d : α) (e : Nat × α) (t : Tbl α) (n : Nat) :
    look d (e :: t) n = if n = e.1 then e.2 else look d t n := rfl

/-- A read after a write of the same key gives the value written. -/
@[simp] theorem look_put_same (d : α) (l : Tbl α) (n : Nat) (v : α) : look d (put l n v) n = v := by
  induction l with
  | nil => simp [put, look]
  | cons e t ih =>
    obtain ⟨k, w⟩ := e
    simp only [put]
    split
    · simp [look]
    · split
      · simp [look]
      · rename_i h1 h2; simp [look, h2, ih]

/-- A write leaves every other key alone. -/
theorem look_put_other (d : α) (l : Tbl α) (n m : Nat) (v : α) (h : m ≠ n) : look d (put l n v) m = look d l m := by
  induction l with
  | nil => simp [put, look, h]
  | cons e t ih =>
    obtain ⟨k, w⟩ := e
    simp only [put]
    split
    · simp [look, h]
    · split
      · rename_i h1 h2; subst h2; simp [look, h]
      · simp only [look]; split
        · rfl
        · exact ih

theorem look_put (d : α) (l : Tbl α) (n m : Nat) (v : α) :
    look d (put l n v) m = if m = n then v else look d l m := by
  split
  · subst m; simp
  · exact look_put_other d l n m v ‹_›

theorem wf_cons (e : Nat × α) (t : Tbl α) :
    Tbl.wf (e :: t) = true ↔ (∀ f ∈ t.head?, e.1 < f.1) ∧ Tbl.wf t = true := by
  cases t with
  | nil => simp [Tbl.wf]
  | cons f t => simp [Tbl.wf]

@[simp] theorem wf_nil : Tbl.wf ([] : Tbl α) = true := rfl

@[simp] theorem wf_single (e : Nat × α) : Tbl.wf [e] = true := rfl

/-- The first key of a table after a write is the written key or the old first key. -/
theorem head_put (l : Tbl α) (n : Nat) (v : α) :
    ∀ f ∈ (put l n v).head?, f.1 = n ∨ (∃ g ∈ l.head?, f.1 = g.1) := by
  cases l with
  | nil => simp [put]
  | cons e t =>
    obtain ⟨k, w⟩ := e
    simp only [put]
    split
    · simp
    · split
      · simp
      · simp

/-- A write keeps the keys strictly rising. -/
@[simp] theorem wf_put (l : Tbl α) (n : Nat) (v : α) (h : Tbl.wf l = true) : Tbl.wf (put l n v) = true := by
  induction l with
  | nil => rfl
  | cons e t ih =>
    obtain ⟨k, w⟩ := e
    rw [wf_cons] at h
    simp only [put]
    split
    · rw [wf_cons]; exact ⟨by simpa using ‹_›, by rw [wf_cons]; exact h⟩
    · split
      · subst n; rw [wf_cons]; exact h
      · rw [wf_cons]
        refine ⟨fun f hf => ?_, ih h.2⟩
        rcases head_put t n v f hf with h1 | ⟨g, hg, h1⟩
        · simp only [h1]; omega
        · rw [h1]; exact h.1 g hg

/-- Every key after the first lies above it. -/
theorem wf_lt (e : Nat × α) (t : Tbl α) (h : Tbl.wf (e :: t) = true) : ∀ f ∈ t, e.1 < f.1 := by
  induction t generalizing e with
  | nil => simp
  | cons g t ih =>
    rw [wf_cons] at h
    intro f hf
    rcases List.mem_cons.1 hf with rfl | hf
    · exact h.1 f (by simp)
    · exact lt_trans (h.1 g (by simp)) (ih g h.2 f hf)

theorem wf_iff_pairwise (l : Tbl α) : Tbl.wf l = true ↔ l.Pairwise fun a b => a.1 < b.1 := by
  induction l with
  | nil => simp
  | cons e t ih =>
    rw [List.pairwise_cons]
    constructor
    · intro h; exact ⟨wf_lt e t h, ih.1 ((wf_cons e t).1 h).2⟩
    · intro h; rw [wf_cons]; exact ⟨fun f hf => h.1 f (List.mem_of_mem_head? hf), ih.2 h.2⟩

/-- Leaving entries out keeps the form. -/
@[simp] theorem wf_filter (l : Tbl α) (q : Nat × α → Bool) (h : Tbl.wf l = true) : Tbl.wf (l.filter q) = true := by
  rw [wf_iff_pairwise] at *; exact h.filter q

/-- Changing values and no key keeps the form. -/
@[simp] theorem wf_map {β : Type} (l : Tbl α) (g : Nat × α → β) (h : Tbl.wf l = true) :
    Tbl.wf (l.map fun e => (e.1, g e)) = true := by
  rw [wf_iff_pairwise] at *; exact List.pairwise_map.2 h

/-- A property of every entry holds of what a lookup gives, if the default has it. -/
theorem look_all (d : α) (l : Tbl α) (q : α → Prop) (n : Nat) (hd : q d) (h : ∀ e ∈ l, q e.2) : q (look d l n) := by
  induction l with
  | nil => exact hd
  | cons e t ih =>
    rw [look_cons]
    split
    · exact h e (by simp)
    · exact ih fun f hf => h f (by simp [hf])

/-- A property of every entry survives a write of a value that has it. -/
theorem put_all (l : Tbl α) (n : Nat) (v : α) (q : α → Prop) (hv : q v) (h : ∀ e ∈ l, q e.2) :
    ∀ e ∈ put l n v, q e.2 := by
  induction l with
  | nil => simpa [put] using hv
  | cons e t ih =>
    obtain ⟨k, w⟩ := e
    simp only [put]
    split
    · intro f hf; rcases List.mem_cons.1 hf with rfl | hf
      · exact hv
      · exact h f hf
    · split
      · intro f hf; rcases List.mem_cons.1 hf with rfl | hf
        · exact hv
        · exact h f (by simp [hf])
      · intro f hf; rcases List.mem_cons.1 hf with rfl | hf
        · exact h _ (by simp)
        · exact ih (fun f hf => h f (by simp [hf])) f hf

/-- Reading through a change of values. -/
theorem look_map (d : α) (l : Tbl α) (g : Nat → α → α) (n : Nat) (hd : g n d = d) :
    look d (l.map fun e => (e.1, g e.1 e.2)) n = g n (look d l n) := by
  induction l with
  | nil => simp [hd]
  | cons e t ih =>
    simp only [List.map_cons, look_cons]
    split
    · rename_i h; simp only [h]
    · exact ih

end Sys2Proof.Machine
end

