-- ==== Sys2Proof/Laws/State.lean ====
section
/-! SUPPORT. Every field of the state after every basic update, so that no proof unfolds a record update. -/

set_option Elab.async false

namespace Sys2Proof.Machine

variable (s : State)

@[simp] theorem State.setChan_member (p : Nat) (c : Chan) : (s.setChan p c).member = s.member := rfl
@[simp] theorem State.setChan_pending (p : Nat) (c : Chan) : (s.setChan p c).pending = s.pending := rfl
@[simp] theorem State.setChan_apb (p : Nat) (c : Chan) : (s.setChan p c).apb = s.apb := rfl
@[simp] theorem State.setChan_regq (p : Nat) (c : Chan) : (s.setChan p c).regq = s.regq := rfl
@[simp] theorem State.setChan_now (p : Nat) (c : Chan) : (s.setChan p c).now = s.now := rfl
@[simp] theorem State.setChan_time (p : Nat) (c : Chan) : (s.setChan p c).time = s.time := rfl
@[simp] theorem State.setChan_opt (p : Nat) (c : Chan) : (s.setChan p c).opt = s.opt := rfl
@[simp] theorem State.setChan_rst (p : Nat) (c : Chan) : (s.setChan p c).rst = s.rst := rfl
@[simp] theorem State.setChan_fns (p : Nat) (c : Chan) : (s.setChan p c).fns = s.fns := rfl
@[simp] theorem State.setChan_mailboxes (p : Nat) (c : Chan) : (s.setChan p c).mailboxes = s.mailboxes := rfl
@[simp] theorem State.setChan_goOrder (p : Nat) (c : Chan) : (s.setChan p c).goOrder = s.goOrder := rfl
@[simp] theorem State.setChan_edges (p : Nat) (c : Chan) : (s.setChan p c).edges = s.edges := rfl
@[simp] theorem State.setChan_tap (p : Nat) (c : Chan) : (s.setChan p c).tap = s.tap := rfl
@[simp] theorem State.setChan_wrapper (p : Nat) (c : Chan) : (s.setChan p c).wrapper = s.wrapper := rfl
@[simp] theorem State.setChan_goTied (p : Nat) (c : Chan) : (s.setChan p c).goTied = s.goTied := rfl
@[simp] theorem State.setChan_goCount (p : Nat) (c : Chan) : (s.setChan p c).goCount = s.goCount := rfl
@[simp] theorem State.setChan_ev (p : Nat) (c : Chan) : (s.setChan p c).ev = s.ev := rfl
@[simp] theorem State.setChan_benches (p : Nat) (c : Chan) : (s.setChan p c).benches = s.benches := rfl
@[simp] theorem State.setChan_txns (p : Nat) (c : Chan) : (s.setChan p c).txns = s.txns := rfl
@[simp] theorem State.setChan_nextId (p : Nat) (c : Chan) : (s.setChan p c).nextId = s.nextId := rfl
@[simp] theorem State.setChan_ports (p : Nat) (c : Chan) : (s.setChan p c).ports = s.ports := rfl
@[simp] theorem State.setChan_cru (p : Nat) (c : Chan) : (s.setChan p c).cru = s.cru := rfl
@[simp] theorem State.setChan_cul (p : Nat) (c : Chan) : (s.setChan p c).cul = s.cul := rfl
@[simp] theorem State.setChan_xez (p : Nat) (c : Chan) : (s.setChan p c).xez = s.xez := rfl
@[simp] theorem State.setChan_safety (p : Nat) (c : Chan) : (s.setChan p c).safety = s.safety := rfl
@[simp] theorem State.setChan_gaf (p : Nat) (c : Chan) : (s.setChan p c).gaf = s.gaf := rfl
@[simp] theorem State.setChan_glob (p : Nat) (c : Chan) : (s.setChan p c).glob = s.glob := rfl

@[simp] theorem State.modChan_member (p : Nat) (g : Chan → Chan) : (s.modChan p g).member = s.member := rfl
@[simp] theorem State.modChan_pending (p : Nat) (g : Chan → Chan) : (s.modChan p g).pending = s.pending := rfl
@[simp] theorem State.modChan_apb (p : Nat) (g : Chan → Chan) : (s.modChan p g).apb = s.apb := rfl
@[simp] theorem State.modChan_regq (p : Nat) (g : Chan → Chan) : (s.modChan p g).regq = s.regq := rfl
@[simp] theorem State.modChan_now (p : Nat) (g : Chan → Chan) : (s.modChan p g).now = s.now := rfl
@[simp] theorem State.modChan_time (p : Nat) (g : Chan → Chan) : (s.modChan p g).time = s.time := rfl
@[simp] theorem State.modChan_opt (p : Nat) (g : Chan → Chan) : (s.modChan p g).opt = s.opt := rfl
@[simp] theorem State.modChan_rst (p : Nat) (g : Chan → Chan) : (s.modChan p g).rst = s.rst := rfl
@[simp] theorem State.modChan_fns (p : Nat) (g : Chan → Chan) : (s.modChan p g).fns = s.fns := rfl
@[simp] theorem State.modChan_mailboxes (p : Nat) (g : Chan → Chan) : (s.modChan p g).mailboxes = s.mailboxes := rfl
@[simp] theorem State.modChan_goOrder (p : Nat) (g : Chan → Chan) : (s.modChan p g).goOrder = s.goOrder := rfl
@[simp] theorem State.modChan_edges (p : Nat) (g : Chan → Chan) : (s.modChan p g).edges = s.edges := rfl
@[simp] theorem State.modChan_tap (p : Nat) (g : Chan → Chan) : (s.modChan p g).tap = s.tap := rfl
@[simp] theorem State.modChan_wrapper (p : Nat) (g : Chan → Chan) : (s.modChan p g).wrapper = s.wrapper := rfl
@[simp] theorem State.modChan_goTied (p : Nat) (g : Chan → Chan) : (s.modChan p g).goTied = s.goTied := rfl
@[simp] theorem State.modChan_goCount (p : Nat) (g : Chan → Chan) : (s.modChan p g).goCount = s.goCount := rfl
@[simp] theorem State.modChan_ev (p : Nat) (g : Chan → Chan) : (s.modChan p g).ev = s.ev := rfl
@[simp] theorem State.modChan_benches (p : Nat) (g : Chan → Chan) : (s.modChan p g).benches = s.benches := rfl
@[simp] theorem State.modChan_txns (p : Nat) (g : Chan → Chan) : (s.modChan p g).txns = s.txns := rfl
@[simp] theorem State.modChan_nextId (p : Nat) (g : Chan → Chan) : (s.modChan p g).nextId = s.nextId := rfl
@[simp] theorem State.modChan_ports (p : Nat) (g : Chan → Chan) : (s.modChan p g).ports = s.ports := rfl
@[simp] theorem State.modChan_cru (p : Nat) (g : Chan → Chan) : (s.modChan p g).cru = s.cru := rfl
@[simp] theorem State.modChan_cul (p : Nat) (g : Chan → Chan) : (s.modChan p g).cul = s.cul := rfl
@[simp] theorem State.modChan_xez (p : Nat) (g : Chan → Chan) : (s.modChan p g).xez = s.xez := rfl
@[simp] theorem State.modChan_safety (p : Nat) (g : Chan → Chan) : (s.modChan p g).safety = s.safety := rfl
@[simp] theorem State.modChan_gaf (p : Nat) (g : Chan → Chan) : (s.modChan p g).gaf = s.gaf := rfl
@[simp] theorem State.modChan_glob (p : Nat) (g : Chan → Chan) : (s.modChan p g).glob = s.glob := rfl

@[simp] theorem State.setFn_member (f : Nat) (x : Fn) : (s.setFn f x).member = s.member := rfl
@[simp] theorem State.setFn_pending (f : Nat) (x : Fn) : (s.setFn f x).pending = s.pending := rfl
@[simp] theorem State.setFn_apb (f : Nat) (x : Fn) : (s.setFn f x).apb = s.apb := rfl
@[simp] theorem State.setFn_regq (f : Nat) (x : Fn) : (s.setFn f x).regq = s.regq := rfl
@[simp] theorem State.setFn_now (f : Nat) (x : Fn) : (s.setFn f x).now = s.now := rfl
@[simp] theorem State.setFn_time (f : Nat) (x : Fn) : (s.setFn f x).time = s.time := rfl
@[simp] theorem State.setFn_opt (f : Nat) (x : Fn) : (s.setFn f x).opt = s.opt := rfl
@[simp] theorem State.setFn_rst (f : Nat) (x : Fn) : (s.setFn f x).rst = s.rst := rfl
@[simp] theorem State.setFn_chans (f : Nat) (x : Fn) : (s.setFn f x).chans = s.chans := rfl
@[simp] theorem State.setFn_mailboxes (f : Nat) (x : Fn) : (s.setFn f x).mailboxes = s.mailboxes := rfl
@[simp] theorem State.setFn_goOrder (f : Nat) (x : Fn) : (s.setFn f x).goOrder = s.goOrder := rfl
@[simp] theorem State.setFn_edges (f : Nat) (x : Fn) : (s.setFn f x).edges = s.edges := rfl
@[simp] theorem State.setFn_tap (f : Nat) (x : Fn) : (s.setFn f x).tap = s.tap := rfl
@[simp] theorem State.setFn_wrapper (f : Nat) (x : Fn) : (s.setFn f x).wrapper = s.wrapper := rfl
@[simp] theorem State.setFn_goTied (f : Nat) (x : Fn) : (s.setFn f x).goTied = s.goTied := rfl
@[simp] theorem State.setFn_goCount (f : Nat) (x : Fn) : (s.setFn f x).goCount = s.goCount := rfl
@[simp] theorem State.setFn_ev (f : Nat) (x : Fn) : (s.setFn f x).ev = s.ev := rfl
@[simp] theorem State.setFn_benches (f : Nat) (x : Fn) : (s.setFn f x).benches = s.benches := rfl
@[simp] theorem State.setFn_txns (f : Nat) (x : Fn) : (s.setFn f x).txns = s.txns := rfl
@[simp] theorem State.setFn_nextId (f : Nat) (x : Fn) : (s.setFn f x).nextId = s.nextId := rfl
@[simp] theorem State.setFn_ports (f : Nat) (x : Fn) : (s.setFn f x).ports = s.ports := rfl
@[simp] theorem State.setFn_cru (f : Nat) (x : Fn) : (s.setFn f x).cru = s.cru := rfl
@[simp] theorem State.setFn_cul (f : Nat) (x : Fn) : (s.setFn f x).cul = s.cul := rfl
@[simp] theorem State.setFn_xez (f : Nat) (x : Fn) : (s.setFn f x).xez = s.xez := rfl
@[simp] theorem State.setFn_safety (f : Nat) (x : Fn) : (s.setFn f x).safety = s.safety := rfl
@[simp] theorem State.setFn_gaf (f : Nat) (x : Fn) : (s.setFn f x).gaf = s.gaf := rfl
@[simp] theorem State.setFn_glob (f : Nat) (x : Fn) : (s.setFn f x).glob = s.glob := rfl

@[simp] theorem State.modFn_member (f : Nat) (g : Fn → Fn) : (s.modFn f g).member = s.member := rfl
@[simp] theorem State.modFn_pending (f : Nat) (g : Fn → Fn) : (s.modFn f g).pending = s.pending := rfl
@[simp] theorem State.modFn_apb (f : Nat) (g : Fn → Fn) : (s.modFn f g).apb = s.apb := rfl
@[simp] theorem State.modFn_regq (f : Nat) (g : Fn → Fn) : (s.modFn f g).regq = s.regq := rfl
@[simp] theorem State.modFn_now (f : Nat) (g : Fn → Fn) : (s.modFn f g).now = s.now := rfl
@[simp] theorem State.modFn_time (f : Nat) (g : Fn → Fn) : (s.modFn f g).time = s.time := rfl
@[simp] theorem State.modFn_opt (f : Nat) (g : Fn → Fn) : (s.modFn f g).opt = s.opt := rfl
@[simp] theorem State.modFn_rst (f : Nat) (g : Fn → Fn) : (s.modFn f g).rst = s.rst := rfl
@[simp] theorem State.modFn_chans (f : Nat) (g : Fn → Fn) : (s.modFn f g).chans = s.chans := rfl
@[simp] theorem State.modFn_mailboxes (f : Nat) (g : Fn → Fn) : (s.modFn f g).mailboxes = s.mailboxes := rfl
@[simp] theorem State.modFn_goOrder (f : Nat) (g : Fn → Fn) : (s.modFn f g).goOrder = s.goOrder := rfl
@[simp] theorem State.modFn_edges (f : Nat) (g : Fn → Fn) : (s.modFn f g).edges = s.edges := rfl
@[simp] theorem State.modFn_tap (f : Nat) (g : Fn → Fn) : (s.modFn f g).tap = s.tap := rfl
@[simp] theorem State.modFn_wrapper (f : Nat) (g : Fn → Fn) : (s.modFn f g).wrapper = s.wrapper := rfl
@[simp] theorem State.modFn_goTied (f : Nat) (g : Fn → Fn) : (s.modFn f g).goTied = s.goTied := rfl
@[simp] theorem State.modFn_goCount (f : Nat) (g : Fn → Fn) : (s.modFn f g).goCount = s.goCount := rfl
@[simp] theorem State.modFn_ev (f : Nat) (g : Fn → Fn) : (s.modFn f g).ev = s.ev := rfl
@[simp] theorem State.modFn_benches (f : Nat) (g : Fn → Fn) : (s.modFn f g).benches = s.benches := rfl
@[simp] theorem State.modFn_txns (f : Nat) (g : Fn → Fn) : (s.modFn f g).txns = s.txns := rfl
@[simp] theorem State.modFn_nextId (f : Nat) (g : Fn → Fn) : (s.modFn f g).nextId = s.nextId := rfl
@[simp] theorem State.modFn_ports (f : Nat) (g : Fn → Fn) : (s.modFn f g).ports = s.ports := rfl
@[simp] theorem State.modFn_cru (f : Nat) (g : Fn → Fn) : (s.modFn f g).cru = s.cru := rfl
@[simp] theorem State.modFn_cul (f : Nat) (g : Fn → Fn) : (s.modFn f g).cul = s.cul := rfl
@[simp] theorem State.modFn_xez (f : Nat) (g : Fn → Fn) : (s.modFn f g).xez = s.xez := rfl
@[simp] theorem State.modFn_safety (f : Nat) (g : Fn → Fn) : (s.modFn f g).safety = s.safety := rfl
@[simp] theorem State.modFn_gaf (f : Nat) (g : Fn → Fn) : (s.modFn f g).gaf = s.gaf := rfl
@[simp] theorem State.modFn_glob (f : Nat) (g : Fn → Fn) : (s.modFn f g).glob = s.glob := rfl

@[simp] theorem State.setPort_member (p : Nat) (x : Port) : (s.setPort p x).member = s.member := rfl
@[simp] theorem State.setPort_pending (p : Nat) (x : Port) : (s.setPort p x).pending = s.pending := rfl
@[simp] theorem State.setPort_apb (p : Nat) (x : Port) : (s.setPort p x).apb = s.apb := rfl
@[simp] theorem State.setPort_regq (p : Nat) (x : Port) : (s.setPort p x).regq = s.regq := rfl
@[simp] theorem State.setPort_now (p : Nat) (x : Port) : (s.setPort p x).now = s.now := rfl
@[simp] theorem State.setPort_time (p : Nat) (x : Port) : (s.setPort p x).time = s.time := rfl
@[simp] theorem State.setPort_opt (p : Nat) (x : Port) : (s.setPort p x).opt = s.opt := rfl
@[simp] theorem State.setPort_rst (p : Nat) (x : Port) : (s.setPort p x).rst = s.rst := rfl
@[simp] theorem State.setPort_chans (p : Nat) (x : Port) : (s.setPort p x).chans = s.chans := rfl
@[simp] theorem State.setPort_fns (p : Nat) (x : Port) : (s.setPort p x).fns = s.fns := rfl
@[simp] theorem State.setPort_mailboxes (p : Nat) (x : Port) : (s.setPort p x).mailboxes = s.mailboxes := rfl
@[simp] theorem State.setPort_goOrder (p : Nat) (x : Port) : (s.setPort p x).goOrder = s.goOrder := rfl
@[simp] theorem State.setPort_edges (p : Nat) (x : Port) : (s.setPort p x).edges = s.edges := rfl
@[simp] theorem State.setPort_tap (p : Nat) (x : Port) : (s.setPort p x).tap = s.tap := rfl
@[simp] theorem State.setPort_wrapper (p : Nat) (x : Port) : (s.setPort p x).wrapper = s.wrapper := rfl
@[simp] theorem State.setPort_goTied (p : Nat) (x : Port) : (s.setPort p x).goTied = s.goTied := rfl
@[simp] theorem State.setPort_goCount (p : Nat) (x : Port) : (s.setPort p x).goCount = s.goCount := rfl
@[simp] theorem State.setPort_ev (p : Nat) (x : Port) : (s.setPort p x).ev = s.ev := rfl
@[simp] theorem State.setPort_benches (p : Nat) (x : Port) : (s.setPort p x).benches = s.benches := rfl
@[simp] theorem State.setPort_txns (p : Nat) (x : Port) : (s.setPort p x).txns = s.txns := rfl
@[simp] theorem State.setPort_nextId (p : Nat) (x : Port) : (s.setPort p x).nextId = s.nextId := rfl
@[simp] theorem State.setPort_cru (p : Nat) (x : Port) : (s.setPort p x).cru = s.cru := rfl
@[simp] theorem State.setPort_cul (p : Nat) (x : Port) : (s.setPort p x).cul = s.cul := rfl
@[simp] theorem State.setPort_xez (p : Nat) (x : Port) : (s.setPort p x).xez = s.xez := rfl
@[simp] theorem State.setPort_safety (p : Nat) (x : Port) : (s.setPort p x).safety = s.safety := rfl
@[simp] theorem State.setPort_gaf (p : Nat) (x : Port) : (s.setPort p x).gaf = s.gaf := rfl
@[simp] theorem State.setPort_glob (p : Nat) (x : Port) : (s.setPort p x).glob = s.glob := rfl

@[simp] theorem State.modPort_member (p : Nat) (g : Port → Port) : (s.modPort p g).member = s.member := rfl
@[simp] theorem State.modPort_pending (p : Nat) (g : Port → Port) : (s.modPort p g).pending = s.pending := rfl
@[simp] theorem State.modPort_apb (p : Nat) (g : Port → Port) : (s.modPort p g).apb = s.apb := rfl
@[simp] theorem State.modPort_regq (p : Nat) (g : Port → Port) : (s.modPort p g).regq = s.regq := rfl
@[simp] theorem State.modPort_now (p : Nat) (g : Port → Port) : (s.modPort p g).now = s.now := rfl
@[simp] theorem State.modPort_time (p : Nat) (g : Port → Port) : (s.modPort p g).time = s.time := rfl
@[simp] theorem State.modPort_opt (p : Nat) (g : Port → Port) : (s.modPort p g).opt = s.opt := rfl
@[simp] theorem State.modPort_rst (p : Nat) (g : Port → Port) : (s.modPort p g).rst = s.rst := rfl
@[simp] theorem State.modPort_chans (p : Nat) (g : Port → Port) : (s.modPort p g).chans = s.chans := rfl
@[simp] theorem State.modPort_fns (p : Nat) (g : Port → Port) : (s.modPort p g).fns = s.fns := rfl
@[simp] theorem State.modPort_mailboxes (p : Nat) (g : Port → Port) : (s.modPort p g).mailboxes = s.mailboxes := rfl
@[simp] theorem State.modPort_goOrder (p : Nat) (g : Port → Port) : (s.modPort p g).goOrder = s.goOrder := rfl
@[simp] theorem State.modPort_edges (p : Nat) (g : Port → Port) : (s.modPort p g).edges = s.edges := rfl
@[simp] theorem State.modPort_tap (p : Nat) (g : Port → Port) : (s.modPort p g).tap = s.tap := rfl
@[simp] theorem State.modPort_wrapper (p : Nat) (g : Port → Port) : (s.modPort p g).wrapper = s.wrapper := rfl
@[simp] theorem State.modPort_goTied (p : Nat) (g : Port → Port) : (s.modPort p g).goTied = s.goTied := rfl
@[simp] theorem State.modPort_goCount (p : Nat) (g : Port → Port) : (s.modPort p g).goCount = s.goCount := rfl
@[simp] theorem State.modPort_ev (p : Nat) (g : Port → Port) : (s.modPort p g).ev = s.ev := rfl
@[simp] theorem State.modPort_benches (p : Nat) (g : Port → Port) : (s.modPort p g).benches = s.benches := rfl
@[simp] theorem State.modPort_txns (p : Nat) (g : Port → Port) : (s.modPort p g).txns = s.txns := rfl
@[simp] theorem State.modPort_nextId (p : Nat) (g : Port → Port) : (s.modPort p g).nextId = s.nextId := rfl
@[simp] theorem State.modPort_cru (p : Nat) (g : Port → Port) : (s.modPort p g).cru = s.cru := rfl
@[simp] theorem State.modPort_cul (p : Nat) (g : Port → Port) : (s.modPort p g).cul = s.cul := rfl
@[simp] theorem State.modPort_xez (p : Nat) (g : Port → Port) : (s.modPort p g).xez = s.xez := rfl
@[simp] theorem State.modPort_safety (p : Nat) (g : Port → Port) : (s.modPort p g).safety = s.safety := rfl
@[simp] theorem State.modPort_gaf (p : Nat) (g : Port → Port) : (s.modPort p g).gaf = s.gaf := rfl
@[simp] theorem State.modPort_glob (p : Nat) (g : Port → Port) : (s.modPort p g).glob = s.glob := rfl

@[simp] theorem State.setBench_member (b : Nat) (x : Bench) : (s.setBench b x).member = s.member := rfl
@[simp] theorem State.setBench_pending (b : Nat) (x : Bench) : (s.setBench b x).pending = s.pending := rfl
@[simp] theorem State.setBench_apb (b : Nat) (x : Bench) : (s.setBench b x).apb = s.apb := rfl
@[simp] theorem State.setBench_regq (b : Nat) (x : Bench) : (s.setBench b x).regq = s.regq := rfl
@[simp] theorem State.setBench_now (b : Nat) (x : Bench) : (s.setBench b x).now = s.now := rfl
@[simp] theorem State.setBench_time (b : Nat) (x : Bench) : (s.setBench b x).time = s.time := rfl
@[simp] theorem State.setBench_opt (b : Nat) (x : Bench) : (s.setBench b x).opt = s.opt := rfl
@[simp] theorem State.setBench_rst (b : Nat) (x : Bench) : (s.setBench b x).rst = s.rst := rfl
@[simp] theorem State.setBench_chans (b : Nat) (x : Bench) : (s.setBench b x).chans = s.chans := rfl
@[simp] theorem State.setBench_fns (b : Nat) (x : Bench) : (s.setBench b x).fns = s.fns := rfl
@[simp] theorem State.setBench_mailboxes (b : Nat) (x : Bench) : (s.setBench b x).mailboxes = s.mailboxes := rfl
@[simp] theorem State.setBench_goOrder (b : Nat) (x : Bench) : (s.setBench b x).goOrder = s.goOrder := rfl
@[simp] theorem State.setBench_edges (b : Nat) (x : Bench) : (s.setBench b x).edges = s.edges := rfl
@[simp] theorem State.setBench_tap (b : Nat) (x : Bench) : (s.setBench b x).tap = s.tap := rfl
@[simp] theorem State.setBench_wrapper (b : Nat) (x : Bench) : (s.setBench b x).wrapper = s.wrapper := rfl
@[simp] theorem State.setBench_goTied (b : Nat) (x : Bench) : (s.setBench b x).goTied = s.goTied := rfl
@[simp] theorem State.setBench_goCount (b : Nat) (x : Bench) : (s.setBench b x).goCount = s.goCount := rfl
@[simp] theorem State.setBench_ev (b : Nat) (x : Bench) : (s.setBench b x).ev = s.ev := rfl
@[simp] theorem State.setBench_txns (b : Nat) (x : Bench) : (s.setBench b x).txns = s.txns := rfl
@[simp] theorem State.setBench_nextId (b : Nat) (x : Bench) : (s.setBench b x).nextId = s.nextId := rfl
@[simp] theorem State.setBench_ports (b : Nat) (x : Bench) : (s.setBench b x).ports = s.ports := rfl
@[simp] theorem State.setBench_cru (b : Nat) (x : Bench) : (s.setBench b x).cru = s.cru := rfl
@[simp] theorem State.setBench_cul (b : Nat) (x : Bench) : (s.setBench b x).cul = s.cul := rfl
@[simp] theorem State.setBench_xez (b : Nat) (x : Bench) : (s.setBench b x).xez = s.xez := rfl
@[simp] theorem State.setBench_safety (b : Nat) (x : Bench) : (s.setBench b x).safety = s.safety := rfl
@[simp] theorem State.setBench_gaf (b : Nat) (x : Bench) : (s.setBench b x).gaf = s.gaf := rfl
@[simp] theorem State.setBench_glob (b : Nat) (x : Bench) : (s.setBench b x).glob = s.glob := rfl

@[simp] theorem State.modBench_member (b : Nat) (g : Bench → Bench) : (s.modBench b g).member = s.member := rfl
@[simp] theorem State.modBench_pending (b : Nat) (g : Bench → Bench) : (s.modBench b g).pending = s.pending := rfl
@[simp] theorem State.modBench_apb (b : Nat) (g : Bench → Bench) : (s.modBench b g).apb = s.apb := rfl
@[simp] theorem State.modBench_regq (b : Nat) (g : Bench → Bench) : (s.modBench b g).regq = s.regq := rfl
@[simp] theorem State.modBench_now (b : Nat) (g : Bench → Bench) : (s.modBench b g).now = s.now := rfl
@[simp] theorem State.modBench_time (b : Nat) (g : Bench → Bench) : (s.modBench b g).time = s.time := rfl
@[simp] theorem State.modBench_opt (b : Nat) (g : Bench → Bench) : (s.modBench b g).opt = s.opt := rfl
@[simp] theorem State.modBench_rst (b : Nat) (g : Bench → Bench) : (s.modBench b g).rst = s.rst := rfl
@[simp] theorem State.modBench_chans (b : Nat) (g : Bench → Bench) : (s.modBench b g).chans = s.chans := rfl
@[simp] theorem State.modBench_fns (b : Nat) (g : Bench → Bench) : (s.modBench b g).fns = s.fns := rfl
@[simp] theorem State.modBench_mailboxes (b : Nat) (g : Bench → Bench) : (s.modBench b g).mailboxes = s.mailboxes := rfl
@[simp] theorem State.modBench_goOrder (b : Nat) (g : Bench → Bench) : (s.modBench b g).goOrder = s.goOrder := rfl
@[simp] theorem State.modBench_edges (b : Nat) (g : Bench → Bench) : (s.modBench b g).edges = s.edges := rfl
@[simp] theorem State.modBench_tap (b : Nat) (g : Bench → Bench) : (s.modBench b g).tap = s.tap := rfl
@[simp] theorem State.modBench_wrapper (b : Nat) (g : Bench → Bench) : (s.modBench b g).wrapper = s.wrapper := rfl
@[simp] theorem State.modBench_goTied (b : Nat) (g : Bench → Bench) : (s.modBench b g).goTied = s.goTied := rfl
@[simp] theorem State.modBench_goCount (b : Nat) (g : Bench → Bench) : (s.modBench b g).goCount = s.goCount := rfl
@[simp] theorem State.modBench_ev (b : Nat) (g : Bench → Bench) : (s.modBench b g).ev = s.ev := rfl
@[simp] theorem State.modBench_txns (b : Nat) (g : Bench → Bench) : (s.modBench b g).txns = s.txns := rfl
@[simp] theorem State.modBench_nextId (b : Nat) (g : Bench → Bench) : (s.modBench b g).nextId = s.nextId := rfl
@[simp] theorem State.modBench_ports (b : Nat) (g : Bench → Bench) : (s.modBench b g).ports = s.ports := rfl
@[simp] theorem State.modBench_cru (b : Nat) (g : Bench → Bench) : (s.modBench b g).cru = s.cru := rfl
@[simp] theorem State.modBench_cul (b : Nat) (g : Bench → Bench) : (s.modBench b g).cul = s.cul := rfl
@[simp] theorem State.modBench_xez (b : Nat) (g : Bench → Bench) : (s.modBench b g).xez = s.xez := rfl
@[simp] theorem State.modBench_safety (b : Nat) (g : Bench → Bench) : (s.modBench b g).safety = s.safety := rfl
@[simp] theorem State.modBench_gaf (b : Nat) (g : Bench → Bench) : (s.modBench b g).gaf = s.gaf := rfl
@[simp] theorem State.modBench_glob (b : Nat) (g : Bench → Bench) : (s.modBench b g).glob = s.glob := rfl

@[simp] theorem State.setMailbox_member (m : Nat) (x : Mailbox) : (s.setMailbox m x).member = s.member := rfl
@[simp] theorem State.setMailbox_pending (m : Nat) (x : Mailbox) : (s.setMailbox m x).pending = s.pending := rfl
@[simp] theorem State.setMailbox_apb (m : Nat) (x : Mailbox) : (s.setMailbox m x).apb = s.apb := rfl
@[simp] theorem State.setMailbox_regq (m : Nat) (x : Mailbox) : (s.setMailbox m x).regq = s.regq := rfl
@[simp] theorem State.setMailbox_now (m : Nat) (x : Mailbox) : (s.setMailbox m x).now = s.now := rfl
@[simp] theorem State.setMailbox_time (m : Nat) (x : Mailbox) : (s.setMailbox m x).time = s.time := rfl
@[simp] theorem State.setMailbox_opt (m : Nat) (x : Mailbox) : (s.setMailbox m x).opt = s.opt := rfl
@[simp] theorem State.setMailbox_rst (m : Nat) (x : Mailbox) : (s.setMailbox m x).rst = s.rst := rfl
@[simp] theorem State.setMailbox_chans (m : Nat) (x : Mailbox) : (s.setMailbox m x).chans = s.chans := rfl
@[simp] theorem State.setMailbox_fns (m : Nat) (x : Mailbox) : (s.setMailbox m x).fns = s.fns := rfl
@[simp] theorem State.setMailbox_goOrder (m : Nat) (x : Mailbox) : (s.setMailbox m x).goOrder = s.goOrder := rfl
@[simp] theorem State.setMailbox_edges (m : Nat) (x : Mailbox) : (s.setMailbox m x).edges = s.edges := rfl
@[simp] theorem State.setMailbox_tap (m : Nat) (x : Mailbox) : (s.setMailbox m x).tap = s.tap := rfl
@[simp] theorem State.setMailbox_wrapper (m : Nat) (x : Mailbox) : (s.setMailbox m x).wrapper = s.wrapper := rfl
@[simp] theorem State.setMailbox_goTied (m : Nat) (x : Mailbox) : (s.setMailbox m x).goTied = s.goTied := rfl
@[simp] theorem State.setMailbox_goCount (m : Nat) (x : Mailbox) : (s.setMailbox m x).goCount = s.goCount := rfl
@[simp] theorem State.setMailbox_ev (m : Nat) (x : Mailbox) : (s.setMailbox m x).ev = s.ev := rfl
@[simp] theorem State.setMailbox_benches (m : Nat) (x : Mailbox) : (s.setMailbox m x).benches = s.benches := rfl
@[simp] theorem State.setMailbox_txns (m : Nat) (x : Mailbox) : (s.setMailbox m x).txns = s.txns := rfl
@[simp] theorem State.setMailbox_nextId (m : Nat) (x : Mailbox) : (s.setMailbox m x).nextId = s.nextId := rfl
@[simp] theorem State.setMailbox_ports (m : Nat) (x : Mailbox) : (s.setMailbox m x).ports = s.ports := rfl
@[simp] theorem State.setMailbox_cru (m : Nat) (x : Mailbox) : (s.setMailbox m x).cru = s.cru := rfl
@[simp] theorem State.setMailbox_cul (m : Nat) (x : Mailbox) : (s.setMailbox m x).cul = s.cul := rfl
@[simp] theorem State.setMailbox_xez (m : Nat) (x : Mailbox) : (s.setMailbox m x).xez = s.xez := rfl
@[simp] theorem State.setMailbox_safety (m : Nat) (x : Mailbox) : (s.setMailbox m x).safety = s.safety := rfl
@[simp] theorem State.setMailbox_gaf (m : Nat) (x : Mailbox) : (s.setMailbox m x).gaf = s.gaf := rfl
@[simp] theorem State.setMailbox_glob (m : Nat) (x : Mailbox) : (s.setMailbox m x).glob = s.glob := rfl

@[simp] theorem State.modMailbox_member (m : Nat) (g : Mailbox → Mailbox) : (s.modMailbox m g).member = s.member := rfl
@[simp] theorem State.modMailbox_pending (m : Nat) (g : Mailbox → Mailbox) : (s.modMailbox m g).pending = s.pending := rfl
@[simp] theorem State.modMailbox_apb (m : Nat) (g : Mailbox → Mailbox) : (s.modMailbox m g).apb = s.apb := rfl
@[simp] theorem State.modMailbox_regq (m : Nat) (g : Mailbox → Mailbox) : (s.modMailbox m g).regq = s.regq := rfl
@[simp] theorem State.modMailbox_now (m : Nat) (g : Mailbox → Mailbox) : (s.modMailbox m g).now = s.now := rfl
@[simp] theorem State.modMailbox_time (m : Nat) (g : Mailbox → Mailbox) : (s.modMailbox m g).time = s.time := rfl
@[simp] theorem State.modMailbox_opt (m : Nat) (g : Mailbox → Mailbox) : (s.modMailbox m g).opt = s.opt := rfl
@[simp] theorem State.modMailbox_rst (m : Nat) (g : Mailbox → Mailbox) : (s.modMailbox m g).rst = s.rst := rfl
@[simp] theorem State.modMailbox_chans (m : Nat) (g : Mailbox → Mailbox) : (s.modMailbox m g).chans = s.chans := rfl
@[simp] theorem State.modMailbox_fns (m : Nat) (g : Mailbox → Mailbox) : (s.modMailbox m g).fns = s.fns := rfl
@[simp] theorem State.modMailbox_goOrder (m : Nat) (g : Mailbox → Mailbox) : (s.modMailbox m g).goOrder = s.goOrder := rfl
@[simp] theorem State.modMailbox_edges (m : Nat) (g : Mailbox → Mailbox) : (s.modMailbox m g).edges = s.edges := rfl
@[simp] theorem State.modMailbox_tap (m : Nat) (g : Mailbox → Mailbox) : (s.modMailbox m g).tap = s.tap := rfl
@[simp] theorem State.modMailbox_wrapper (m : Nat) (g : Mailbox → Mailbox) : (s.modMailbox m g).wrapper = s.wrapper := rfl
@[simp] theorem State.modMailbox_goTied (m : Nat) (g : Mailbox → Mailbox) : (s.modMailbox m g).goTied = s.goTied := rfl
@[simp] theorem State.modMailbox_goCount (m : Nat) (g : Mailbox → Mailbox) : (s.modMailbox m g).goCount = s.goCount := rfl
@[simp] theorem State.modMailbox_ev (m : Nat) (g : Mailbox → Mailbox) : (s.modMailbox m g).ev = s.ev := rfl
@[simp] theorem State.modMailbox_benches (m : Nat) (g : Mailbox → Mailbox) : (s.modMailbox m g).benches = s.benches := rfl
@[simp] theorem State.modMailbox_txns (m : Nat) (g : Mailbox → Mailbox) : (s.modMailbox m g).txns = s.txns := rfl
@[simp] theorem State.modMailbox_nextId (m : Nat) (g : Mailbox → Mailbox) : (s.modMailbox m g).nextId = s.nextId := rfl
@[simp] theorem State.modMailbox_ports (m : Nat) (g : Mailbox → Mailbox) : (s.modMailbox m g).ports = s.ports := rfl
@[simp] theorem State.modMailbox_cru (m : Nat) (g : Mailbox → Mailbox) : (s.modMailbox m g).cru = s.cru := rfl
@[simp] theorem State.modMailbox_cul (m : Nat) (g : Mailbox → Mailbox) : (s.modMailbox m g).cul = s.cul := rfl
@[simp] theorem State.modMailbox_xez (m : Nat) (g : Mailbox → Mailbox) : (s.modMailbox m g).xez = s.xez := rfl
@[simp] theorem State.modMailbox_safety (m : Nat) (g : Mailbox → Mailbox) : (s.modMailbox m g).safety = s.safety := rfl
@[simp] theorem State.modMailbox_gaf (m : Nat) (g : Mailbox → Mailbox) : (s.modMailbox m g).gaf = s.gaf := rfl
@[simp] theorem State.modMailbox_glob (m : Nat) (g : Mailbox → Mailbox) : (s.modMailbox m g).glob = s.glob := rfl

@[simp] theorem State.modWork_member (p n : Nat) (g : Work → Work) : (s.modWork p n g).member = s.member := rfl
@[simp] theorem State.modWork_pending (p n : Nat) (g : Work → Work) : (s.modWork p n g).pending = s.pending := rfl
@[simp] theorem State.modWork_apb (p n : Nat) (g : Work → Work) : (s.modWork p n g).apb = s.apb := rfl
@[simp] theorem State.modWork_regq (p n : Nat) (g : Work → Work) : (s.modWork p n g).regq = s.regq := rfl
@[simp] theorem State.modWork_now (p n : Nat) (g : Work → Work) : (s.modWork p n g).now = s.now := rfl
@[simp] theorem State.modWork_time (p n : Nat) (g : Work → Work) : (s.modWork p n g).time = s.time := rfl
@[simp] theorem State.modWork_opt (p n : Nat) (g : Work → Work) : (s.modWork p n g).opt = s.opt := rfl
@[simp] theorem State.modWork_rst (p n : Nat) (g : Work → Work) : (s.modWork p n g).rst = s.rst := rfl
@[simp] theorem State.modWork_fns (p n : Nat) (g : Work → Work) : (s.modWork p n g).fns = s.fns := rfl
@[simp] theorem State.modWork_mailboxes (p n : Nat) (g : Work → Work) : (s.modWork p n g).mailboxes = s.mailboxes := rfl
@[simp] theorem State.modWork_goOrder (p n : Nat) (g : Work → Work) : (s.modWork p n g).goOrder = s.goOrder := rfl
@[simp] theorem State.modWork_edges (p n : Nat) (g : Work → Work) : (s.modWork p n g).edges = s.edges := rfl
@[simp] theorem State.modWork_tap (p n : Nat) (g : Work → Work) : (s.modWork p n g).tap = s.tap := rfl
@[simp] theorem State.modWork_wrapper (p n : Nat) (g : Work → Work) : (s.modWork p n g).wrapper = s.wrapper := rfl
@[simp] theorem State.modWork_goTied (p n : Nat) (g : Work → Work) : (s.modWork p n g).goTied = s.goTied := rfl
@[simp] theorem State.modWork_goCount (p n : Nat) (g : Work → Work) : (s.modWork p n g).goCount = s.goCount := rfl
@[simp] theorem State.modWork_ev (p n : Nat) (g : Work → Work) : (s.modWork p n g).ev = s.ev := rfl
@[simp] theorem State.modWork_benches (p n : Nat) (g : Work → Work) : (s.modWork p n g).benches = s.benches := rfl
@[simp] theorem State.modWork_txns (p n : Nat) (g : Work → Work) : (s.modWork p n g).txns = s.txns := rfl
@[simp] theorem State.modWork_nextId (p n : Nat) (g : Work → Work) : (s.modWork p n g).nextId = s.nextId := rfl
@[simp] theorem State.modWork_ports (p n : Nat) (g : Work → Work) : (s.modWork p n g).ports = s.ports := rfl
@[simp] theorem State.modWork_cru (p n : Nat) (g : Work → Work) : (s.modWork p n g).cru = s.cru := rfl
@[simp] theorem State.modWork_cul (p n : Nat) (g : Work → Work) : (s.modWork p n g).cul = s.cul := rfl
@[simp] theorem State.modWork_xez (p n : Nat) (g : Work → Work) : (s.modWork p n g).xez = s.xez := rfl
@[simp] theorem State.modWork_safety (p n : Nat) (g : Work → Work) : (s.modWork p n g).safety = s.safety := rfl
@[simp] theorem State.modWork_gaf (p n : Nat) (g : Work → Work) : (s.modWork p n g).gaf = s.gaf := rfl
@[simp] theorem State.modWork_glob (p n : Nat) (g : Work → Work) : (s.modWork p n g).glob = s.glob := rfl

@[simp] theorem State.reachCclk_member (n : Nat) : (s.reachCclk n).member = s.member := rfl
@[simp] theorem State.reachCclk_pending (n : Nat) : (s.reachCclk n).pending = s.pending := rfl
@[simp] theorem State.reachCclk_apb (n : Nat) : (s.reachCclk n).apb = s.apb := rfl
@[simp] theorem State.reachCclk_regq (n : Nat) : (s.reachCclk n).regq = s.regq := rfl
@[simp] theorem State.reachCclk_time (n : Nat) : (s.reachCclk n).time = s.time := rfl
@[simp] theorem State.reachCclk_opt (n : Nat) : (s.reachCclk n).opt = s.opt := rfl
@[simp] theorem State.reachCclk_rst (n : Nat) : (s.reachCclk n).rst = s.rst := rfl
@[simp] theorem State.reachCclk_chans (n : Nat) : (s.reachCclk n).chans = s.chans := rfl
@[simp] theorem State.reachCclk_fns (n : Nat) : (s.reachCclk n).fns = s.fns := rfl
@[simp] theorem State.reachCclk_mailboxes (n : Nat) : (s.reachCclk n).mailboxes = s.mailboxes := rfl
@[simp] theorem State.reachCclk_goOrder (n : Nat) : (s.reachCclk n).goOrder = s.goOrder := rfl
@[simp] theorem State.reachCclk_edges (n : Nat) : (s.reachCclk n).edges = s.edges := rfl
@[simp] theorem State.reachCclk_tap (n : Nat) : (s.reachCclk n).tap = s.tap := rfl
@[simp] theorem State.reachCclk_wrapper (n : Nat) : (s.reachCclk n).wrapper = s.wrapper := rfl
@[simp] theorem State.reachCclk_goTied (n : Nat) : (s.reachCclk n).goTied = s.goTied := rfl
@[simp] theorem State.reachCclk_goCount (n : Nat) : (s.reachCclk n).goCount = s.goCount := rfl
@[simp] theorem State.reachCclk_ev (n : Nat) : (s.reachCclk n).ev = s.ev := rfl
@[simp] theorem State.reachCclk_benches (n : Nat) : (s.reachCclk n).benches = s.benches := rfl
@[simp] theorem State.reachCclk_txns (n : Nat) : (s.reachCclk n).txns = s.txns := rfl
@[simp] theorem State.reachCclk_nextId (n : Nat) : (s.reachCclk n).nextId = s.nextId := rfl
@[simp] theorem State.reachCclk_ports (n : Nat) : (s.reachCclk n).ports = s.ports := rfl
@[simp] theorem State.reachCclk_cru (n : Nat) : (s.reachCclk n).cru = s.cru := rfl
@[simp] theorem State.reachCclk_cul (n : Nat) : (s.reachCclk n).cul = s.cul := rfl
@[simp] theorem State.reachCclk_xez (n : Nat) : (s.reachCclk n).xez = s.xez := rfl
@[simp] theorem State.reachCclk_safety (n : Nat) : (s.reachCclk n).safety = s.safety := rfl
@[simp] theorem State.reachCclk_gaf (n : Nat) : (s.reachCclk n).gaf = s.gaf := rfl
@[simp] theorem State.reachCclk_glob (n : Nat) : (s.reachCclk n).glob = s.glob := rfl

@[simp] theorem State.reachRefclk_member (n : Nat) : (s.reachRefclk n).member = s.member := rfl
@[simp] theorem State.reachRefclk_pending (n : Nat) : (s.reachRefclk n).pending = s.pending := rfl
@[simp] theorem State.reachRefclk_apb (n : Nat) : (s.reachRefclk n).apb = s.apb := rfl
@[simp] theorem State.reachRefclk_regq (n : Nat) : (s.reachRefclk n).regq = s.regq := rfl
@[simp] theorem State.reachRefclk_time (n : Nat) : (s.reachRefclk n).time = s.time := rfl
@[simp] theorem State.reachRefclk_opt (n : Nat) : (s.reachRefclk n).opt = s.opt := rfl
@[simp] theorem State.reachRefclk_rst (n : Nat) : (s.reachRefclk n).rst = s.rst := rfl
@[simp] theorem State.reachRefclk_chans (n : Nat) : (s.reachRefclk n).chans = s.chans := rfl
@[simp] theorem State.reachRefclk_fns (n : Nat) : (s.reachRefclk n).fns = s.fns := rfl
@[simp] theorem State.reachRefclk_mailboxes (n : Nat) : (s.reachRefclk n).mailboxes = s.mailboxes := rfl
@[simp] theorem State.reachRefclk_goOrder (n : Nat) : (s.reachRefclk n).goOrder = s.goOrder := rfl
@[simp] theorem State.reachRefclk_edges (n : Nat) : (s.reachRefclk n).edges = s.edges := rfl
@[simp] theorem State.reachRefclk_tap (n : Nat) : (s.reachRefclk n).tap = s.tap := rfl
@[simp] theorem State.reachRefclk_wrapper (n : Nat) : (s.reachRefclk n).wrapper = s.wrapper := rfl
@[simp] theorem State.reachRefclk_goTied (n : Nat) : (s.reachRefclk n).goTied = s.goTied := rfl
@[simp] theorem State.reachRefclk_goCount (n : Nat) : (s.reachRefclk n).goCount = s.goCount := rfl
@[simp] theorem State.reachRefclk_ev (n : Nat) : (s.reachRefclk n).ev = s.ev := rfl
@[simp] theorem State.reachRefclk_benches (n : Nat) : (s.reachRefclk n).benches = s.benches := rfl
@[simp] theorem State.reachRefclk_txns (n : Nat) : (s.reachRefclk n).txns = s.txns := rfl
@[simp] theorem State.reachRefclk_nextId (n : Nat) : (s.reachRefclk n).nextId = s.nextId := rfl
@[simp] theorem State.reachRefclk_ports (n : Nat) : (s.reachRefclk n).ports = s.ports := rfl
@[simp] theorem State.reachRefclk_cru (n : Nat) : (s.reachRefclk n).cru = s.cru := rfl
@[simp] theorem State.reachRefclk_cul (n : Nat) : (s.reachRefclk n).cul = s.cul := rfl
@[simp] theorem State.reachRefclk_xez (n : Nat) : (s.reachRefclk n).xez = s.xez := rfl
@[simp] theorem State.reachRefclk_safety (n : Nat) : (s.reachRefclk n).safety = s.safety := rfl
@[simp] theorem State.reachRefclk_gaf (n : Nat) : (s.reachRefclk n).gaf = s.gaf := rfl
@[simp] theorem State.reachRefclk_glob (n : Nat) : (s.reachRefclk n).glob = s.glob := rfl

@[simp] theorem State.post_member (x : Txn) : (s.post x).member = s.member := rfl
@[simp] theorem State.post_pending (x : Txn) : (s.post x).pending = s.pending := rfl
@[simp] theorem State.post_apb (x : Txn) : (s.post x).apb = s.apb := rfl
@[simp] theorem State.post_regq (x : Txn) : (s.post x).regq = s.regq := rfl
@[simp] theorem State.post_now (x : Txn) : (s.post x).now = s.now := rfl
@[simp] theorem State.post_time (x : Txn) : (s.post x).time = s.time := rfl
@[simp] theorem State.post_opt (x : Txn) : (s.post x).opt = s.opt := rfl
@[simp] theorem State.post_rst (x : Txn) : (s.post x).rst = s.rst := rfl
@[simp] theorem State.post_chans (x : Txn) : (s.post x).chans = s.chans := rfl
@[simp] theorem State.post_fns (x : Txn) : (s.post x).fns = s.fns := rfl
@[simp] theorem State.post_mailboxes (x : Txn) : (s.post x).mailboxes = s.mailboxes := rfl
@[simp] theorem State.post_goOrder (x : Txn) : (s.post x).goOrder = s.goOrder := rfl
@[simp] theorem State.post_edges (x : Txn) : (s.post x).edges = s.edges := rfl
@[simp] theorem State.post_tap (x : Txn) : (s.post x).tap = s.tap := rfl
@[simp] theorem State.post_wrapper (x : Txn) : (s.post x).wrapper = s.wrapper := rfl
@[simp] theorem State.post_goTied (x : Txn) : (s.post x).goTied = s.goTied := rfl
@[simp] theorem State.post_goCount (x : Txn) : (s.post x).goCount = s.goCount := rfl
@[simp] theorem State.post_ev (x : Txn) : (s.post x).ev = s.ev := rfl
@[simp] theorem State.post_benches (x : Txn) : (s.post x).benches = s.benches := rfl
@[simp] theorem State.post_ports (x : Txn) : (s.post x).ports = s.ports := rfl
@[simp] theorem State.post_cru (x : Txn) : (s.post x).cru = s.cru := rfl
@[simp] theorem State.post_cul (x : Txn) : (s.post x).cul = s.cul := rfl
@[simp] theorem State.post_xez (x : Txn) : (s.post x).xez = s.xez := rfl
@[simp] theorem State.post_safety (x : Txn) : (s.post x).safety = s.safety := rfl
@[simp] theorem State.post_gaf (x : Txn) : (s.post x).gaf = s.gaf := rfl
@[simp] theorem State.post_glob (x : Txn) : (s.post x).glob = s.glob := rfl

@[simp] theorem State.setVec_member (v : Nat) (x : Vec) : (s.setVec v x).member = s.member := rfl
@[simp] theorem State.setVec_pending (v : Nat) (x : Vec) : (s.setVec v x).pending = s.pending := rfl
@[simp] theorem State.setVec_apb (v : Nat) (x : Vec) : (s.setVec v x).apb = s.apb := rfl
@[simp] theorem State.setVec_regq (v : Nat) (x : Vec) : (s.setVec v x).regq = s.regq := rfl
@[simp] theorem State.setVec_now (v : Nat) (x : Vec) : (s.setVec v x).now = s.now := rfl
@[simp] theorem State.setVec_time (v : Nat) (x : Vec) : (s.setVec v x).time = s.time := rfl
@[simp] theorem State.setVec_opt (v : Nat) (x : Vec) : (s.setVec v x).opt = s.opt := rfl
@[simp] theorem State.setVec_rst (v : Nat) (x : Vec) : (s.setVec v x).rst = s.rst := rfl
@[simp] theorem State.setVec_chans (v : Nat) (x : Vec) : (s.setVec v x).chans = s.chans := rfl
@[simp] theorem State.setVec_fns (v : Nat) (x : Vec) : (s.setVec v x).fns = s.fns := rfl
@[simp] theorem State.setVec_mailboxes (v : Nat) (x : Vec) : (s.setVec v x).mailboxes = s.mailboxes := rfl
@[simp] theorem State.setVec_goOrder (v : Nat) (x : Vec) : (s.setVec v x).goOrder = s.goOrder := rfl
@[simp] theorem State.setVec_edges (v : Nat) (x : Vec) : (s.setVec v x).edges = s.edges := rfl
@[simp] theorem State.setVec_tap (v : Nat) (x : Vec) : (s.setVec v x).tap = s.tap := rfl
@[simp] theorem State.setVec_wrapper (v : Nat) (x : Vec) : (s.setVec v x).wrapper = s.wrapper := rfl
@[simp] theorem State.setVec_goTied (v : Nat) (x : Vec) : (s.setVec v x).goTied = s.goTied := rfl
@[simp] theorem State.setVec_goCount (v : Nat) (x : Vec) : (s.setVec v x).goCount = s.goCount := rfl
@[simp] theorem State.setVec_benches (v : Nat) (x : Vec) : (s.setVec v x).benches = s.benches := rfl
@[simp] theorem State.setVec_txns (v : Nat) (x : Vec) : (s.setVec v x).txns = s.txns := rfl
@[simp] theorem State.setVec_nextId (v : Nat) (x : Vec) : (s.setVec v x).nextId = s.nextId := rfl
@[simp] theorem State.setVec_ports (v : Nat) (x : Vec) : (s.setVec v x).ports = s.ports := rfl
@[simp] theorem State.setVec_cru (v : Nat) (x : Vec) : (s.setVec v x).cru = s.cru := rfl
@[simp] theorem State.setVec_cul (v : Nat) (x : Vec) : (s.setVec v x).cul = s.cul := rfl
@[simp] theorem State.setVec_xez (v : Nat) (x : Vec) : (s.setVec v x).xez = s.xez := rfl
@[simp] theorem State.setVec_safety (v : Nat) (x : Vec) : (s.setVec v x).safety = s.safety := rfl
@[simp] theorem State.setVec_gaf (v : Nat) (x : Vec) : (s.setVec v x).gaf = s.gaf := rfl
@[simp] theorem State.setVec_glob (v : Nat) (x : Vec) : (s.setVec v x).glob = s.glob := rfl

@[simp] theorem State.setTout_member (n : Nat) (x : TrigOut) : (s.setTout n x).member = s.member := rfl
@[simp] theorem State.setTout_pending (n : Nat) (x : TrigOut) : (s.setTout n x).pending = s.pending := rfl
@[simp] theorem State.setTout_apb (n : Nat) (x : TrigOut) : (s.setTout n x).apb = s.apb := rfl
@[simp] theorem State.setTout_regq (n : Nat) (x : TrigOut) : (s.setTout n x).regq = s.regq := rfl
@[simp] theorem State.setTout_now (n : Nat) (x : TrigOut) : (s.setTout n x).now = s.now := rfl
@[simp] theorem State.setTout_time (n : Nat) (x : TrigOut) : (s.setTout n x).time = s.time := rfl
@[simp] theorem State.setTout_opt (n : Nat) (x : TrigOut) : (s.setTout n x).opt = s.opt := rfl
@[simp] theorem State.setTout_rst (n : Nat) (x : TrigOut) : (s.setTout n x).rst = s.rst := rfl
@[simp] theorem State.setTout_chans (n : Nat) (x : TrigOut) : (s.setTout n x).chans = s.chans := rfl
@[simp] theorem State.setTout_fns (n : Nat) (x : TrigOut) : (s.setTout n x).fns = s.fns := rfl
@[simp] theorem State.setTout_mailboxes (n : Nat) (x : TrigOut) : (s.setTout n x).mailboxes = s.mailboxes := rfl
@[simp] theorem State.setTout_goOrder (n : Nat) (x : TrigOut) : (s.setTout n x).goOrder = s.goOrder := rfl
@[simp] theorem State.setTout_edges (n : Nat) (x : TrigOut) : (s.setTout n x).edges = s.edges := rfl
@[simp] theorem State.setTout_tap (n : Nat) (x : TrigOut) : (s.setTout n x).tap = s.tap := rfl
@[simp] theorem State.setTout_wrapper (n : Nat) (x : TrigOut) : (s.setTout n x).wrapper = s.wrapper := rfl
@[simp] theorem State.setTout_goTied (n : Nat) (x : TrigOut) : (s.setTout n x).goTied = s.goTied := rfl
@[simp] theorem State.setTout_goCount (n : Nat) (x : TrigOut) : (s.setTout n x).goCount = s.goCount := rfl
@[simp] theorem State.setTout_benches (n : Nat) (x : TrigOut) : (s.setTout n x).benches = s.benches := rfl
@[simp] theorem State.setTout_txns (n : Nat) (x : TrigOut) : (s.setTout n x).txns = s.txns := rfl
@[simp] theorem State.setTout_nextId (n : Nat) (x : TrigOut) : (s.setTout n x).nextId = s.nextId := rfl
@[simp] theorem State.setTout_ports (n : Nat) (x : TrigOut) : (s.setTout n x).ports = s.ports := rfl
@[simp] theorem State.setTout_cru (n : Nat) (x : TrigOut) : (s.setTout n x).cru = s.cru := rfl
@[simp] theorem State.setTout_cul (n : Nat) (x : TrigOut) : (s.setTout n x).cul = s.cul := rfl
@[simp] theorem State.setTout_xez (n : Nat) (x : TrigOut) : (s.setTout n x).xez = s.xez := rfl
@[simp] theorem State.setTout_safety (n : Nat) (x : TrigOut) : (s.setTout n x).safety = s.safety := rfl
@[simp] theorem State.setTout_gaf (n : Nat) (x : TrigOut) : (s.setTout n x).gaf = s.gaf := rfl
@[simp] theorem State.setTout_glob (n : Nat) (x : TrigOut) : (s.setTout n x).glob = s.glob := rfl

/-! ### What an update leaves of the entries of its own table -/

@[simp] theorem State.setChan_chan (p q : Nat) (c : Chan) :
    (s.setChan p c).chan q = if q = p then c else s.chan q := look_put _ _ _ _ _

@[simp] theorem State.modChan_chan (p q : Nat) (g : Chan → Chan) :
    (s.modChan p g).chan q = if q = p then g (s.chan p) else s.chan q := look_put _ _ _ _ _

@[simp] theorem State.setFn_fn (f q : Nat) (x : Fn) : (s.setFn f x).fn q = if q = f then x else s.fn q :=
  look_put _ _ _ _ _

@[simp] theorem State.modFn_fn (f q : Nat) (g : Fn → Fn) :
    (s.modFn f g).fn q = if q = f then g (s.fn f) else s.fn q := look_put _ _ _ _ _

@[simp] theorem State.setPort_port (p q : Nat) (x : Port) : (s.setPort p x).port q = if q = p then x else s.port q :=
  look_put _ _ _ _ _

@[simp] theorem State.modPort_port (p q : Nat) (g : Port → Port) :
    (s.modPort p g).port q = if q = p then g (s.port p) else s.port q := look_put _ _ _ _ _

@[simp] theorem State.setBench_bench (b q : Nat) (x : Bench) :
    (s.setBench b x).bench q = if q = b then x else s.bench q := look_put _ _ _ _ _

@[simp] theorem State.modBench_bench (b q : Nat) (g : Bench → Bench) :
    (s.modBench b g).bench q = if q = b then g (s.bench b) else s.bench q := look_put _ _ _ _ _

@[simp] theorem State.setMailbox_mailbox (m q : Nat) (x : Mailbox) :
    (s.setMailbox m x).mailbox q = if q = m then x else s.mailbox q := look_put _ _ _ _ _

@[simp] theorem State.modMailbox_mailbox (m q : Nat) (g : Mailbox → Mailbox) :
    (s.modMailbox m g).mailbox q = if q = m then g (s.mailbox m) else s.mailbox q := look_put _ _ _ _ _

@[simp] theorem State.setVec_vec (v w : Nat) (x : Vec) : (s.setVec v x).vec w = if w = v then x else s.vec w :=
  look_put _ _ _ _ _

@[simp] theorem State.setTout_tout (n m : Nat) (x : TrigOut) : (s.setTout n x).tout m = if m = n then x else s.tout m :=
  look_put _ _ _ _ _

/-! ### Reads that look at one table only -/

@[simp] theorem State.modChan_fn (p q : Nat) (g : Chan → Chan) : (s.modChan p g).fn q = s.fn q := rfl
@[simp] theorem State.modChan_port (p q : Nat) (g : Chan → Chan) : (s.modChan p g).port q = s.port q := rfl
@[simp] theorem State.modChan_mailbox (p q : Nat) (g : Chan → Chan) : (s.modChan p g).mailbox q = s.mailbox q := rfl
@[simp] theorem State.modFn_chan (p q : Nat) (g : Fn → Fn) : (s.modFn p g).chan q = s.chan q := rfl
@[simp] theorem State.modFn_port (p q : Nat) (g : Fn → Fn) : (s.modFn p g).port q = s.port q := rfl
@[simp] theorem State.modFn_mailbox (p q : Nat) (g : Fn → Fn) : (s.modFn p g).mailbox q = s.mailbox q := rfl
@[simp] theorem State.modPort_chan (p q : Nat) (g : Port → Port) : (s.modPort p g).chan q = s.chan q := rfl
@[simp] theorem State.modPort_fn (p q : Nat) (g : Port → Port) : (s.modPort p g).fn q = s.fn q := rfl
@[simp] theorem State.modPort_mailbox (p q : Nat) (g : Port → Port) : (s.modPort p g).mailbox q = s.mailbox q := rfl
@[simp] theorem State.modMailbox_chan (p q : Nat) (g : Mailbox → Mailbox) : (s.modMailbox p g).chan q = s.chan q := rfl
@[simp] theorem State.modMailbox_fn (p q : Nat) (g : Mailbox → Mailbox) : (s.modMailbox p g).fn q = s.fn q := rfl
@[simp] theorem State.modMailbox_port (p q : Nat) (g : Mailbox → Mailbox) : (s.modMailbox p g).port q = s.port q := rfl

end Sys2Proof.Machine
end

