-- ==== Sys2Proof/Laws/Kept.lean ====
section
/-! SUPPORT. What nearly every operation of the block keeps, said once: the member, the queue, the option shadow, the
pool's geometry, the mapping of channels to slots, the canonical form of every table, and the alarm's rule. -/

set_option Elab.async false

namespace Sys2Proof.Machine

/-- The pool's geometry: what only POOL_MODE INIT and a cold reset change (R217, R238). -/
def Cullet.geometry (c : Cullet) : Nat × Nat × Nat × Nat := (c.poolBase, c.metaBase, c.stackBase, c.count)

/-- The alarm's part of the safety block follows its rule. -/
def Safety.holds (x : Safety) : Prop := (x.cause ≠ 0 → x.asserted = true) ∧ (x.asserted = true → x.alarmP = false)

theorem alarmHolds_iff (s : State) : s.AlarmHolds ↔ s.safety.holds := Iff.rfl

/-- The slot that channel `p` of a table is mapped to. -/
def ownerAt (l : Tbl Chan) (p : Nat) : Option (Nat × Nat) := (look {} l p).owner

/-- The state `t` keeps what `s` has. -/
structure Kept (s t : State) : Prop where
  member : t.member = s.member
  pending : t.pending = s.pending
  edges : t.edges = s.edges
  opt : t.opt = s.opt
  geometry : t.cul.geometry = s.cul.geometry
  owners : ∀ p, ownerAt t.chans p = ownerAt s.chans p
  chans : chansWf s.chans → chansWf t.chans
  fns : fnsWf s.fns → fnsWf t.fns
  mailboxes : mailboxesWf s.mailboxes → mailboxesWf t.mailboxes
  benches : benchesWf s.benches → benchesWf t.benches
  ports : Tbl.wf s.ports = true → Tbl.wf t.ports = true
  ev : eventsWf s.ev → eventsWf t.ev
  cru : crucibleWf s.cru → crucibleWf t.cru
  cul : Tbl.wf s.cul.records = true → Tbl.wf t.cul.records = true
  xez : xezanWf s.xez → xezanWf t.xez
  gaf : gafferWf s.gaf → gafferWf t.gaf
  alarm : s.safety.holds → t.safety.holds

theorem Kept.refl (s : State) : Kept s s := by constructor <;> simp

theorem Kept.trans {s t u : State} (a : Kept s t) (b : Kept t u) : Kept s u where
  member := b.member.trans a.member
  pending := b.pending.trans a.pending
  edges := b.edges.trans a.edges
  opt := b.opt.trans a.opt
  geometry := b.geometry.trans a.geometry
  owners p := (b.owners p).trans (a.owners p)
  chans h := b.chans (a.chans h)
  fns h := b.fns (a.fns h)
  mailboxes h := b.mailboxes (a.mailboxes h)
  benches h := b.benches (a.benches h)
  ports h := b.ports (a.ports h)
  ev h := b.ev (a.ev h)
  cru h := b.cru (a.cru h)
  cul h := b.cul (a.cul h)
  xez h := b.xez (a.xez h)
  gaf h := b.gaf (a.gaf h)
  alarm h := b.alarm (a.alarm h)

theorem Kept.tablesWf {s t : State} (k : Kept s t) (h : s.TablesWf) : t.TablesWf where
  opt := by rw [k.opt]; exact h.opt
  chans := k.chans h.chans
  fns := k.fns h.fns
  mailboxes := k.mailboxes h.mailboxes
  benches := k.benches h.benches
  ports := k.ports h.ports
  ev := k.ev h.ev
  cru := k.cru h.cru
  cul := k.cul h.cul
  xez := k.xez h.xez
  gaf := k.gaf h.gaf

theorem Kept.ownersDistinct {s t : State} (k : Kept s t) (h : s.OwnersDistinct) : t.OwnersDistinct := by
  intro p q f hp hq
  exact h p q f ((k.owners p).symm.trans hp) ((k.owners q).symm.trans hq)

theorem Kept.alarmHolds {s t : State} (k : Kept s t) (h : s.AlarmHolds) : t.AlarmHolds := k.alarm h

/-! ### Updates -/

/-- Any update of a state that keeps its parts, part by part. -/
theorem Kept.mk' {s t : State} (h : Kept s t) {apb regq now time rst chans fns mailboxes goOrder goTied
    goCount ev benches txns nextId
    ports cru cul xez safety gaf glob}
    (hg : cul.geometry = t.cul.geometry := by first | (simp only [Cullet.geometry]; done) | rfl) (ho : ∀ p, ownerAt chans p = ownerAt t.chans p := by exact fun _ => rfl)
    (h1 : chansWf t.chans → chansWf chans := by exact id) (h2 : fnsWf t.fns → fnsWf fns := by exact id)
    (h3 : mailboxesWf t.mailboxes → mailboxesWf mailboxes := by exact id)
    (h4 : benchesWf t.benches → benchesWf benches := by exact id)
    (h5 : Tbl.wf t.ports = true → Tbl.wf ports = true := by exact id)
    (h6 : eventsWf t.ev → eventsWf ev := by first | exact id | (simp +contextual [eventsWf]; done))
    (h7 : crucibleWf t.cru → crucibleWf cru := by first | exact id | (simp +contextual [crucibleWf]; done))
    (h8 : Tbl.wf t.cul.records = true → Tbl.wf cul.records = true := by first | exact id | (simp +contextual; done))
    (h9 : xezanWf t.xez → xezanWf xez := by first | exact id | (simp +contextual [xezanWf]; done))
    (h10 : gafferWf t.gaf → gafferWf gaf := by first | exact id | (simp +contextual [gafferWf, sensorsWf]; done))
    (h11 : t.safety.holds → safety.holds := by first | exact id | (simp +contextual [Safety.holds]; done)) :
    Kept s ⟨t.member, t.pending, t.edges, t.tap, t.wrapper, apb, regq, now, time, t.opt, rst, chans, fns, mailboxes,
      goOrder, goTied, goCount, ev, benches, txns, nextId, ports, cru, cul, xez, safety, gaf, glob⟩ :=
  h.trans ⟨rfl, rfl, rfl, rfl, hg, ho, h1, h2, h3, h4, h5, h6, h7, h8, h9, h10, h11⟩

theorem chansWf_put {l : Tbl Chan} {p : Nat} {c : Chan} (h : chansWf l) (hc : Tbl.wf c.push = true) :
    chansWf (put l p c) := ⟨wf_put _ _ _ h.1, put_all l p c (fun x => Tbl.wf x.push = true) hc h.2⟩

theorem chansWf_look {l : Tbl Chan} (h : chansWf l) (p : Nat) : Tbl.wf (look {} l p : Chan).push = true :=
  look_all {} l (fun x => Tbl.wf x.push = true) p rfl h.2

theorem fnsWf_put {l : Tbl Fn} {p : Nat} {c : Fn} (h : fnsWf l) (hc : fnWf c) : fnsWf (put l p c) :=
  ⟨wf_put _ _ _ h.1, put_all l p c fnWf hc h.2⟩

theorem fnsWf_look {l : Tbl Fn} (h : fnsWf l) (p : Nat) : fnWf (look {} l p) :=
  look_all {} l fnWf p ⟨rfl, rfl, rfl⟩ h.2

theorem mailboxesWf_put {l : Tbl Mailbox} {p : Nat} {c : Mailbox} (h : mailboxesWf l) (hc : Tbl.wf c.data = true) :
    mailboxesWf (put l p c) := ⟨wf_put _ _ _ h.1, put_all l p c (fun x => Tbl.wf x.data = true) hc h.2⟩

theorem mailboxesWf_look {l : Tbl Mailbox} (h : mailboxesWf l) (p : Nat) :
    Tbl.wf (look {} l p : Mailbox).data = true := look_all {} l (fun x => Tbl.wf x.data = true) p rfl h.2

theorem benchesWf_put {l : Tbl Bench} {p : Nat} {c : Bench} (h : benchesWf l) (hc : benchWf c) :
    benchesWf (put l p c) := ⟨wf_put _ _ _ h.1, put_all l p c benchWf hc h.2⟩

theorem benchWf_reset (m : Member) : benchWf (Bench.reset m) := by
  simp [benchWf, schedWf, Bench.reset]

theorem benchesWf_look {l : Tbl Bench} (h : benchesWf l) (m : Member) (p : Nat) : benchWf (look (Bench.reset m) l p) :=
  look_all _ l benchWf p (benchWf_reset m) h.2

theorem ownerAt_put (l : Tbl Chan) (p q : Nat) (c : Chan) :
    ownerAt (put l p c) q = if q = p then c.owner else ownerAt l q := by
  simp only [ownerAt, look_put]; split <;> rfl

theorem Kept.setChan {s t : State} (h : Kept s t) {p : Nat} {c : Chan} (ho : c.owner = (t.chan p).owner := by rfl)
    (hp : Tbl.wf (t.chan p).push = true → Tbl.wf c.push = true := by exact id) : Kept s (t.setChan p c) := by
  refine h.mk' rfl (fun q => ?_) (fun w => chansWf_put w (hp (chansWf_look w p)))
  rw [ownerAt_put]; split
  · subst q; exact ho
  · rfl

theorem Kept.modChan {s t : State} (h : Kept s t) {p : Nat} {g : Chan → Chan}
    (ho : (g (t.chan p)).owner = (t.chan p).owner := by rfl)
    (hp : Tbl.wf (t.chan p).push = true → Tbl.wf (g (t.chan p)).push = true := by exact id) : Kept s (t.modChan p g) :=
  h.setChan ho hp

theorem Kept.setFn {s t : State} (h : Kept s t) {f : Nat} {x : Fn} (hx : fnWf (t.fn f) → fnWf x := by first | exact id | (simp +contextual [fnWf]; done)) :
    Kept s (t.setFn f x) :=
  h.mk' (h2 := fun w => fnsWf_put w (hx (fnsWf_look w f)))

theorem Kept.modFn {s t : State} (h : Kept s t) {f : Nat} {g : Fn → Fn} (hx : fnWf (t.fn f) → fnWf (g (t.fn f)) := by first | exact id | (simp +contextual [fnWf]; done)) :
    Kept s (t.modFn f g) := h.setFn hx

theorem Kept.setPort {s t : State} (h : Kept s t) {p : Nat} {x : Port} : Kept s (t.setPort p x) :=
  h.mk' (h5 := wf_put _ _ _)

theorem Kept.modPort {s t : State} (h : Kept s t) {p : Nat} {g : Port → Port} : Kept s (t.modPort p g) := h.setPort

theorem Kept.setBench {s t : State} (h : Kept s t) {b : Nat} {x : Bench} (hx : benchWf (t.bench b) → benchWf x := by first | exact id | (simp +contextual [benchWf, schedWf]; done)) :
    Kept s (t.setBench b x) :=
  h.mk' (h4 := fun w => benchesWf_put w (hx (benchesWf_look w _ b)))

theorem Kept.modBench {s t : State} (h : Kept s t) {b : Nat} {g : Bench → Bench}
    (hx : benchWf (t.bench b) → benchWf (g (t.bench b)) := by first | exact id | (simp +contextual [benchWf, schedWf]; done)) : Kept s (t.modBench b g) := h.setBench hx

theorem Kept.setMailbox {s t : State} (h : Kept s t) {m : Nat} {x : Mailbox}
    (hx : Tbl.wf (t.mailbox m).data = true → Tbl.wf x.data = true := by first | exact id | (simp +contextual; done)) : Kept s (t.setMailbox m x) :=
  h.mk' (h3 := fun w => mailboxesWf_put w (hx (mailboxesWf_look w m)))

theorem Kept.modMailbox {s t : State} (h : Kept s t) {m : Nat} {g : Mailbox → Mailbox}
    (hx : Tbl.wf (t.mailbox m).data = true → Tbl.wf (g (t.mailbox m)).data = true := by first | exact id | (simp +contextual; done)) : Kept s (t.modMailbox m g) :=
  h.setMailbox hx

theorem Kept.modWork {s t : State} (h : Kept s t) {p n : Nat} {g : Work → Work} : Kept s (t.modWork p n g) :=
  h.modChan rfl id

theorem Kept.reachCclk {s t : State} (h : Kept s t) {n : Nat} : Kept s (t.reachCclk n) :=
  h.mk'

theorem Kept.reachRefclk {s t : State} (h : Kept s t) {n : Nat} : Kept s (t.reachRefclk n) :=
  h.mk'

theorem Kept.post {s t : State} (h : Kept s t) {x : Txn} : Kept s (t.post x) :=
  h.mk'

theorem eventsWf_vecs {e : Events} (h : eventsWf e) (v : Nat) (x : Vec) :
    eventsWf { e with vecs := put e.vecs v x } := ⟨h.1, h.2.1, h.2.2.1, h.2.2.2.1, h.2.2.2.2.1, wf_put _ _ _ h.2.2.2.2.2⟩

theorem Kept.setVec {s t : State} (h : Kept s t) {v : Nat} {x : Vec} : Kept s (t.setVec v x) :=
  h.mk' (h6 := fun w => eventsWf_vecs w v x)

theorem Kept.setTout {s t : State} (h : Kept s t) {n : Nat} {x : TrigOut} : Kept s (t.setTout n x) :=
  h.mk' (h6 := fun w => ⟨w.1, w.2.1, w.2.2.1, wf_put _ _ _ w.2.2.2.1, w.2.2.2.2⟩)

/-- A change of every channel that keeps what each has. -/
theorem Kept.mapChans {s t : State} (h : Kept s t) {g : Nat → Chan → Chan}
    (ho : ∀ p c, (g p c).owner = c.owner) (hp : ∀ p c, (g p c).push = c.push) :
    Kept s { t with chans := t.chans.map fun e => (e.1, g e.1 e.2) } := by
  refine h.mk' rfl (fun q => ?_) (fun w => ⟨wf_map t.chans (fun e => g e.1 e.2) w.1, fun e he => ?_⟩)
  · simp only [ownerAt]
    generalize t.chans = l
    induction l with
    | nil => rfl
    | cons a r ih =>
      simp only [List.map_cons, look_cons]
      split
      · exact ho _ _
      · exact ih
  · obtain ⟨a, ha, rfl⟩ := List.mem_map.1 he
    simpa [hp] using w.2 a ha

/-- A fold of operations that keep. -/
theorem Kept.foldl {α : Type} {s t : State} {f : State → α → State} (l : List α) (h : Kept s t)
    (hf : ∀ u x, Kept s u → Kept s (f u x)) : Kept s (l.foldl f t) := by
  induction l generalizing t with
  | nil => exact h
  | cons a r ih => exact ih (hf t a h)

theorem Kept.ite {s a b : State} {c : Prop} [Decidable c] (ha : Kept s a) (hb : Kept s b) :
    Kept s (if c then a else b) := by split <;> assumption

/-- The outcome is a next state that keeps what `s` has. -/
def Runs (s : State) (o : Host.Outcome State Fault Refusal) : Prop := ∃ t, o = .next t ∧ Kept s t

theorem Kept.runs {s t : State} (h : Kept s t) : Runs s (.next t) := ⟨t, rfl, h⟩

theorem runs_same (s : State) : Runs s (.next s) := (Kept.refl s).runs

theorem Runs.ite {s : State} {a b : Host.Outcome State Fault Refusal} {c : Prop} [Decidable c] (ha : Runs s a)
    (hb : Runs s b) : Runs s (if c then a else b) := by split <;> assumption

end Sys2Proof.Machine
end

