-- ==== Sys2Proof/Laws/KeptFlags.lean ====
section
/-! SUPPORT. Events, signals, vectors, the log, alarm causes and ignored accesses keep what `Kept` names. -/

set_option Elab.async false

namespace Sys2Proof.Machine
variable {s t : State}
theorem Kept.putLog (h : Kept s t) (r : LogRec) : Kept s (t.putLog r) := h.mk'

theorem Kept.setPending (h : Kept s t) (n : Nat) : Kept s (t.setPending n) :=
  ite h.modChan (ite h.modPort (ite h.modFn h.mk'))

theorem Kept.maskVec (h : Kept s t) (v : Nat) (on : Bool) : Kept s (t.maskVec v on) := ite h.setVec h.modFn

theorem Kept.writeVec (h : Kept s t) (v : Nat) : Kept s (t.writeVec v) := h.setVec.post

theorem Kept.decideVec (h : Kept s t) (v : Nat) (f : Bool) : Kept s (t.decideVec v f) := ite (h.writeVec v) h

theorem Kept.raiseVec (h : Kept s t) (v : Nat) : Kept s (t.raiseVec v) := h.setVec.decideVec _ _

theorem Chan.giveSignal_owner (o : Nat) (c : Chan) : (c.giveSignal o).owner = c.owner := by
  unfold Chan.giveSignal; split <;> rfl

theorem Chan.giveSignal_push (o : Nat) (c : Chan) : (c.giveSignal o).push = c.push := by
  unfold Chan.giveSignal; split <;> rfl

theorem Kept.raiseSignal (h : Kept s t) (f k : Nat) : Kept s (t.raiseSignal f k) := by
  unfold State.raiseSignal
  split
  · exact h.mapChans (fun _ c => c.giveSignal_owner _) (fun _ c => c.giveSignal_push _)
  · exact ite h.modFn h.modFn

theorem Kept.takeSignal (h : Kept s t) (f k : Nat) : Kept s (t.takeSignal f k) := h.modFn

theorem Kept.deliver (h : Kept s t) (r : Route) : Kept s (t.deliver r) := by
  cases r with
  | none => exact h
  | int _ => exact h
  | vector v => exact h.raiseVec v
  | trigOut n => exact h.setTout
  | signal f k => exact h.raiseSignal f k

theorem Kept.raise (h : Kept s t) (n : Nat) : Kept s (t.raise n) := (h.setPending n).deliver _

theorem Kept.raiseUp (h : Kept s t) (n : Nat) : Kept s (t.raiseUp n) := ite (h.raise n) h

theorem Kept.log (h : Kept s t) (a b : Nat) (c : List Byte) : Kept s (t.log a b c) :=
  ite (h.putLog _) (ite h.mk' (h.mk'.raise _))

theorem Kept.flushLog (h : Kept s t) : Kept s t.flushLog := by
  have h1 : Kept s (t.gaf.logQueue.foldl (fun t r => t.putLog { r with flags := r.flags + 2 }) t) :=
    h.foldl _ fun u r k => k.putLog _
  exact ite h1.mk' (h1.mk'.putLog _)

theorem Kept.setCause (h : Kept s t) (b : Nat) : Kept s (t.setCause b) := by
  unfold State.setCause
  split
  · rename_i ha
    exact h.mk' (h11 := fun w => ⟨fun _ => ha, w.2⟩)
  · exact ((h.mk' (h11 := fun _ => ⟨fun _ => rfl, fun _ => rfl⟩)).raiseUp _).log _ _ _

theorem Kept.chanCause (h : Kept s t) (p b : Nat) : Kept s (t.chanCause p b) := by
  unfold State.chanCause
  split
  · exact ite (h.setCause b) h
  · exact h

theorem Chan.fire_owner (k n : Nat) (c : Chan) : (c.fire k n).owner = c.owner := by
  unfold Chan.fire; split <;> [split; skip] <;> rfl

theorem Chan.fire_push (k n : Nat) (c : Chan) : (c.fire k n).push = c.push := by
  unfold Chan.fire; split <;> [split; skip] <;> rfl

theorem Kept.fireGate (h : Kept s t) (f k n : Nat) : Kept s (t.fireGate f k n) :=
  h.mapChans (g := fun _ c => if c.owner.map Prod.fst = some f then c.fire k n else c)
    (fun _ c => by split <;> simp [Chan.fire_owner]) (fun _ c => by split <;> simp [Chan.fire_push])

theorem Kept.ignFn (h : Kept s t) (f off kind : Nat) : Kept s (t.ignFn f off kind) := h.modFn.raise _

theorem Kept.ignAdm (h : Kept s t) (a k : Nat) : Kept s (t.ignAdm a k) := h.mk'

theorem Kept.ignore (h : Kept s t) (a k : Nat) : Kept s (t.ignore a k) := ite (h.ignFn _ _ _) (h.ignAdm _ _)
end Sys2Proof.Machine
end

