-- ==== Sys2Proof/Laws/KeptCells.lean ====
section
/-! SUPPORT. The shared operations of the crucible, the stream ports and the Cullet keep what `Kept` names. -/

set_option Elab.async false

namespace Sys2Proof.Machine

variable {s t : State}

theorem Kept.takeLane (h : Kept s t) (b : Nat) (l : Landing) (n : Nat) : Kept s (t.takeLane b l n) := by
  unfold State.takeLane
  split
  · exact h.modBench
  · exact h.modBench
  · exact h.modPort
  · exact h

theorem Kept.freeLane (h : Kept s t) (b : Nat) (l : Landing) (n : Nat) : Kept s (t.freeLane b l n) := by
  unfold State.freeLane
  split
  · exact h.modBench
  · exact h.modBench
  · exact h.modPort
  · exact h

theorem Kept.compareWm (h : Kept s t) (p : Nat) : Kept s (t.compareWm p) :=
  ite h (ite (h.setPort.raise _) (ite (h.setPort.raise _) h))

theorem crucibleWf_ce {c : Crucible} (h : crucibleWf c) (b n : Nat) : crucibleWf { c with ce := put c.ce b n } :=
  ⟨wf_put _ _ _ h.1, h.2⟩

theorem crucibleWf_ue {c : Crucible} (h : crucibleWf c) (b n : Nat) : crucibleWf { c with ue := put c.ue b n } :=
  ⟨h.1, wf_put _ _ _ h.2⟩

theorem Kept.countFault (h : Kept s t) (x : CruFault) : Kept s (t.countFault x) := by
  unfold State.countFault
  refine ite ((h.mk' (h7 := fun w => crucibleWf_ue w _ _)).raise _) (ite ?_ h)
  exact ite ((h.mk' (h7 := fun w => crucibleWf_ce w _ _)).raise _) (h.mk' (h7 := fun w => crucibleWf_ce w _ _))

theorem Kept.countEcc (h : Kept s t) (l : List CruFault) : Kept s (t.countEcc l) :=
  h.foldl _ fun _ x k => k.countFault x

theorem Kept.wrote (h : Kept s t) (a b c d : Nat) : Kept s (t.wrote a b c d) := h.mk'

theorem Kept.trimWork (h : Kept s t) (p : Nat) (w : Work) : Kept s (t.trimWork p w) := by
  unfold State.trimWork
  split
  · exact ite h (ite h.modPort.modWork h.modPort)
  · exact (h.foldl _ fun _ _ k => k.freeLane _ _ _).modWork

theorem Kept.trim (h : Kept s t) : Kept s t.trim :=
  h.foldl _ fun _ _ k => k.foldl _ fun _ _ k => k.trimWork _ _

theorem Kept.dropSpace (h : Kept s t) (p : Nat) (w : Work) : Kept s (t.dropSpace p w) := by
  unfold State.dropSpace
  dsimp only
  split
  · exact (h.foldl _ fun _ _ k => k.freeLane _ _ _).modPort
  · exact h.foldl _ fun _ _ k => k.freeLane _ _ _

theorem Kept.clearFull (h : Kept s t) (s0 : State) : Kept s (s0.clearFull t) := by
  unfold State.clearFull
  exact h.mk' (h5 := wf_map _ _)

theorem Kept.pumpPort (k : Nat) (h : Kept s t) (p : Nat) : Kept s (t.pumpPort k p) := by
  induction k generalizing t with
  | zero => exact h
  | succ k ih =>
    unfold State.pumpPort
    dsimp only
    split
    · exact h
    · split
      · exact h
      · split
        · exact h
        · split
          · exact h
          · exact ih (h.modWork.setPort)

theorem Kept.pump (h : Kept s t) (p : Nat) : Kept s (t.pump p) := h.pumpPort _ p

theorem Kept.killPort (h : Kept s t) (p c : Nat) (w : Work) : Kept s (t.killPort p c w) := h.setPort

/-! ### The Cullet -/

theorem Kept.writeRec (h : Kept s t) (g : Nat) (r : GobRec) : Kept s (t.writeRec g r) :=
  (h.mk' (h8 := wf_put _ _ _)).post

theorem Kept.quotaLow {u : State} (h : Kept s t) : Kept s (quotaLow u t) :=
  h.foldl _ fun _ _ k => ite (k.raise _) k

theorem Kept.takeGob (h : Kept s t) (f : Nat) : Kept s (t.takeGob f).2 := by
  unfold State.takeGob
  dsimp only
  split <;> exact h.modFn.mk'

theorem Kept.spill (h : Kept s t) : Kept s t.spill := (h.mk').post

theorem Kept.pushGob (h : Kept s t) (g : Nat) : Kept s (t.pushGob g) := by
  unfold State.pushGob
  refine ite h ?_
  dsimp only
  have h1 : Kept s (if 16384 ≤ t.cul.onBlock then t.spill else t) := ite h.spill h
  exact h1.mk'

theorem Kept.quarantine (h : Kept s t) (g : Nat) : Kept s (t.quarantine g) := (h.mk'.writeRec _ _).raise _

theorem Kept.memberRead (h : Kept s t) (p n g : Nat) (x : Option (BitVec 128)) : Kept s (t.memberRead p n g x) := by
  unfold State.memberRead
  split
  · exact h
  · split
    · exact ite h.modWork h.modWork
    · exact (h.quarantine g).modWork

theorem Kept.setFreeing (h : Kept s t) (g : Nat) (f : Freeing → Option Freeing) : Kept s (t.setFreeing g f) := h.mk'

theorem Kept.freeMembers (h : Kept s t) (g : Nat) (l : Option (List Nat)) : Kept s (t.freeMembers g l) := by
  unfold State.freeMembers
  dsimp only
  exact (ite (c := t.cul.quarantined.contains g = true) h (h.writeRec g _)).mk'

theorem Kept.freeChain (h : Kept s t) (g : Nat) : Kept s (t.freeChain g) := h.freeMembers _ _

theorem Kept.walkRead (h : Kept s t) (g : Nat) (x : Option (BitVec 128)) : Kept s (t.walkRead g x) := by
  unfold State.walkRead
  split
  · exact h
  · split
    · exact h
    · split
      · exact ite ((h.writeRec _ _).setFreeing _ _) (Kept.setFreeing (ite h (h.quarantine _)) _ _)
      · exact (h.quarantine _).setFreeing _ _

theorem Kept.readRec (h : Kept s t) (x : Purpose) (g q : Nat) : Kept s (t.readRec x g q) := h.post

theorem Kept.workRecs (h : Kept s t) (p : Nat) (w : Work) : Kept s (t.workRecs p w) := by
  unfold State.workRecs
  refine ite h (ite ?_ ?_)
  · exact ite h (h.readRec _ _ _)
  · split
    · exact h
    · exact ite (h.readRec _ _ _) h

theorem Kept.freeRecs (h : Kept s t) (e : Freeing) : Kept s (t.freeRecs e) := by
  unfold State.freeRecs
  split
  · exact h
  · exact ite h (h.readRec _ _ _)

theorem Kept.sweepRecs (k : Nat) (h : Kept s t) : Kept s (t.sweepRecs k) := by
  induction k generalizing t with
  | zero => exact h
  | succ k ih =>
    unfold State.sweepRecs
    exact ite (ih (Kept.post (h.mk'))) h

theorem Kept.culletReads (h : Kept s t) : Kept s t.culletReads :=
  ((h.foldl _ fun _ _ k => k.foldl _ fun _ _ k => k.workRecs _ _).foldl _ fun _ _ k => k.freeRecs _).sweepRecs 64

theorem Kept.endSweep (h : Kept s t) : Kept s t.endSweep := (h.mk').raise _

theorem Kept.startSweep (h : Kept s t) : Kept s t.startSweep := ite (Kept.endSweep (h.mk')) (h.mk')

end Sys2Proof.Machine
end

