-- ==== Sys2Proof/Laws/KeptChannels.lean ====
section
/-! SUPPORT. The shared operations of channels, of the freshness guard and of the bench schedulers keep what `Kept`
names. -/

set_option Elab.async false

namespace Sys2Proof.Machine

variable {s t : State}

theorem Kept.kickIndex (h : Kept s t) (p : Nat) : Kept s (t.kickIndex p) := ite h.setChan.post h

theorem Kept.addReport (h : Kept s t) (p : Nat) (r : Report) (b : Bool) : Kept s (t.addReport p r b) :=
  ite h.setChan (h.setChan.kickIndex p)

theorem Kept.flushIndex (h : Kept s t) (p : Nat) (r : Report) : Kept s (t.flushIndex p r) :=
  ite (h.modChan.kickIndex p) h

theorem Kept.startWatch (h : Kept s t) (p : Nat) : Kept s (t.startWatch p) := ite h.modChan h

theorem Kept.touchWatch (h : Kept s t) (p : Nat) : Kept s (t.touchWatch p) := h.modChan

theorem Kept.freeTxn (h : Kept s t) (x : Txn) : Kept s (t.freeTxn x) := by
  unfold State.freeTxn
  split <;> first | exact h.freeLane _ _ _ | exact h

theorem Kept.dropWhere (h : Kept s t) (m : Txn → Bool) : Kept s (t.dropWhere m) :=
  (h.foldl _ fun _ _ k => k.freeTxn _).mk'

theorem Kept.dropTxns (h : Kept s t) (p n : Nat) : Kept s (t.dropTxns p n) := h.dropWhere _

theorem Kept.dropFetch (h : Kept s t) (p : Nat) : Kept s (t.dropFetch p) := h.dropWhere _

theorem Kept.freeReq (h : Kept s t) (q : XReq) : Kept s (t.freeReq q) := h.freeLane _ _ _

theorem Kept.abandonReqs (h : Kept s t) (m : XReq → Bool) : Kept s (t.abandonReqs m) :=
  (h.foldl _ fun _ _ k => k.freeReq _).mk'

theorem Kept.dropReqs (h : Kept s t) (p n : Nat) : Kept s (t.dropReqs p n) := h.abandonReqs _

theorem Kept.dropChain (h : Kept s t) (w : Work) : Kept s (t.dropChain w) := by
  unfold State.dropChain
  split <;> first | exact h | (split <;> first | exact h | exact h.freeMembers _ _)

theorem Kept.leaveQueue (h : Kept s t) (p : Nat) (w : Work) : Kept s (t.leaveQueue p w) := ite h.modPort h

theorem Kept.cutWork (h : Kept s t) (p : Nat) (w : Work) : Kept s (t.cutWork p w) := by
  have h2 := (h.dropTxns p w.serial).leaveQueue p w
  exact ((ite ((h2.killPort _ _ _).pump _) h2).dropChain w).modWork

theorem Kept.abandonWork (h : Kept s t) (p : Nat) (r : Bool) (w : Work) : Kept s (t.abandonWork p r w) :=
  (ite ((h.cutWork p w).dropReqs p _) (h.cutWork p w)).modWork

theorem Kept.failWork (h : Kept s t) (p n : Nat) (st : Status) : Kept s (t.failWork p n st) := by
  unfold State.failWork
  dsimp only
  split
  · exact h
  · rename_i w _
    split
    · exact h
    · refine Kept.raise (Kept.modChan (Kept.foldl _ ?_ fun u x k => k.abandonWork p true x)) _
      exact ((h.modWork (p := p) (n := n) (g := fun x => { x with verdict := some st })).cutWork p w).dropReqs p n

theorem Kept.failPoint (h : Kept s t) (p : Nat) (x : HaltPoint) : Kept s (t.failPoint p x) :=
  ite h (h.modChan.raise _)

theorem Kept.dropEntries (h : Kept s t) (p : Nat) : Kept s (t.dropEntries p) :=
  (h.dropFetch p).modChan

theorem Kept.clearWork (h : Kept s t) (p : Nat) : Kept s (t.clearWork p) := by
  unfold State.clearWork
  dsimp only
  exact Kept.modChan (h.foldl _ fun u w k => k.dropSpace p w)

theorem Kept.finishAbort (h : Kept s t) (p : Nat) : Kept s (t.finishAbort p) := by
  unfold State.finishAbort
  dsimp only
  split
  · refine Kept.raise (Kept.flushIndex (Kept.modChan (h.dropEntries p) ?_ ?_) p _) _ <;> split <;>
      first | rfl | exact id
  · have h3 : ∀ g : Chan → Chan, (∀ x, (g x).owner = x.owner) → (∀ x, (g x).push = x.push) →
        ∀ g' : Chan → Chan, (∀ x, (g' x).owner = x.owner) → (∀ x, (g' x).push = x.push) →
        Kept s ((((t.clearWork p).modChan p g).dropEntries p).modChan p g') := by
      intro g hg hg' g' ho ho'
      exact (((h.clearWork p).modChan (hg _) (by rw [hg']; exact id)).dropEntries p).modChan (ho _) (by rw [ho']; exact id)
    split
    · refine Kept.addReport (h3 _ ?_ ?_ _ ?_ ?_) _ _ _ <;> intro x <;> (try split) <;> rfl
    · refine Kept.raise (h3 _ ?_ ?_ _ ?_ ?_) _ <;> intro x <;> (try split) <;> rfl

theorem Kept.abandonAll (h : Kept s t) (p : Nat) (b : Bool) (l : List Work) :
    Kept s (l.foldl (fun t x => t.abandonWork p b x) t) := h.foldl _ fun _ x k => k.abandonWork p b x

theorem Kept.startAbort (h : Kept s t) (p : Nat) (b : Bool) : Kept s (t.startAbort p b) := by
  unfold State.startAbort
  dsimp only
  split
  · exact (Kept.dropFetch h.modChan p).finishAbort p
  · exact (((Kept.dropFetch h.modChan p).abandonAll p false _).cutWork p _).modWork

theorem Kept.haltChan (h : Kept s t) (p : Nat) : Kept s (t.haltChan p) := by
  unfold State.haltChan
  dsimp only
  split
  · exact h
  · split
    · exact (h.raise _).startAbort p _
    · exact (h.raise _).startAbort p _
    · exact (h.raise _).modChan
    · exact h

theorem Kept.forgetPoint (h : Kept s t) (p : Nat) : Kept s (t.forgetPoint p) := ite h.modChan h

theorem Kept.malformed (h : Kept s t) (p i c : Nat) (o : BitVec 8) : Kept s (t.malformed p i c o) :=
  ((h.modFn.forgetPoint p).foldl _ fun _ _ k => k.haltChan _).raise _

theorem Kept.haltEdge (h : Kept s t) (p : Nat) : Kept s (t.haltEdge p) := by
  unfold State.haltEdge
  dsimp only
  have h1 := (h.clearWork p).dropEntries p
  split
  · split
    · exact h1.modChan
    · exact h1.modChan.addReport _ _ _
  · split
    · exact h
    · split
      · exact h1.modChan.addReport _ _ _
      · split
        · exact h1.modChan
        · exact h1.modChan.flushIndex p _

/-! ### The guard -/

theorem Kept.staleEdge (h : Kept s t) (p : Nat) (w : Work) : Kept s (t.staleEdge p w) := by
  unfold State.staleEdge
  dsimp only
  split
  · exact h
  · exact (((h.modChan.modWork.failWork p _ _).raise _).chanCause p _).raise _

theorem Kept.ctxLost (h : Kept s t) (p : Nat) : Kept s (t.ctxLost p) := by
  unfold State.ctxLost
  refine Kept.chanCause ?_ p _
  split
  · exact h.failWork p _ _
  · exact ite (h.failPoint p _) h

theorem Kept.ctxFault (h : Kept s t) (f : CtxFault) : Kept s (t.ctxFault f) := by
  unfold State.ctxFault
  refine ite (Kept.raise ?_ _) (((h.mk').raise _).raise _)
  split
  · exact Kept.foldl _ (h.mk') fun _ _ k => k.ctxLost _
  · exact Kept.foldl _ (h.mk') fun _ _ k => k.ctxLost _
  · exact Kept.setCause (Kept.modPort (h.mk')) _
  · exact Kept.setCause (h.mk') _

theorem Kept.ctxFaults (h : Kept s t) (l : List CtxFault) : Kept s (t.ctxFaults l) := h.foldl _ fun _ _ k => k.ctxFault _

/-! ### The schedulers -/

theorem Kept.decodeEntry (h : Kept s t) (p n : Nat) : Kept s (t.decodeEntry p n) := by
  unfold State.decodeEntry
  dsimp only
  split
  · exact h
  · split
    · exact h
    · split
      · exact h
      · split
        · exact h
        · exact ite h.modWork (h.failWork p n _)

theorem Kept.claimPort (h : Kept s t) (p n : Nat) : Kept s (t.claimPort p n) := by
  unfold State.claimPort
  split
  · exact h
  · exact ite h h.modPort

theorem Kept.markLast (h : Kept s t) (w : Work) : Kept s (t.markLast w) := by
  unfold State.markLast
  split
  · exact h
  · exact h.writeRec _ _

theorem Kept.formBid (h : Kept s t) (p : Nat) (b : Bid) : Kept s (t.formBid p b) := by
  have h1 := (h.takeLane (benchOf p) b.txn.landing b.txn.space).post
    (x := { b.txn with cell := t.nextCell (benchOf p) b.txn.landing })
  unfold State.formBid
  dsimp only
  split
  · exact h1.modChan
  · exact h1.modWork
  · exact (h1.modWork.claimPort p _).decodeEntry p _
  · split
    · split
      · exact h1.modWork.modWork
      · exact ite (h1.modWork.modWork.failWork p _ _)
          (ite (h1.modWork.modWork.markLast _) (h1.modWork.modWork.decodeEntry p _))
    · exact h1
  · exact h1.modWork

theorem Kept.addrFault (h : Kept s t) (p : Nat) (a : Ask) : Kept s (t.addrFault p a) := by
  refine Kept.raise (Kept.chanCause ?_ p _) _
  split
  · exact h.mk'.failPoint p _
  all_goals exact h.mk'.failWork p _ _

theorem Kept.eccFault (h : Kept s t) (p n : Nat) : Kept s (t.eccFault p n) := (h.failWork p n _).chanCause p _

theorem Kept.issueBid (h : Kept s t) (p : Nat) (b : Bid) (f : Bool) (l : List CruFault) :
    Kept s (t.issueBid p b f l) := by
  unfold State.issueBid
  dsimp only
  split
  · rename_i n _
    have h2 := ite (c := eccUe l = true) ((h.countEcc l).eccFault p n) (h.countEcc l)
    exact ite (h2.addrFault p _) (ite h2 (h2.formBid p b))
  · exact ite (h.addrFault p _) (h.formBid p b)

/-- A class table whose keys rise and whose turn tables are canonical. -/
def classesWf (l : Tbl ClassState) : Prop := Tbl.wf l = true ∧ ∀ e ∈ l, Tbl.wf e.2.left = true

theorem classesWf_put {l : Tbl ClassState} {k : Nat} {c : ClassState} (h : classesWf l)
    (hc : Tbl.wf c.left = true) : classesWf (put l k c) :=
  ⟨wf_put _ _ _ h.1, put_all l k c (fun x => Tbl.wf x.left = true) hc h.2⟩

theorem classesWf_look {l : Tbl ClassState} (h : classesWf l) (k : Nat) :
    Tbl.wf (look {} l k : ClassState).left = true := look_all {} l (fun x => Tbl.wf x.left = true) k rfl h.2

theorem classesWf_foldl {f : Tbl ClassState → Nat → Tbl ClassState} (r : List Nat) {l : Tbl ClassState}
    (h : classesWf l) (hf : ∀ u j, classesWf u → classesWf (f u j)) : classesWf (r.foldl f l) := by
  induction r generalizing l with
  | nil => exact h
  | cons a r ih => exact ih (hf l a h)

theorem schedWf_account {x : Sched} (h : schedWf x) (k n : Nat) {c : ClassState} (hc : Tbl.wf c.left = true) :
    schedWf (x.account k n c) := by
  have h1 := classesWf_put (k := k) (c := { c with count := c.count + n })
    (classesWf_foldl (List.range 4) (f := fun t j => put t j { x.cl j with inTurn := false }) (show classesWf x.cls from h)
      fun u j hu => classesWf_put hu (classesWf_look h j)) hc
  show classesWf _
  unfold Sched.account
  dsimp only
  split
  · exact classesWf_foldl _ h1 fun u j hu => classesWf_put hu (classesWf_look hu j)
  · exact h1

theorem weights_wf (s : State) (b : Nat) : Tbl.wf (s.weights b) = true := by simp [State.weights, Tbl.wf, List.range_succ]

theorem turnsLeft_wf {b : Nat} {x : ClassState} (h : Tbl.wf x.left = true) : Tbl.wf (s.turnsLeft b x) = true := by
  unfold State.turnsLeft; split <;> [exact weights_wf s b; exact h]

theorem turn_left {b : Nat} {x c : ClassState} {l : List Nat} {i : Nat} (h : Tbl.wf x.left = true)
    (e : s.turn b x l = some (i, c)) : Tbl.wf c.left = true := by
  unfold State.turn at e
  split at e
  · cases e; exact h
  · split at e
    · cases e; exact wf_put _ _ _ (turnsLeft_wf h)
    · obtain ⟨a, -, e⟩ := Option.map_eq_some_iff.1 e
      cases e; exact wf_put _ _ _ (weights_wf s b)

theorem Kept.account (h : Kept s t) {b : Nat} {d : Dir} {k n i : Nat} {l : List Nat} {c : ClassState}
    (e : t.turn b (((t.bench b).sched d).cl k) l = some (i, c)) :
    Kept s (t.modBench b fun q => q.setSched d (((t.bench b).sched d).account k n c)) := by
  refine h.modBench fun w => ?_
  have hd : schedWf ((t.bench b).sched d) := by cases d; exacts [w.1, w.2]
  have := schedWf_account hd k n (turn_left (classesWf_look hd k) e)
  cases d
  · exact ⟨this, w.2⟩
  · exact ⟨w.1, this⟩

/-! ### What follows at every edge -/

theorem atEdge_wf {c : ClassState} (h : Tbl.wf c.left = true) (l : List Nat) : Tbl.wf (c.atEdge l).left = true := by
  unfold ClassState.atEdge
  dsimp only
  split <;> [exact h; rfl]

theorem classesWf_map {l : Tbl ClassState} (h : classesWf l) (g : Nat → List Nat) :
    classesWf (l.map fun e => (e.1, e.2.atEdge (g e.1))) := by
  refine ⟨wf_map _ _ h.1, fun e he => ?_⟩
  obtain ⟨a, ha, rfl⟩ := List.mem_map.1 he
  exact atEdge_wf (h.2 a ha) _

theorem Kept.endTurns (h : Kept s t) : Kept s t.endTurns := by
  unfold State.endTurns
  refine h.mk' (h4 := fun w => ⟨wf_map _ _ w.1, fun e he => ?_⟩)
  obtain ⟨a, ha, rfl⟩ := List.mem_map.1 he
  exact ⟨classesWf_map (w.2 a ha).1 fun k => (List.range 16).filter fun i =>
      (t.bids (16 * a.1 + i) .read).any fun q => q.cls == k,
    classesWf_map (w.2 a ha).2 fun k => (List.range 16).filter fun i =>
      (t.bids (16 * a.1 + i) .write).any fun q => q.cls == k⟩

theorem Kept.startWatches (h : Kept s t) : Kept s t.startWatches := by
  unfold State.startWatches
  exact h.mapChans (g := fun n c => { c with watch := if t.watchRuns n then c.watch.or (some t.now.refclk) else none })
    (fun _ _ => rfl) (fun _ _ => rfl)

theorem Kept.markDrained (h : Kept s t) : Kept s t.markDrained := by
  unfold State.markDrained
  refine h.mk' (h2 := fun w => ⟨wf_map _ _ w.1, fun e he => ?_⟩)
  obtain ⟨a, ha, rfl⟩ := List.mem_map.1 he
  exact w.2 a ha

theorem Kept.endPins (h : Kept s t) : Kept s t.endPins := by
  unfold State.endPins
  exact h.mapChans (g := fun n c => { c with started := c.started.map fun w =>
      { w with pinned := w.pinned && !t.pinOver n w (w.chain != .unresolved && w.readsDone t.cul.poolBase) } })
    (fun _ _ => rfl) (fun _ _ => rfl)

theorem Kept.settle (h : Kept s t) (s0 : State) : Kept s (s0.settle t) := by
  unfold State.settle
  dsimp only
  have h1 := h.trim.culletReads.endPins.clearFull s0
  have h2 := h1.foldl ((s0.clearFull t.trim.culletReads.endPins).ports.map Prod.fst) fun u p k => k.compareWm p
  exact ite h2.startWatches.endTurns.quotaLow.markDrained h

/-- A settled outcome keeps what the outcome keeps. -/
theorem Runs.settled {s s0 : State} {o : Host.Outcome State Fault Refusal} (h : Runs s o) : Runs s (settled s0 o) := by
  obtain ⟨t, rfl, k⟩ := h
  exact ⟨_, rfl, k.settle s0⟩

end Sys2Proof.Machine
end

