-- ==== Sys2Proof/Laws/KeptBus.lean ====
section
/-! SUPPORT. The rows of the bench, the memory side, the rings and completion answer a next state that keeps what `Kept`
names. -/

set_option Elab.async false

namespace Sys2Proof.Machine

variable {s t : State}

/-! ### The bench -/

theorem schedulerGrant_runs (b : Nat) (d : Dir) (pick : Nat) (f : Bool) (x : Faulty) :
    Runs s (execSchedulerGrant b d pick f x s) := by
  unfold execSchedulerGrant
  dsimp only
  split
  · exact runs_same s
  · split
    · exact runs_same s
    · split
      · exact runs_same s
      · rename_i h
        split
        · exact runs_same s
        · exact (((((Kept.refl s).account h).issueBid _ _ _ _).ctxFaults _).settle _).runs

theorem addressStateScan_runs (b : Nat) (m : Bool) : Runs s (execAddressStateScan b m s) := by
  unfold execAddressStateScan
  dsimp only
  split
  · exact runs_same s
  · have h1 := (Kept.refl s).modBench (b := b) (g := fun q => { q with scan := ((s.bench b).scan + 1) % 16 })
    split
    · exact h1.runs
    · refine (((Kept.chanCause ?_ _ _).raise _).settle _).runs
      split
      · exact (h1.mk').failWork _ _ _
      · split
        · exact (h1.mk').failPoint _ _
        · exact h1.mk'

/-! ### The memory side -/

theorem Kept.setTxn (h : Kept s t) (n : Nat) (g : Txn → Txn) : Kept s (t.setTxn n g) := h.mk'

theorem Kept.delTxn (h : Kept s t) (n : Nat) : Kept s (t.delTxn n) := h.mk'

theorem Kept.modJob (h : Kept s t) (j : Nat) (g : XJob → XJob) : Kept s (t.modJob j g) := h.mk'

theorem Kept.quarantineAll (h : Kept s t) (l : List Nat) : Kept s (l.foldl State.quarantine t) :=
  h.foldl l fun _ x k => k.quarantine x

theorem Kept.busFail (h : Kept s t) (x : Txn) : Kept s (t.busFail x) := by
  unfold State.busFail
  dsimp only
  split
  · exact h.failPoint _ _
  · exact h.failWork _ _ _
  · exact h.failWork _ _ _
  · exact h.failWork _ _ _
  · exact h.failWork _ _ _
  · exact ((h.modChan.abandonAll _ true _).modChan).raise _
  · exact (h.setVec.maskVec _ _).raise _
  · split
    · exact (h.failWork _ _ _).quarantine _
    · exact ite h (h.quarantine _)
  · exact h.quarantineAll _
  · exact h.quarantineAll _
  · exact h.modWork
  · exact h.memberRead _ _ _ _
  · exact h.walkRead _ _
  · exact h.mk'
  · exact Kept.quarantine (h.mk') _
  · exact h.modJob _ _
  · exact h.modJob _ _
  · exact h

theorem Kept.addrFailed (h : Kept s t) (x : Txn) : Kept s (t.addrFailed x) := by
  unfold State.addrFailed
  dsimp only
  refine Kept.raise (Kept.busFail (Kept.freeTxn (Kept.delTxn ?_ _) _) _) _
  split
  · exact Kept.chanCause (h.mk') _ _
  · exact Kept.setCause (h.mk') _

theorem addressHandshake_runs (p : Nat) (d : Handshake) : Runs s (execAddressHandshake p d s) := by
  refine Runs.settled ?_
  split
  · split
    · exact runs_same s
    · exact Runs.ite ((Kept.refl s).addrFailed _).runs ((Kept.refl s).mk').runs
  · exact runs_same s

theorem Kept.countExhausted (h : Kept s t) (x : Txn) : Kept s (t.countExhausted x) := by
  unfold State.countExhausted
  split <;> first | exact h.modChan | exact h.mk'

theorem Kept.countReheat (h : Kept s t) (x : Txn) : Kept s (t.countReheat x) := by
  unfold State.countReheat
  split <;> first | exact h.modChan | exact h.mk'

theorem Kept.burstFailed (h : Kept s t) (x : Txn) : Kept s (t.burstFailed x) :=
  ite ((h.delTxn _).freeTxn _) (ite (h.setTxn _ _) ((((h.delTxn _).freeTxn _).countExhausted _).busFail _))

theorem reheat_runs (n : Nat) : Runs s (execReheat n s) := by
  refine Runs.settled ?_
  split
  · exact runs_same s
  · split
    · refine Runs.ite ?_ (runs_same s)
      exact (((Kept.refl s).reachCclk.countReheat _).mk').runs
    · exact runs_same s

theorem Kept.recovered (h : Kept s t) (x : Txn) : Kept s (t.recovered x) := ite (h.raise _) h

theorem Kept.land (h : Kept s t) (p n : Nat) (l : Landing) (k c v : Nat) (b : List Byte) :
    Kept s (t.land p n l k c v b) := by
  unfold State.land
  split
  · exact h.freeLane _ _ _
  · exact ((h.freeLane _ _ _).wrote _ _ _ _).modWork

theorem Kept.pumpRead (h : Kept s t) (q : Nat) (l : List CruFault) : Kept s (t.pumpRead q l) := by
  unfold State.pumpRead
  split
  · exact h
  · refine ite h ?_
    split
    · exact h
    · exact ite ((h.countEcc _).eccFault _ _) ((h.countEcc _).pump _)

theorem Kept.readDone (h : Kept s t) (x : Txn) (l : List CruFault) : Kept s (t.readDone x l) := by
  unfold State.readDone
  dsimp only
  split
  · refine ite (Kept.eccFault ?_ _ _) (Kept.decodeEntry ?_ _ _) <;>
      exact (((h.wrote _ _ _ _).freeTxn _).modWork).countEcc l
  · split
    · exact (h.land _ _ _ _ _ _ _).pumpRead _ _
    · exact h.land _ _ _ _ _ _ _
  · exact h.mk'
  · exact h.modWork
  · exact h.memberRead _ _ _ _
  · exact h.walkRead _ _
  · exact h.mk'
  · exact h.mk'
  · exact h.modJob _ _
  · exact h

theorem Kept.touchTxn (h : Kept s t) (x : Txn) : Kept s (t.touchTxn x) := by
  unfold State.touchTxn
  split
  · exact h.touchWatch _
  · exact h

theorem readResponse_runs (p : Nat) (a : BitVec 8) (d : ReadBeat) (r : Resp) :
    Runs s (execReadResponse p a d r s) := by
  refine Runs.settled ?_
  have h := Kept.refl s
  split
  · exact runs_same s
  · exact Runs.ite (runs_same s) (Runs.ite ((h.setTxn _ _).touchTxn _).runs (Runs.ite (h.delTxn _).runs
      (Runs.ite ((h.burstFailed _).touchTxn _).runs (Runs.ite (((h.delTxn _).freeTxn _).touchTxn _).runs
        (((((h.delTxn _).recovered _).readDone _ _).touchTxn _).ctxFaults _).runs))))

theorem Kept.halfCheck (h : Kept s t) (p n : Nat) : Kept s (t.halfCheck p n) := by
  unfold State.halfCheck
  split
  · exact h
  · exact ite (h.modWork.raise _) h

theorem Kept.expectCheck (h : Kept s t) (p n : Nat) : Kept s (t.expectCheck p n) := by
  unfold State.expectCheck
  split
  · exact h
  · exact ite (h.modWork.failWork _ _ _) h

theorem Kept.deliverBits (h : Kept s t) (p n a b : Nat) : Kept s (t.deliverBits p n a b) := by
  unfold State.deliverBits
  split
  · exact h
  · exact ite h ((h.modWork.halfCheck _ _).expectCheck _ _)

theorem Kept.writeDone (h : Kept s t) (x : Txn) : Kept s (t.writeDone x) := by
  unfold State.writeDone
  split
  · exact h.deliverBits _ _ _ _
  · exact h.modWork
  · exact h.setVec.decideVec _ _
  · split
    · exact h.modWork
    · exact h
  · exact h

theorem writeResponse_runs (p : Nat) (a : BitVec 8) (r : Resp) : Runs s (execWriteResponse p a r s) := by
  refine Runs.settled ?_
  have h := Kept.refl s
  split
  · exact runs_same s
  · exact Runs.ite (runs_same s) (Runs.ite (h.delTxn _).runs (Runs.ite ((h.delTxn _).touchTxn _).runs
      (Runs.ite ((h.burstFailed _).touchTxn _).runs ((((h.delTxn _).recovered _).writeDone _).touchTxn _).runs)))

theorem fetchResult_runs (p : Nat) (l : List MemBeat) (r : Resp) : Runs s (execFetchResult p l r s) := by
  refine Runs.settled ?_
  have h := Kept.refl s
  split
  · exact runs_same s
  · refine Runs.ite (runs_same s) (Runs.ite (h.delTxn _).runs (Runs.ite ((h.burstFailed _).touchTxn _).runs
      (Runs.ite (((h.delTxn _).freeTxn _).touchTxn _).runs ?_)))
    exact (Kept.ite (((((h.delTxn _).freeTxn _).recovered _).touchTxn _).modChan.raise _)
      ((((h.delTxn _).freeTxn _).recovered _).touchTxn _).modChan).runs

theorem reReadReady_runs (p : Nat) : Runs s (execReReadReady p s) := by
  refine Runs.settled ?_
  split
  · exact runs_same s
  · exact (Kept.refl s).reachCclk.modChan.runs

theorem segmentCheck_runs (p i n : Nat) (a b : W32) : Runs s (execSegmentCheck p i n a b s) := by
  refine Runs.settled ?_
  split
  · exact runs_same s
  · refine Runs.ite (Runs.ite (Kept.refl s).modWork.runs ?_) (runs_same s)
    exact (((Kept.failWork (Kept.mk' (Kept.refl s).modWork) _ _ _).chanCause _ _).raise _).runs

theorem stallWatchdogFire_runs (p : Nat) : Runs s (execStallWatchdogFire p s) := by
  refine Runs.settled ?_
  split
  · exact runs_same s
  · rename_i n _
    have h := ((Kept.refl s).reachRefclk (n := n + s.safety.stallLimit)).dropWhere fun x => x.purpose.pch? == some p
    refine (((Kept.raise (Kept.modChan ?_) _).chanCause _ _).raise _).runs
    split
    · exact (h.mk').failWork _ _ _
    · exact Kept.ite ((h.mk').failPoint _ _) h.mk'

/-! ### Rings -/

theorem Kept.ringDoorbell (h : Kept s t) (p v : Nat) : Kept s (t.ringDoorbell p v) := h.modChan

theorem Kept.pushCommit (h : Kept s t) (p v n : Nat) : Kept s (t.pushCommit p v n) := by
  unfold State.pushCommit
  dsimp only
  refine (h.ringDoorbell p v).modChan ?_ ?_ <;> split <;> first | rfl | exact id

theorem Kept.takeCredit (h : Kept s t) (p : Nat) : Kept s (t.takeCredit p).2 := by
  unfold State.takeCredit
  dsimp only
  split
  · exact h
  · split
    · dsimp only
      exact h.modChan
    · split
      · split
        · dsimp only
          exact (h.takeSignal _ _).modChan
        · split
          · exact h
          · dsimp only
            exact h.modChan.mk'
      · exact h

theorem Kept.givePacket (h : Kept s t) (p n : Nat) (k : Packet) : Kept s (t.givePacket p n k) := by
  unfold State.givePacket
  dsimp only
  split
  · exact h
  · refine ite (ite (Kept.failWork ?_ _ _ _) (Kept.modWork ?_)) (ite (Kept.failWork ?_ _ _ _) ?_) <;>
      exact ite h.modWork.modPort h.modWork

theorem Kept.wantPacket (h : Kept s t) (p n q : Nat) : Kept s (t.wantPacket p n q) := by
  unfold State.wantPacket
  split
  · exact h.modPort.givePacket _ _ _
  · exact h.modPort

theorem Kept.beginResolve (h : Kept s t) (p : Nat) (w : Work) : Kept s (t.beginResolve p w) := h.modWork

theorem Kept.beginWork (h : Kept s t) (p : Nat) (w : Work) : Kept s (t.beginWork p w) := by
  unfold State.beginWork
  dsimp only
  split
  · exact ite (((h.modWork.mk').takeSignal _ _).modWork) h.modWork.mk'
  · exact h.wantPacket _ _ _
  · exact h.wantPacket _ _ _
  · split
    · exact h.failWork _ _ _
    · exact ite (h.modWork.beginResolve _ _) h.modWork
  · split
    · exact h.failWork _ _ _
    · exact ite (h.modWork.beginResolve _ _) h.modWork
  · exact h.beginResolve _ _
  · exact ite (h.beginResolve _ _) h

theorem Kept.startWork (h : Kept s t) (p i : Nat) (d : Desc) (b : Bool) (l : List CtxFault) :
    Kept s (t.startWork p i d b l) := by
  unfold State.startWork
  dsimp only
  refine ite (Kept.beginWork (ite (Kept.staleEdge ?_ _ _) ?_) _ _) (ite (Kept.staleEdge ?_ _ _) ?_) <;>
    exact Kept.ctxFaults (Kept.mk' h.modChan) l

theorem descriptorStart_runs (p : Nat) (l : List CtxFault) : Runs s (execDescriptorStart p l s) := by
  refine Runs.settled ?_
  split
  · exact runs_same s
  · have h := (Kept.refl s).takeCredit p
    split
    · rename_i e; rw [e] at h; exact h.runs
    · rename_i e; rw [e] at h
      dsimp only
      split
      · exact (h.modChan.malformed _ _ _ _).runs
      · exact (h.modChan.startWork _ _ _ _ _).runs

theorem Kept.passBegin (h : Kept s t) (p : Nat) : Kept s (t.passBegin p) := h.modChan.startWork _ _ _ _ _

theorem passStart_runs (p : Nat) : Runs s (execPassStart p s) := by
  refine Runs.settled ?_
  dsimp only
  split
  · exact runs_same s
  · have h := (Kept.refl s).takeCredit p
    split
    · rename_i e; rw [e] at h; exact h.runs
    · rename_i e; rw [e] at h
      exact Runs.ite ((h.modChan.ignFn _ _ _).raise _).runs (h.passBegin _).runs

theorem Kept.goPass (h : Kept s t) {u : State} {p : Nat} {c : Bool} (e : t.goPass p c = some u) : Kept s u := by
  unfold State.goPass at e
  dsimp only at e
  split at e
  · split at e
    · cases e
    · cases e; exact ((h.modChan.takeCredit p)).passBegin p
  · cases e; exact h.modChan.takeCredit p

/-! ### Completion -/

theorem Kept.retireHead (h : Kept s t) (p : Nat) (w : Work) : Kept s (t.retireHead p w) := (h.dropSpace p w).modChan

theorem Kept.completeHead (h : Kept s t) (p : Nat) (w : Work) : Kept s (t.completeHead p w) :=
  (ite ((h.retireHead p w).modChan.raiseSignal _ _) (h.retireHead p w).modChan).addReport _ _ _

theorem descriptorComplete_runs (p : Nat) : Runs s (execDescriptorComplete p s) := by
  refine Runs.settled ?_
  have h := Kept.refl s
  split
  · exact runs_same s
  · exact Runs.ite (runs_same s) (Runs.ite (Kept.ite (h.staleEdge _ _) (h.failWork _ _ _)).runs (Runs.ite (Kept.ite (h.staleEdge _ _)
      (h.completeHead _ _)).runs (runs_same s)))

theorem passComplete_runs (p : Nat) : Runs s (execPassComplete p s) := by
  refine Runs.settled ?_
  split
  · exact runs_same s
  · refine Runs.ite (Kept.runs ?_) (runs_same s)
    refine Kept.raise (((Kept.refl s).retireHead p _).modChan ?_ ?_) _ <;> (repeat' split) <;> first | rfl | exact id

theorem staleEdge_runs (p : Nat) : Runs s (execStaleEdge p s) := by
  refine Runs.settled ?_
  split
  · exact runs_same s
  · exact ((Kept.refl s).staleEdge _ _).runs

theorem coalTimeExpiry_runs (p : Nat) : Runs s (execCoalTimeExpiry p s) := by
  unfold execCoalTimeExpiry
  split
  · exact runs_same s
  · exact ((Kept.refl s).reachCclk.modChan.kickIndex _).runs

theorem fnWf_rings {x : Fn} (h : fnWf x) (r : Nat) (c : CplRing) : fnWf { x with rings := put x.rings r c } :=
  ⟨h.1, wf_put _ _ _ h.2.1, h.2.2⟩

theorem Kept.modRing (h : Kept s t) (f r : Nat) (g : CplRing → CplRing) : Kept s (t.modRing f r g) :=
  h.modFn fun w => fnWf_rings w _ _

theorem Kept.waitRecord (h : Kept s t) (p f r : Nat) : Kept s (t.waitRecord p f r) :=
  ite h.modChan ((h.modChan.modRing _ _ _).raise _)

theorem Kept.writeRecord (h : Kept s t) (p f r : Nat) (x : Report) (l : List Report) :
    Kept s (t.writeRecord p f r x l) := (h.modRing _ _ _).modChan.post

theorem recordAllocate_runs (p : Nat) : Runs s (execRecordAllocate p s) := by
  unfold execRecordAllocate
  dsimp only
  split
  · exact runs_same s
  · exact Runs.ite (runs_same s) (Runs.ite ((Kept.refl s).waitRecord _ _ _).runs ((Kept.refl s).writeRecord _ _ _ _ _).runs)

theorem Kept.reportDone (h : Kept s t) (p : Nat) (r : Report) : Kept s (t.reportDone p r) := by
  have h1 : Kept s (if r.done = true then t.raise (chanEvent p 1) else t) := ite (h.raise _) h
  have h2 : Kept s (match r.signal with
      | some k => (if r.done = true then t.raise (chanEvent p 1) else t).raiseSignal (t.chFn p) k
      | none => if r.done = true then t.raise (chanEvent p 1) else t) := by
    split
    · exact h1.raiseSignal _ _
    · exact h1
  unfold State.reportDone
  dsimp only
  split
  · exact (h2.modChan).raise _
  · exact (h2.modChan).raise _
  · exact h2.raise _
  · exact h2

theorem Kept.completionDone (h : Kept s t) (p : Nat) : Kept s (t.completionDone p) := by
  unfold State.completionDone
  refine Kept.kickIndex (Kept.foldl _ (Kept.modChan ?_) fun _ r k => k.reportDone p r) p
  split
  · exact ite (h.modRing _ _ _) h
  · exact h

theorem completionWriteResponse_runs (p : Nat) (a : BitVec 8) (r : Resp) :
    Runs s (execCompletionWriteResponse p a r s) := by
  refine Runs.settled ?_
  have h := Kept.refl s
  split
  · exact runs_same s
  · split
    · exact Runs.ite (h.delTxn _).runs (Runs.ite (h.burstFailed _).runs (((h.delTxn _).recovered _).completionDone _).runs)
    · exact runs_same s

theorem Kept.lehrEnd (h : Kept s t) (p : Nat) : Kept s (t.lehrEnd p) := by
  have h1 := (h.dropEntries p).modChan (p := p) (g := fun x =>
    { x with state := if x.cfg.ringMode then .stopped else .idle, stopKind := false, stopIdx := x.idxReg x.ring.h,
             direct := { x.direct with due := false } })
  unfold State.lehrEnd
  dsimp only
  split
  · exact h1.addReport _ _ _
  · exact (h1.flushIndex p _).raise _

theorem lehrStopComplete_runs (p : Nat) : Runs s (execLehrStopComplete p s) :=
  (Kept.ite ((Kept.refl s).lehrEnd p) (Kept.refl s)).runs.settled

theorem abortComplete_runs (p : Nat) : Runs s (execAbortComplete p s) :=
  (Kept.ite ((Kept.refl s).finishAbort p) (Kept.refl s)).runs.settled

theorem channelHalt_runs (p : Nat) : Runs s (execChannelHalt p s) :=
  (Kept.ite ((Kept.refl s).haltEdge p) (Kept.refl s)).runs.settled

end Sys2Proof.Machine
end

