-- ==== Sys2Proof/Laws/KeptStreams.lean ====
section
/-! SUPPORT. The rows of pacing, streams, crucible maintenance, the Cullet and the sensors answer a next state that keeps
what `Kept` names. -/

set_option Elab.async false

namespace Sys2Proof.Machine

variable {s t : State}

/-! ### Pacing -/

theorem Kept.setTime (h : Kept s t) (x : TimeIn) : Kept s (t.setTime x) := ite ((h.mk').raise _) h.mk'

theorem timeSample_runs (v : W64) (b : Bool) : Runs s (execTimeSample v b s) := by
  have h := Kept.refl s
  exact Runs.ite h.runs (Runs.ite (h.setTime _).runs (Runs.ite (h.setTime _).runs (Runs.ite ((h.mk').raise _).runs
    (h.setTime _).runs)))

theorem timeStall_runs : Runs s (execTimeStall s) := (Kept.ite ((Kept.refl s).setTime _) (Kept.refl s)).runs

theorem timeStallWithdrawn_runs : Runs s (execTimeStallWithdrawn s) :=
  (Kept.ite ((Kept.refl s).setTime _) (Kept.refl s)).runs

theorem Kept.setTimers (h : Kept s t) (n : Nat) (x : Timer) :
    Kept s { t with ev := { t.ev with timers := put t.ev.timers n x } } :=
  h.mk' (h6 := fun w => ⟨w.1, w.2.1, w.2.2.1, w.2.2.2.1, wf_put _ _ _ w.2.2.2.2.1, w.2.2.2.2.2⟩)

theorem timerFire_runs (n : Nat) : Runs s (execTimerFire n s) := by
  unfold execTimerFire
  dsimp only
  split
  · exact runs_same s
  · exact Runs.ite (((Kept.refl s).setTimers _ _).fireGate _ _ _).runs (runs_same s)

theorem trigIn_runs (n : Nat) : Runs s (execTrigIn n s) := by
  unfold execTrigIn
  split
  · exact Runs.ite ((Kept.refl s).fireGate _ _ _).runs (runs_same s)
  · exact runs_same s

theorem trigOutPulse_runs (n : Nat) : Runs s (execTrigOutPulse n s) := (Kept.refl s).setTout.runs

theorem msiTimeExpiry_runs (v : Nat) : Runs s (execMsiTimeExpiry v s) := by
  unfold execMsiTimeExpiry
  split
  · exact runs_same s
  · exact ((Kept.refl s).reachCclk.decideVec _ _).runs

/-! ### Streams -/

theorem Kept.firstRefusal (h : Kept s t) (p n : Nat) : Kept s (t.firstRefusal p n) := h.setPort.raise _

theorem Kept.rewind (h : Kept s t) (p : Nat) : Kept s (t.rewind p) := h.modPort.raise _

theorem Kept.commit (h : Kept s t) (p : Nat) (b : StreamBeat) : Kept s (t.commit p b) := by
  unfold State.commit
  dsimp only
  split
  · exact h.setPort.givePacket _ _ _
  · exact h.setPort

theorem Kept.refuseIn (h : Kept s t) (p : Nat) (b : StreamBeat) : Kept s (t.refuseIn p b) := by
  unfold State.refuseIn
  dsimp only
  split
  · exact h.setPort
  · exact ite h.setPort (ite (h.setPort.firstRefusal _ _) (h.setPort.firstRefusal _ _).modPort)

theorem inboundBeatAccept_runs (p : Nat) (b : StreamBeat) : Runs s (execInboundBeatAccept p b s) :=
  (Runs.ite (runs_same s) (Runs.ite ((Kept.refl s).refuseIn _ _).runs (Kept.refl s).modPort.runs)).settled

theorem Kept.packBeat (h : Kept s t) (p : Nat) (b : StreamBeat) : Kept s (t.packBeat p b) :=
  ite (h.rewind _) (ite ((h.wrote _ _ _ _).commit _ _) (h.wrote _ _ _ _).setPort)

theorem inboundBeatPop_runs (p : Nat) : Runs s (execInboundBeatPop p s) := by
  refine Runs.settled ?_
  have h := Kept.refl s
  dsimp only
  split
  · exact runs_same s
  · exact Runs.ite (runs_same s) (Runs.ite h.setPort.modPort.runs (Runs.ite h.setPort.modPort.runs (Runs.ite
      h.setPort.modPort.runs (Runs.ite (h.setPort.packBeat _ _).runs ((h.setPort.firstRefusal _ _).modPort).runs))))

theorem inboundFlushEdge_runs (p : Nat) : Runs s (execInboundFlushEdge p s) :=
  (Runs.ite (Kept.refl s).modPort.runs (runs_same s)).settled

theorem Kept.discardOut (h : Kept s t) (p : Nat) : Kept s (t.discardOut p) :=
  h.foldl _ fun _ _ k => k.foldl _ fun _ _ k => ite k.modPort.modWork k

theorem outboundFlushEdge_runs (p : Nat) : Runs s (execOutboundFlushEdge p s) :=
  (Runs.ite ((Kept.refl s).discardOut _).modPort.runs (runs_same s)).settled

theorem Kept.beatDelivered (h : Kept s t) (p : Nat) (b : OutBeat) : Kept s (t.beatDelivered p b) := by
  unfold State.beatDelivered
  dsimp only
  split
  · exact h.modPort
  · exact ite h.modPort (h.modPort.deliverBits _ _ _ _)

theorem outboundBeatAccept_runs (p : Nat) (l : List CruFault) : Runs s (execOutboundBeatAccept p l s) := by
  refine Runs.settled (Runs.ite (runs_same s) ?_)
  split
  · exact runs_same s
  · refine Kept.runs ?_
    split
    · exact (((Kept.refl s).beatDelivered _ _).pumpRead _ _).touchWatch _
    · exact ((Kept.refl s).beatDelivered _ _).pumpRead _ _

theorem packetRelease_runs (p : Nat) : Runs s (execPacketRelease p s) := by
  refine Runs.settled ?_
  have h := Kept.refl s
  split
  · exact runs_same s
  · split
    · exact runs_same s
    · exact Runs.ite (runs_same s) (Runs.ite (h.staleEdge _ _).runs h.modPort.runs)

theorem Kept.scrubbed (h : Kept s t) (f : CruFault) : Kept s (t.scrubbed f) :=
  ite (Kept.setCause (ite (h.countFault _) (h.countFault _).mk') _) (ite (h.countFault _).mk' (h.countFault _))

theorem scrubCell_runs (c : List CtxFault) (l : List CruFault) : Runs s (execScrubCell c l s) := by
  unfold execScrubCell
  dsimp only
  refine Runs.settled (Runs.ite (runs_same s) (Kept.runs ?_))
  have h := ((Kept.refl s).ctxFaults c).foldl (l.filter fun f => f.cell == s.cru.scrubCell) fun _ f k => k.scrubbed f
  generalize (l.filter fun f => f.cell == s.cru.scrubCell).foldl State.scrubbed (s.ctxFaults c) = u at h ⊢
  exact h.mk'

theorem scrubRewrite_runs (b : Nat) (w : Bool) : Runs s (execScrubRewrite b w s) := by
  unfold execScrubRewrite
  dsimp only
  split
  · exact runs_same s
  · exact (Kept.ite ((Kept.refl s).mk') (((Kept.refl s).mk').raise _)).runs

/-! ### The Cullet -/

theorem gobOpDone_runs (f : Nat) : Runs s (execGobOpDone f s) :=
  (Runs.ite (Kept.refl s).modFn.runs (runs_same s)).settled

theorem forceFreeApply_runs (g : Nat) : Runs s (execForceFreeApply g s) :=
  (Runs.ite ((((Kept.refl s).mk').freeChain _).raise _).runs (runs_same s)).settled

theorem Kept.recordGrant (h : Kept s t) (p : Nat) (w : Work) (g : Nat) : Kept s (t.recordGrant p w g) := by
  unfold State.recordGrant
  dsimp only
  split
  · exact h.writeRec _ _
  · exact (h.writeRec _ _).writeRec _ _

theorem Kept.grantGob (h : Kept s t) (p : Nat) (w : Work) : Kept s (t.grantGob p w) := by
  have h1 := h.takeGob (t.chFn p)
  unfold State.grantGob
  generalize t.takeGob (t.chFn p) = x at h1 ⊢
  obtain ⟨g, u⟩ := x
  dsimp only at h1 ⊢
  exact (h1.recordGrant _ _ _).modWork.modChan

theorem Kept.exhaust (h : Kept s t) (p : Nat) : Kept s (t.exhaust p) := by
  unfold State.exhaust
  split
  · exact h
  · exact ((h.failWork _ _ _).mk').raise _

theorem Kept.loseGob (h : Kept s t) (p : Nat) : Kept s (t.loseGob p) := ite h (ite (h.exhaust _) h.modChan)

theorem gobGrant_runs : Runs s (execGobGrant s) := by
  refine Runs.settled (Runs.ite (runs_same s) ?_)
  have h := Kept.refl s
  dsimp only
  split
  · exact (h.foldl _ fun _ _ k => k.loseGob _).runs
  · split
    · exact runs_same s
    · exact (((h.grantGob _ _).mk').foldl _ fun _ _ k => k.loseGob _).runs

theorem gobWaitExpiry_runs (p : Nat) : Runs s (execGobWaitExpiry p s) := by
  refine Runs.settled ?_
  split
  · exact runs_same s
  · exact ((Kept.refl s).reachCclk.modChan.exhaust _).runs

theorem chainCommit_runs (p : Nat) : Runs s (execChainCommit p s) := by
  refine Runs.settled ?_
  split
  · exact runs_same s
  · exact Runs.ite ((Kept.refl s).writeRec _ _).modWork.runs (runs_same s)

theorem Kept.handOver (h : Kept s t) (p : Nat) (w : Work) (a : Nat) : Kept s (t.handOver p w a) :=
  ite (h.failWork _ _ _) (h.writeRec _ _).modWork

theorem Kept.resolveFailed (h : Kept s t) (p : Nat) (w : Work) : Kept s (t.resolveFailed p w) :=
  h.modWork.failWork _ _ _

theorem Kept.resolved (h : Kept s t) (p : Nat) (w : Work) (x : Option (BitVec 128)) : Kept s (t.resolved p w x) := by
  unfold State.resolved
  dsimp only
  refine ite (Kept.resolveFailed ?_ _ _) (ite (Kept.handOver ?_ _ _ _) (Kept.modWork ?_)) <;> exact ite (h.quarantine _) h

theorem Kept.resolveHead (h : Kept s t) (p : Nat) : Kept s (t.resolveHead p) := by
  unfold State.resolveHead
  split
  · exact h
  · refine ite (h.resolveFailed _ _) ?_
    split
    · exact h
    · exact h.resolved _ _ _

theorem handleResolve_runs (p : Nat) (l : List CtxFault) : Runs s (execHandleResolve p l s) :=
  (Runs.ite (((Kept.refl s).ctxFaults l).resolveHead p).runs (runs_same s)).settled

theorem Kept.returnGob (h : Kept s t) (g f : Nat) : Kept s (t.returnGob g f) := ite h (h.pushGob _).modFn

theorem Kept.memberFreed (h : Kept s t) (g : Nat) : Kept s (t.memberFreed g) := by
  unfold State.memberFreed
  refine ite h ?_
  split
  · exact h
  · exact ite ((h.setFreeing _ _).returnGob _ _) (ite (h.setFreeing _ _) ((h.returnGob _ _).setFreeing _ _))

theorem gobMemberFreed_runs (g : Nat) (l : List CtxFault) : Runs s (execGobMemberFreed g l s) :=
  (Runs.ite (((Kept.refl s).ctxFaults l).memberFreed g).runs (runs_same s)).settled

/-- An update of the Cullet's registers other than its geometry and records. -/
theorem Kept.setCul (h : Kept s t) {c : Cullet} (hg : c.geometry = t.cul.geometry := by simp only [Cullet.geometry])
    (hr : c.records = t.cul.records := by rfl) :
    Kept s { t with cul := c } := h.mk' hg (h8 := fun w => by rw [hr]; exact w)

theorem freeStackSpill_runs : Runs s (execFreeStackSpill s) :=
  (Runs.ite (runs_same s) (Kept.refl s).spill.runs).settled

theorem freeStackFill_runs : Runs s (execFreeStackFill s) :=
  (Runs.ite (runs_same s) (Kept.refl s).post.runs).settled

theorem Kept.keepRec (h : Kept s t) (g : Nat) (r : GobRec) : Kept s (t.keepRec g r) := h.mk' (h8 := wf_put _ _ _)

theorem Kept.reclaim (h : Kept s t) (g : Nat) (r : GobRec) : Kept s (t.reclaim g r) :=
  ((h.keepRec g r).writeRec _ _).pushGob _

theorem Kept.sweepParsed (h : Kept s t) (g : Nat) (x y : Option GobRec) : Kept s (t.sweepParsed g x y) := by
  unfold State.sweepParsed
  dsimp only
  split
  · exact h.quarantine _
  · split
    · split
      · exact ite (h.keepRec g _) (Kept.setCul (h.keepRec g _))
      · exact (h.keepRec g _).pushGob _
    · exact Kept.setCul (h.keepRec g _).modFn
    · exact h.reclaim _ _
    · split
      · exact ite (h.keepRec g _).modFn (h.reclaim _ _)
      · exact h.reclaim _ _

theorem Kept.askHead (h : Kept s t) (g : Nat) : Kept s (t.askHead g) := ite h h.post

theorem Kept.sweepOn (h : Kept s t) (g : Nat) (x y : Option GobRec) : Kept s (t.sweepOn g x y) := by
  unfold State.sweepOn
  dsimp only
  refine ite (Kept.endSweep ?_) ?_ <;> exact (Kept.setCul (c := { t.cul with
    sweepPos := g + 1, sweepHead := none
    sweepData := t.cul.sweepData.filter fun e => decide (g + 1 < e.1 + 64) }) h).sweepParsed g x y

theorem Kept.sweepNextRec (h : Kept s t) : Kept s t.sweepNextRec := by
  unfold State.sweepNextRec
  dsimp only
  split
  · exact h
  · split
    · exact h.sweepOn _ _ _
    · exact h.sweepOn _ _ _
    · exact h.askHead _

theorem sweepRecord_runs (l m : List CtxFault) : Runs s (execSweepRecord l m s) :=
  (Runs.ite (((Kept.refl s).ctxFaults l).ctxFaults m).sweepNextRec.runs (runs_same s)).settled

/-! ### The sensors -/

theorem Kept.setSensors (h : Kept s t) {x : Sensors} (hx : sensorsWf t.gaf.sensors → sensorsWf x) :
    Kept s { t with gaf := { t.gaf with sensors := x } } := h.mk' (h10 := fun w => ⟨w.1, hx w.2⟩)

theorem Kept.modSensors (h : Kept s t) {g : Sensors → Sensors} (hx : sensorsWf t.gaf.sensors → sensorsWf (g t.gaf.sensors)) :
    Kept s (t.modSensors g) := h.setSensors hx

theorem Kept.sensorEvent (h : Kept s t) (n v : Nat) : Kept s (t.sensorEvent n v) := (h.raiseUp _).log _ _ _

theorem sensorsWf_temp {x : Sensors} (h : sensorsWf x) (n : Nat) (v : BitVec 16) :
    sensorsWf { x with temp := put x.temp n v } := ⟨wf_put _ _ _ h.1, h.2⟩

theorem sensorsWf_tempMax {x : Sensors} (h : sensorsWf x) (n : Nat) (v : BitVec 16) :
    sensorsWf { x with tempMax := put x.tempMax n v } := ⟨h.1, wf_put _ _ _ h.2.1, h.2.2⟩

theorem sensorsWf_armed {x : Sensors} (h : sensorsWf x) (n : Nat) (v : Bool) :
    sensorsWf { x with armed := put x.armed n v } := ⟨h.1, h.2.1, wf_put _ _ _ h.2.2.1, h.2.2.2⟩

theorem sensorsWf_faulty {x : Sensors} (h : sensorsWf x) (n : Nat) (v : Bool) :
    sensorsWf { x with faulty := put x.faulty n v } := ⟨h.1, h.2.1, h.2.2.1, wf_put _ _ _ h.2.2.2.1, h.2.2.2.2⟩

theorem sensorsWf_droopMin {x : Sensors} (h : sensorsWf x) (n v : Nat) :
    sensorsWf { x with droopMin := put x.droopMin n v } :=
  ⟨h.1, h.2.1, h.2.2.1, h.2.2.2.1, wf_put _ _ _ h.2.2.2.2.1, h.2.2.2.2.2⟩

theorem sensorsWf_droopCnt {x : Sensors} (h : sensorsWf x) (n v : Nat) :
    sensorsWf { x with droopCnt := put x.droopCnt n v } :=
  ⟨h.1, h.2.1, h.2.2.1, h.2.2.2.1, h.2.2.2.2.1, wf_put _ _ _ h.2.2.2.2.2.1, h.2.2.2.2.2.2⟩

theorem sensorsWf_excursion {x : Sensors} (h : sensorsWf x) (n : Nat) (v : Bool) :
    sensorsWf { x with excursion := put x.excursion n v } :=
  ⟨h.1, h.2.1, h.2.2.1, h.2.2.2.1, h.2.2.2.2.1, h.2.2.2.2.2.1, wf_put _ _ _ h.2.2.2.2.2.2.1, h.2.2.2.2.2.2.2⟩

theorem sensorsWf_clkKhz {x : Sensors} (h : sensorsWf x) (n v : Nat) :
    sensorsWf { x with clkKhz := put x.clkKhz n v } :=
  ⟨h.1, h.2.1, h.2.2.1, h.2.2.2.1, h.2.2.2.2.1, h.2.2.2.2.2.1, h.2.2.2.2.2.2.1, wf_put _ _ _ h.2.2.2.2.2.2.2⟩

theorem thermalSample_runs (n : Nat) (v : BitVec 16) : Runs s (execThermalSample n v s) := by
  unfold execThermalSample
  dsimp only
  have k := (Kept.refl s).modSensors (g := fun y => y.sample n v)
    (fun w => sensorsWf_tempMax (x := { s.gaf.sensors with temp := put s.gaf.sensors.temp n v }) (sensorsWf_temp w _ _) _ _)
  exact Runs.ite (runs_same s) (Runs.ite ((k.modSensors fun w => sensorsWf_armed w _ _).sensorEvent _ _).runs
    (Runs.ite (k.modSensors fun w => sensorsWf_armed w _ _).runs k.runs))

theorem droopExcursion_runs (n m : Nat) : Runs s (execDroopExcursion n m s) := by
  unfold execDroopExcursion
  dsimp only
  have k := (Kept.refl s).modSensors (g := fun y =>
    { y with droopMin := put y.droopMin n (min (look m y.droopMin n) m) }) (fun w => sensorsWf_droopMin w _ _)
  exact Runs.ite (runs_same s) (Runs.ite ((k.modSensors fun w =>
    sensorsWf_droopCnt (sensorsWf_excursion w n true) _ _).sensorEvent _ _).runs k.runs)

theorem droopExcursionEnd_runs (n m : Nat) : Runs s (execDroopExcursionEnd n m s) :=
  Runs.ite ((Kept.refl s).modSensors fun w => sensorsWf_excursion w _ _).runs (runs_same s)

theorem sensorFault_runs (n : Nat) : Runs s (execSensorFault n s) :=
  ((Kept.ite ((Kept.refl s).modSensors fun w => sensorsWf_faulty (sensorsWf_temp w _ _) _ _) (Kept.refl s)).sensorEvent _
    _).runs

theorem clockFreqMeasure_runs (d k : Nat) : Runs s (execClockFreqMeasure d k s) :=
  Runs.ite ((Kept.refl s).modSensors fun w => sensorsWf_clkKhz w _ _).runs (runs_same s)

end Sys2Proof.Machine
end

