-- ==== Sys2Proof/Laws/KeptXezan.lean ====
section
/-! SUPPORT. The rows of Xezan answer a next state that keeps what `Kept` names. -/

set_option Elab.async false

namespace Sys2Proof.Machine

variable {s t : State}

theorem Kept.discardFrame (h : Kept s t) (r : Received) : Kept s (t.discardFrame r) :=
  ite h.mk' (ite ((h.mk').raise _) ((h.mk').raise _))

theorem Kept.unknownPeer (h : Kept s t) : Kept s t.unknownPeer := (h.mk').raise _

theorem Kept.takeSeq (h : Kept s t) (e p : Nat) : Kept s (t.takeSeq e p) :=
  h.mk' (h9 := fun w => ⟨w.1, wf_put _ _ _ w.2.1, w.2.2⟩)

/-- An update of Xezan's lists and counts, its tables as they are. -/
theorem Kept.setXez (h : Kept s t) {x : Xezan} {n : Nat} (hx : xezanWf t.xez → xezanWf x := by exact id) :
    Kept s { t with xez := x, nextId := n } := h.mk' (h9 := hx)

theorem Kept.formReq (h : Kept s t) (p : Nat) (w : Work) (q : XReq) : Kept s (t.formReq p w q) := by
  have k := (h.takeLane (benchOf p) q.landing q.space).takeSeq w.peer p
  unfold State.formReq
  dsimp only
  generalize (t.takeLane (benchOf p) q.landing q.space).takeSeq w.peer p = u at k ⊢
  exact ite (k.setXez.modWork) (k.setXez.modWork.claimPort _ _)

theorem xezanPlaceGrant_runs (l : List CruFault) : Runs s (execXezanPlaceGrant l s) := by
  refine Runs.settled (Runs.ite (runs_same s) ?_)
  split
  · exact runs_same s
  · split
    · exact runs_same s
    · refine Runs.ite ((Kept.refl s).staleEdge _ _).runs (Kept.runs ?_)
      refine Kept.ite (Kept.eccFault ?_ _ _) (Kept.formReq ?_ _ _ _) <;>
        exact Kept.ite (Kept.countEcc ((Kept.refl s).mk') _) ((Kept.refl s).mk')

theorem Kept.setSent (h : Kept s t) (p : Nat) (l : List Byte) : Kept s (t.setSent p l) :=
  h.mk' (h9 := fun w => ⟨w.1, w.2.1, w.2.2.1, w.2.2.2.1, wf_put _ _ _ w.2.2.2.2⟩)

theorem xezanFrameSent_runs (p : Nat) : Runs s (execXezanFrameSent p s) := by
  unfold execXezanFrameSent
  dsimp only
  split
  · exact runs_same s
  · split
    · exact (((Kept.refl s).mk').setSent _ _).runs
    · split
      · exact runs_same s
      · refine (Kept.setSent ?_ _ _).runs
        exact (Kept.refl s).mk' (h9 := fun w => ⟨w.1, w.2.1, w.2.2.1, wf_put _ _ _ w.2.2.2.1, w.2.2.2.2⟩)

theorem Kept.delReq (h : Kept s t) (n : Nat) : Kept s (t.delReq n) := h.mk'

theorem Kept.reqTimeout (h : Kept s t) (q : XReq) : Kept s (t.reqTimeout q) := by
  unfold State.reqTimeout
  dsimp only
  split
  · exact (h.delReq _).freeReq _
  · split
    · have k := (h.delReq q.id).takeSeq q.peer q.pch
      generalize (t.delReq q.id).takeSeq q.peer q.pch = u at k ⊢
      exact (k.mk').raise _
    · exact ((((((h.delReq _).freeReq _).mk').raise _).raise _).failWork _ _ _)

theorem xezanRequestTimeout_runs (n : Nat) : Runs s (execXezanRequestTimeout n s) := by
  refine Runs.settled ?_
  split
  · exact runs_same s
  · split
    · exact runs_same s
    · exact ((Kept.refl s).reachRefclk.reqTimeout _).runs

theorem Kept.landResponse (h : Kept s t) (q : XReq) (l : List Byte) : Kept s (t.landResponse q l) := by
  unfold State.landResponse
  dsimp only
  split
  · exact h.freeReq _
  · split
    · exact h.freeReq _
    · split
      · exact (h.land _ _ _ _ _ _ _).pump _
      · exact h.land _ _ _ _ _ _ _

theorem Kept.applyResponse (h : Kept s t) (q : XReq) (x : FrameHdr) (l : List Byte) :
    Kept s (t.applyResponse q x l) := by
  unfold State.applyResponse
  dsimp only
  exact ite (h.reqTimeout _) (ite (ite ((h.delReq _).deliverBits _ _ _ _)
    ((h.delReq _).landResponse _ _)) (((h.delReq _).freeReq _).failWork _ _ _))

theorem Kept.clearSync (h : Kept s t) (e c : Nat) : Kept s (t.clearSync e c) :=
  h.mk' (h9 := fun w => ⟨w.1, wf_put _ _ _ w.2.1, w.2.2⟩)

theorem xezanResponseArrival_runs (p : Nat) (l : List Byte) (b : Bool) :
    Runs s (execXezanResponseArrival p l b s) := by
  refine Runs.settled ?_
  dsimp only
  have h := Kept.refl s
  split
  · exact runs_same s
  · split
    · exact (h.discardFrame _).runs
    · split
      · exact runs_same s
      · split
        · exact h.unknownPeer.runs
        · split
          · exact (((h.clearSync _ _).mk').raise _).runs
          · exact ((h.clearSync _ _).applyResponse _ _ _).runs

theorem Kept.setRecv (h : Kept s t) (e c : Nat) (x : RecvState) : Kept s (t.setRecv e c x) :=
  h.mk' (h9 := fun w => ⟨w.1, w.2.1, wf_put _ _ _ w.2.2.1, w.2.2.2⟩)

theorem Kept.queueResponse (h : Kept s t) (p : Nat) (x : FrameHdr) (l : List Byte) : Kept s (t.queueResponse p x l) :=
  h.mk'

theorem Kept.noSpaceFor (h : Kept s t) : Kept s t.noSpaceFor := (h.mk').raise _

theorem Kept.syncRecv (h : Kept s t) (e : Nat) (x : FrameHdr) : Kept s (t.syncRecv e x) := by
  unfold State.syncRecv
  split
  · have k := h.setRecv e x.chan { expected := x.seq, initial := false }
    generalize t.setRecv e x.chan { expected := x.seq, initial := false } = u at k ⊢
    exact k.mk'
  · exact h

theorem Kept.acceptRequest (h : Kept s t) (p e : Nat) (x : FrameHdr) (l : List Byte) :
    Kept s (t.acceptRequest p e x l) := by
  have k := h.syncRecv e x
  unfold State.acceptRequest
  dsimp only
  generalize t.syncRecv e x = u at k ⊢
  split
  · exact (k.mk').queueResponse _ _ _
  · split
    · exact k.noSpaceFor
    · exact k.mk'

theorem xezanRequestReceive_runs (p : Nat) (l : List Byte) (b c : Bool) :
    Runs s (execXezanRequestReceive p l b c s) := by
  unfold execXezanRequestReceive
  dsimp only
  have h := Kept.refl s
  split
  · exact runs_same s
  · split
    · exact (h.discardFrame _).runs
    · split
      · exact runs_same s
      · split
        · exact h.unknownPeer.runs
        · exact Runs.ite h.noSpaceFor.runs (h.acceptRequest _ _ _ _).runs

theorem Kept.serveAccesses (h : Kept s t) (j : XJob) : Kept s (t.serveAccesses j) := by
  unfold State.serveAccesses
  dsimp only
  exact h.foldl _ fun _ _ k => ite k.post k.post

theorem Kept.serve (h : Kept s t) (j : XJob) : Kept s (t.serve j) := by
  have k : ∀ g, Kept s ((t.setRecv j.peer j.hdr.chan { expected := j.hdr.seq + 1, initial := false }).modJob j.id g) :=
    fun g => (h.setRecv _ _ _).modJob _ g
  unfold State.serve
  dsimp only
  split
  · exact (k _).serveAccesses _
  · exact ite ((((k _).mk').raise _).raise _) (((k _).mk').raise _)

theorem xezanRequestTurn_runs (e c : Nat) : Runs s (execXezanRequestTurn e c s) := by
  unfold execXezanRequestTurn
  split
  · exact runs_same s
  · exact ((Kept.refl s).serve _).runs

theorem xezanHoldTimeout_runs (e c : Nat) : Runs s (execXezanHoldTimeout e c s) := by
  unfold execXezanHoldTimeout
  dsimp only
  split
  · exact runs_same s
  · rename_i j _
    have k := (Kept.refl s).reachRefclk (n := j.heldAt + s.xez.hold)
    generalize s.reachRefclk (j.heldAt + s.xez.hold) = u at k ⊢
    exact (((k.mk').raise _).foldl _ fun _ x q => q.serve x).runs

theorem xezanResponseSend_runs (p j : Nat) (l : List CruFault) : Runs s (execXezanResponseSend p j l s) := by
  unfold execXezanResponseSend
  split
  · exact runs_same s
  · rename_i x _
    refine Runs.ite (runs_same s) (Kept.runs ?_)
    have k1 := Kept.ite (c := x.status = 0) ((Kept.refl s).countEcc l) (Kept.refl s)
    have k2 := Kept.ite (c := (decide (x.status = 0) && eccUe l) = true) (k1.setCause 3) k1
    dsimp only
    generalize (if (decide (x.status = 0) && eccUe l) = true then _ else _ : State) = u at k2 ⊢
    exact Kept.ite (((k2.mk').queueResponse _ _ _).raiseSignal _ _) ((k2.mk').queueResponse _ _ _)

end Sys2Proof.Machine
end

