-- ==== Sys2Proof/Laws/KeptRegs.lean ====
section
/-! SUPPORT. The rows of the register port answer a next state that keeps what `Kept` names. -/

set_option Elab.async false

namespace Sys2Proof.Machine

variable {s t u : State}

/-! ### Slot registers -/

theorem Kept.startLehr (h : Kept s t) (p : Nat) : Kept s (t.startLehr p) := ite (h.modChan.lehrEnd p) h.modChan

theorem Kept.resume (h : Kept s t) (p : Nat) : Kept s (t.resume p) := h.modChan

theorem Kept.writeCtl (h : Kept s t) {f p : Nat} {d : W32} (e : t.writeCtl f p d = some u) : Kept s u := by
  unfold State.writeCtl at e
  dsimp only at e
  split at e
  · cases e
  · split at e
    · cases e; exact h.modChan
    · split at e
      · split at e
        · exact h.goPass e
        · cases e
      · split at e
        · split at e
          · cases e; exact h.modChan.startLehr p
          · cases e
        · split at e
          · split at e
            · cases e; exact h.modChan.startAbort p false
            · cases e
          · split at e
            · cases e; exact h.modChan.resume p
            · cases e

/-- Whatever an operation answers keeps. -/
def KeptO (s : State) (o : Option State) : Prop := ∀ u, o = some u → Kept s u

theorem KeptO.none : KeptO s none := fun _ e => nomatch e

theorem Kept.ofSome (h : Kept s t) : KeptO s (some t) := fun _ e => Option.some.inj e ▸ h

theorem KeptO.ite {a b : Option State} {c : Prop} [Decidable c] (ha : KeptO s a) (hb : KeptO s b) :
    KeptO s (if c then a else b) := by split <;> assumption

theorem KeptO.map {α : Type} {o : Option α} {g : α → State} (h : ∀ v, Kept s (g v)) : KeptO s (o.map g) := by
  intro u e
  obtain ⟨v, -, rfl⟩ := Option.map_eq_some_iff.1 e
  exact h v

/-- The settled answer of an operation whose every answer keeps. -/
theorem KeptO.settled {o : Option State} {s0 : State} (h : KeptO s o) : KeptO s (o.map s0.settle) := by
  intro u e
  obtain ⟨v, hv, rfl⟩ := Option.map_eq_some_iff.1 e
  exact (h v hv).settle s0

theorem Kept.writeSlot (h : Kept s t) (f p n : Nat) (d : W32) : KeptO s (t.writeSlot f p n d) :=
  .ite (h.modChan rfl fun w => wf_put _ _ _ w).ofSome <| .ite (KeptO.settled fun _ e => h.writeCtl e) <| .ite h.modChan.ofSome <|
    .ite h.modChan.ofSome <| .ite h.modChan.ofSome <| .ite h.modChan.ofSome <| .ite h.modChan.ofSome <| .ite h.modChan.ofSome <|
    .ite (.ite (.map fun _ => h.ringDoorbell _ _) .none) <| .ite (.ite (.map fun _ => h.pushCommit _ _ _) .none) <|
    .ite h.modChan.ofSome <| .ite h.modChan.ofSome h.ofSome

/-! ### Holding operations -/

theorem Kept.refusedFree (h : Kept s t) (r : Nat) : Kept s (t.refusedFree r) := by
  unfold State.refusedFree
  split
  · exact (Kept.setCul h).raise _
  · split
    · exact (Kept.setCul h).raise _
    · split
      · exact (Kept.setCul h).raise _
      · exact h

theorem Kept.gobOpApply (h : Kept s t) (f o a g : Nat) : Kept s (t.gobOpApply f o a g) := by
  unfold State.gobOpApply
  dsimp only
  split
  · exact h.writeRec _ _
  · split
    · exact h.writeRec _ _
    · exact h.freeChain _

theorem Kept.gobOp (h : Kept s t) {f : Nat} {d : W32} (e : t.gobOp f d = some u) : Kept s u := by
  unfold State.gobOp at e
  split at e
  · cases e
  · dsimp only at e
    split at e
    · cases e; exact (h.gobOpApply _ _ _ _).modFn
    · cases e; exact (ite (h.refusedFree _) h).modFn

/-! ### Function registers -/

theorem Kept.flushPort (h : Kept s t) {f : Nat} {d : W32} (e : t.flushPort f d = some u) : Kept s u := by
  unfold State.flushPort at e
  dsimp only at e
  split at e
  · cases e; exact h
  · split at e
    · cases e
    · cases e; exact h.modPort

theorem Kept.writeMask (h : Kept s t) (f i : Nat) (d : W32) : Kept s (t.writeMask f i d) :=
  h.modFn.foldl _ fun _ _ k => ite (k.decideVec _ _) k

theorem Kept.writeSpEvt (h : Kept s t) (f i : Nat) (d : W32) : Kept s (t.writeSpEvt f i d) :=
  h.foldl _ fun _ _ k => ite k.modPort k

theorem Kept.writeCr (h : Kept s t) {f r n : Nat} {d : W32} (e : t.writeCr f r n d = some u) : Kept s u := by
  unfold State.writeCr at e
  dsimp only at e
  split at e
  · obtain ⟨v, -, rfl⟩ := Option.map_eq_some_iff.1 e
    exact h.modRing _ _ _
  · split at e <;> cases e
    · exact h.modRing _ _ _
    · exact h

theorem Kept.writeF (h : Kept s t) (f o : Nat) (d : W32) : KeptO s (t.writeF f o d) :=
  .ite h.modFn.ofSome <| .ite (.ite h.ofSome (.ite h.modFn.ofSome .none)) <| .ite h.modFn.ofSome <|
    .ite (h.writeSpEvt _ _ _).ofSome <| .ite (h.raiseSignal _ _).ofSome <| .ite (h.writeMask _ _ _).ofSome <|
    .ite (fun _ e => h.flushPort e) <| .ite h.modFn.ofSome <| .ite (KeptO.settled fun _ e => h.gobOp e) h.ofSome

theorem Kept.getD {o : Option State} {d : State} (hd : Kept s d) (ho : KeptO s o) : Kept s (o.getD d) := by
  cases o with
  | none => exact hd
  | some v => exact ho v rfl

theorem Kept.writeOwn (h : Kept s t) (f n : Nat) (d : W32) (p : Option Nat) :
    KeptO s (match p with | some p => t.writeSlot f p n d | none => none) := by
  cases p with
  | none => exact .none
  | some p => exact h.writeSlot _ _ _ _

theorem Kept.writeFn (h : Kept s t) (f o : Nat) (d : W32) : Kept s (t.writeFn f o d) :=
  ite (h.ignFn _ _ _) <| ite (h.ignFn _ _ _) <| Kept.getD (h.ignFn _ _ _) <| .ite (h.writeF _ _ _) <|
    .ite h.modPort.ofSome <| .ite (fun _ e => h.writeCr e) (h.writeOwn _ _ _ _)

/-! ### Administrative registers -/

theorem Kept.writeLane (h : Kept s t) {b : Nat} {d : W32} (e : t.writeLane b d = some u) : Kept s u := by
  unfold State.writeLane at e
  dsimp only at e
  split at e <;> cases e
  exact h.modBench

theorem Kept.setCap (h : Kept s t) (b : Nat) (c : Prop) [Decidable c] (d : W32) :
    Kept s (t.modBench b fun x => if c then { x with capRd := d } else { x with capWr := d }) := by
  refine h.modBench fun w => ?_
  split <;> exact w

theorem Kept.writeG (h : Kept s t) (o : Nat) (d : W32) : KeptO s (t.writeG o d) :=
  .ite (Kept.mk' h).ofSome <| .ite (h.setCap _ _ _).ofSome <| .ite (Kept.mk' h).ofSome <|
    .ite (fun _ e => h.writeLane e) <| .ite (Kept.mk' h).ofSome <| .ite (Kept.mk' h).ofSome <|
    .ite (Kept.mk' h).ofSome h.ofSome

theorem Kept.writeSafety (h : Kept s t) (o : Nat) (d : W32) : Kept s (t.writeSafety o d) := by
  unfold State.writeSafety
  dsimp only
  generalize t.causeHolds = c
  split
  · refine h.mk' (h11 := fun w => ⟨fun hne => w.1 fun h0 => hne ?_, w.2⟩)
    show t.safety.cause &&& _ = 0
    rw [h0]; exact BitVec.zero_and
  · exact h.mk'

theorem Kept.forceFree (h : Kept s t) {d : W32} (e : t.forceFree d = some u) : Kept s u := by
  unfold State.forceFree at e
  split at e <;> cases e
  exact Kept.setCul h

theorem Kept.writeX (h : Kept s t) (o : Nat) (d : W32) : KeptO s (t.writeX o d) :=
  .ite .none (.ite h.setXez.ofSome h.setXez.ofSome)

theorem Kept.writeAdm (h : Kept s t) (a : Nat) (d : W32) : Kept s (t.writeAdm a d) :=
  ite (h.ignAdm _ _) <| Kept.getD (h.ignAdm _ _) <| .ite (h.writeG _ _) <| .ite h.modPort.ofSome <|
    .ite (fun _ e => h.forceFree e) <| .ite (h.writeSafety _ _).ofSome (h.writeX _ _)

theorem Kept.applyEntry (h : Kept s t) (e : RegEntry) : Kept s (t.applyEntry e) := by
  unfold State.applyEntry
  split
  · exact h.ignore _ _
  · split
    · exact h.writeFn _ _ _
    · exact h.writeAdm _ _

theorem Kept.pushEntry (h : Kept s t) (e : RegEntry) : Kept s (t.pushEntry e) := by
  unfold State.pushEntry
  split
  · exact h.applyEntry e
  · split
    · exact h.mk'
    · exact h.mk'

theorem Kept.pushRefusedRead (h : Kept s t) (a : Nat) : Kept s (t.pushRefusedRead a) := ite (h.pushEntry _) h

/-! ### Mailboxes -/

theorem wf_range_map {α : Type} (n : Nat) (g : Nat → α) : Tbl.wf ((List.range n).map fun i => (i, g i)) = true := by
  rw [wf_iff_pairwise, List.pairwise_map]
  exact List.pairwise_lt_range

theorem bufferOf_wf (l : List Byte) : Tbl.wf (bufferOf l) = true := wf_range_map _ _

theorem Kept.mbReply (h : Kept s t) (m : Nat) (st : BitVec 8) (l : List Byte) : Kept s (t.mbReply m st l) :=
  (h.setMailbox fun _ => bufferOf_wf l).raiseUp _

theorem Kept.queueGo (h : Kept s t) (m : Nat) : Kept s (t.queueGo m) := h.mk'

theorem Kept.writeMb (h : Kept s t) (m n : Nat) (d : W32) : Kept s (t.writeMb m n d) := by
  unfold State.writeMb
  dsimp only
  split
  · exact ite (h.pushEntry _) (h.setMailbox fun w => wf_put _ _ _ w)
  · split
    · exact ite (h.pushEntry _) h.setMailbox
    · split
      · split
        · exact h
        · split
          · exact h.pushEntry _
          · exact ite (h.setMailbox.mbReply _ _ _) (h.setMailbox.queueGo m)
      · split
        · exact h.setMailbox
        · exact h.pushEntry _

/-! ### Reads -/

theorem Chan.readClear_owner (c : Chan) (n : Nat) : (c.readClear n).owner = c.owner := by
  unfold Chan.readClear; (repeat' split) <;> rfl

theorem Chan.readClear_push (c : Chan) (n : Nat) : (c.readClear n).push = c.push := by
  unfold Chan.readClear; (repeat' split) <;> rfl

theorem Kept.clearMerged (h : Kept s t) (w i : Nat) : Kept s (t.clearMerged w i) :=
  h.foldl _ fun _ _ k => ite k.setTout k

theorem Kept.readFn (h : Kept s t) (f o : Nat) : Kept s (t.readFn f o) := by
  unfold State.readFn
  split
  · exact h.modFn
  · split
    · exact h.modFn
    · split
      · exact h.modFn
      · split
        · exact h.modFn
        · split
          · exact h.clearMerged _ _
          · split
            · exact ite h.modPort h
            · split
              · exact ite (h.modRing _ _ _) h
              · split
                · split
                  · exact h.modChan (Chan.readClear_owner _ _) (by rw [Chan.readClear_push]; exact id)
                  · exact h
                · exact h

theorem Kept.setSafety (h : Kept s t) {x : Safety} (hx : t.safety.holds → x.holds := by exact id) :
    Kept s { t with safety := x } := h.mk' (h11 := hx)

theorem Kept.readAdm (h : Kept s t) (a : Nat) : Kept s (t.readAdm a) := by
  unfold State.readAdm
  exact ite (ite h.mk' <| ite h.mk' <| ite h.mk' <| ite (h.mk' (h7 := fun w => ⟨wf_put _ _ _ w.1, wf_put _ _ _ w.2⟩)) <|
    ite h.mk' <| ite h.mk' <| ite h.mk' <| ite h.mk' <| ite (h.clearMerged _ _) h) <|
    ite h.modPort <| ite (Kept.setCul h) <| ite (Kept.setCul h) <| ite (Kept.setCul h) <| ite (Kept.setSafety h) <|
    ite (Kept.setSafety h) <| ite (Kept.setSafety h) <| ite (Kept.setSafety h) <| ite (Kept.setSafety h) <|
    ite (Kept.setSafety h) <| ite h.setXez <| ite h.setXez <| ite h.setXez <| ite h.setXez <| ite h.setXez h

theorem Kept.readEffect (h : Kept s t) (a : Nat) : Kept s (t.readEffect a) := by
  unfold State.readEffect
  split
  · exact ite (h.readFn _ _) h
  · exact h.readAdm _

/-! ### REG -/

theorem Kept.hold (h : Kept s t) : Kept s t.hold := h.mk'

theorem Kept.hclkReleased (h : Kept s t) : Kept s t.hclkReleased := h.mk'

theorem Kept.answer (h : Kept s t) (b : Bool) : Kept s (t.answer b) := h.mk'

theorem Kept.apbWrite (h : Kept s t) (a : BitVec 22) (d : W32) (st : BitVec 4) (pr : BitVec 3) :
    Kept s (t.apbWrite a d st pr) := by
  unfold State.apbWrite
  dsimp only
  split
  · exact h.hold
  · split
    · exact h.answer _
    · refine Kept.answer ?_ _
      split
      · exact h.pushEntry _
      · split
        · exact h.pushEntry _
        · split
          · exact h.writeMb _ _ _
          · exact h.pushEntry _

theorem Kept.apbRead (h : Kept s t) (a : BitVec 22) (pr : BitVec 3) : Kept s (t.apbRead a pr) := by
  unfold State.apbRead
  dsimp only
  split
  · exact h.mk'
  · split
    · exact h.mk'
    · split
      · exact Kept.mk' (h.pushRefusedRead _)
      · exact Kept.mk' (h.readEffect _)

theorem write_runs (a : BitVec 22) (d : W32) (st : BitVec 4) (pr : BitVec 3) : Runs s (.next (s.apbWrite a d st pr)) :=
  ((Kept.refl s).apbWrite _ _ _ _).runs

theorem read_runs (a : BitVec 22) (pr : BitVec 3) : Runs s (.next (s.apbRead a pr)) := ((Kept.refl s).apbRead _ _).runs

theorem apbHoleAccess_runs (a : BitVec 22) (w : Bool) : Runs s (execApbHoleAccess a w s) :=
  Runs.ite (Kept.ite ((Kept.refl s).apbWrite _ _ _ _) ((Kept.refl s).apbRead _ _)).runs (runs_same s)

theorem gobBadOp_runs (f : Nat) (d : W32) (st : BitVec 4) : Runs s (execGobBadOp f d st s) :=
  Runs.ite (write_runs _ _ _ _) (runs_same s)

end Sys2Proof.Machine
end

