-- ==== Sys2Proof/Laws/RegPort.lean ====
section
/-! SUPPORT. What a write of a register does when nothing stands in its way: the address arithmetic of the register port
done once (R39, R40), for slot registers, function registers and the administrative area. -/

set_option Elab.async false

namespace Sys2Proof.Machine

variable {s : State}

theorem slotReg_addr {f sl n : Nat} (hf : f < 16) (hs : sl < 128) (hn : n < 0x200) (h4 : n % 4 = 0) :
    wordAddr (slotReg f sl n) = f * 0x20000 + 0x10000 + sl * 0x200 + n := by
  simp only [wordAddr, slotReg, BitVec.toNat_ofNat]; omega

theorem fnReg_addr {f o : Nat} (hf : f < 16) (ho : o < 0x20000) (h4 : o % 4 = 0) :
    wordAddr (fnReg f o) = f * 0x20000 + o := by
  simp only [wordAddr, fnReg, BitVec.toNat_ofNat]; omega

/-- A write of a function window outside the mailbox: it becomes visible at once. -/
theorem apbWrite_window {a : BitVec 22} {d : W32} {f o : Nat} (hp : s.PortUp) (ha : wordAddr a = f * 0x20000 + o)
    (hf : f < 16) (ho : o < 0x20000) (hm : o < 0x1000 ∨ 0x2000 ≤ o) (hf' : s.member.fnPresent f = true)
    (hk : fnKind s.member o ≠ .hole) : s.apbWrite a d 0b1111 0 = (s.writeFn f o d).acked := by
  have h1 : ¬ 0x200018 ≤ f * 0x20000 + o := by omega
  have h2 : f * 0x20000 + o < 0x200000 := by omega
  have h3 : (f * 0x20000 + o) / 0x20000 = f := by omega
  have h4 : (f * 0x20000 + o) % 0x20000 = o := by omega
  have h5 : mbOf (f * 0x20000 + o) = none := by
    unfold mbOf; rw [if_pos h2, h4, if_neg (by omega)]
  have h6 : regKind s.member (f * 0x20000 + o) ≠ .hole := by
    unfold regKind; rw [if_pos h2, h3, h4, hf']; exact hk
  have h7 : protRefused (f * 0x20000 + o) 0 = false := by
    unfold protRefused isAdministrative; rw [decide_eq_false h1]; rfl
  unfold State.apbWrite
  simp only [ha, hp.1, Bool.not_true, Bool.false_eq_true, if_false, h6, h7, h5, ne_eq, not_true_eq_false,
    State.pushEntry, hp.2, if_true, State.applyEntry, h2, h3, h4]
  rfl

theorem slotKind_hole {m : Member} {n : Nat} (h : slotKind m n = .writable) : slotKind m n ≠ .hole := by rw [h]; decide

/-- A write of a slot register that the slot takes. -/
theorem apbWrite_slot {f sl p n : Nat} {d : W32} (h : s.SlotLive f sl p) (hn : n < 0x200) (h4 : n % 4 = 0)
    (hk : slotKind s.member n = .writable) :
    s.apbWrite (slotReg f sl n) d 0b1111 0 = ((s.writeSlot f p n d).getD (s.ignFn f (0x10000 + sl * 0x200 + n) 2)).acked := by
  obtain ⟨⟨hp, hf, hm, hr, hz⟩, hs, hsp, hq⟩ := h
  have h1 : (0x10000 + sl * 0x200 + n - 0x10000) / 0x200 = sl := by omega
  have h2 : (0x10000 + sl * 0x200 + n) % 0x200 = n := by omega
  have hkind : fnKind s.member (0x10000 + sl * 0x200 + n) = .writable := by
    unfold fnKind
    rw [if_neg (by omega), if_neg (by omega), if_neg (by omega), if_neg (by omega), if_neg (by omega), h1, h2, hsp, hk]
    rfl
  have hshut : s.windowShut f (0x10000 + sl * 0x200 + n) = false := by
    unfold State.windowShut State.fnOpen
    rw [h1, hq, hr, hz]
    rw [decide_eq_false (by omega : ¬ 0x10000 + sl * 0x200 + n < 0x1000)]
    simp
  rw [apbWrite_window (o := 0x10000 + sl * 0x200 + n) hp (by rw [slotReg_addr hf hs hn h4]; omega) hf (by omega)
    (by omega) hm (by rw [hkind]; decide)]
  unfold State.writeFn
  rw [hshut, hkind, if_neg (by decide), if_neg (by decide), if_neg (by omega), if_neg (by omega), if_neg (by omega), h1, h2, hq]

/-- A write of a function register below the stream-port views. -/
theorem apbWrite_fn {f o : Nat} {d : W32} (h : s.FnLive f) (ho : o < 0x800) (h4 : o % 4 = 0)
    (hk : fRegKind s.member o = .writable) :
    s.apbWrite (fnReg f o) d 0b1111 0 = ((s.writeF f o d).getD (s.ignFn f o 2)).acked := by
  obtain ⟨hp, hf, hm, hr, hz⟩ := h
  have hkind : fnKind s.member o = .writable := by unfold fnKind; rw [if_pos ho, hk]
  have hshut : s.windowShut f o = false := by
    unfold State.windowShut State.fnOpen
    rw [hr, hz, decide_eq_false (by omega : ¬ 0x10000 ≤ o), decide_eq_false (by omega : ¬ 0x800 ≤ o)]
    rfl
  rw [apbWrite_window hp (fnReg_addr hf (by omega) h4) hf (by omega) (by omega) hm (by rw [hkind]; decide)]
  unfold State.writeFn
  rw [hshut, hkind, if_neg (by decide), if_neg (by decide), if_pos ho]

/-- A write of a completion-ring register. -/
theorem apbWrite_cr {f r n : Nat} {d : W32} (h : s.FnLive f) (hr16 : r < 16) (hn : n = 0x0C ∨ n = 0x14) :
    s.apbWrite (fnReg f (0x2000 + r * 0x40 + n)) d 0b1111 0
      = ((s.writeCr f r n d).getD (s.ignFn f (0x2000 + r * 0x40 + n) 2)).acked := by
  obtain ⟨hp, hf, hm, hr, hz⟩ := h
  have h1 : (0x2000 + r * 0x40 + n - 0x2000) / 0x40 = r := by omega
  have h2 : (0x2000 + r * 0x40 + n) % 0x40 = n := by omega
  have hkind : fnKind s.member (0x2000 + r * 0x40 + n) = .writable := by
    unfold fnKind
    rw [if_neg (by omega), if_neg (by omega), if_neg (by omega), if_pos (by omega), h2]
    rcases hn with rfl | rfl <;> rfl
  have hshut : s.windowShut f (0x2000 + r * 0x40 + n) = false := by
    unfold State.windowShut State.fnOpen
    rw [hr, hz, decide_eq_false (by omega : ¬ 0x10000 ≤ 0x2000 + r * 0x40 + n),
      decide_eq_false (by omega : ¬ 0x2000 + r * 0x40 + n < 0x1000)]
    simp
  rw [apbWrite_window hp (fnReg_addr hf (by omega) (by omega)) hf (by omega) (by omega) hm (by rw [hkind]; decide)]
  unfold State.writeFn
  rw [hshut, hkind, if_neg (by decide), if_neg (by decide), if_neg (by omega), if_neg (by omega), if_pos (by omega), h1, h2]

/-- A write of the administrative area outside the mailbox, by privileged secure access. -/
theorem apbWrite_adm {a : BitVec 22} {d : W32} {n : Nat} {prot : BitVec 3} (hp : s.PortUp) (ha : wordAddr a = n)
    (hn : 0x200000 ≤ n) (hm : n < 0x201000 ∨ 0x202000 ≤ n) (hpr : protRefused n prot = false)
    (hk : regKind s.member n = .writable) : s.apbWrite a d 0b1111 prot = (s.writeAdm n d).acked := by
  have h5 : mbOf n = none := by unfold mbOf; rw [if_neg (by omega), if_neg (by omega)]
  have h6 : ¬ n < 0x200000 := by omega
  unfold State.apbWrite
  simp only [ha, hp.1, Bool.not_true, Bool.false_eq_true, if_false, hk, hpr, h5, ne_eq, not_true_eq_false,
    State.pushEntry, hp.2, if_true, State.applyEntry, h6, reduceCtorEq]
  rfl

end Sys2Proof.Machine
end

