-- ==== Sys2Proof/Laws/KeptResets.lean ====
section
/-! SUPPORT. The rows of resets, bring-up, lost clocks and the alarm: those that keep what `Kept` names, and for those that
change the option shadow or the mapping, that they keep the member, the queue and the invariants (`Sound`). -/

set_option Elab.async false

namespace Sys2Proof.Machine

variable {s t u : State}

/-- The state `t` has the member and the queue of `s`, and each invariant that `s` has. -/
structure Sound (s t : State) : Prop where
  member : t.member = s.member
  pending : t.pending = s.pending
  tables : s.TablesWf → t.TablesWf
  owners : s.OwnersDistinct → t.OwnersDistinct
  alarm : s.AlarmHolds → t.AlarmHolds

theorem Kept.sound (h : Kept s t) : Sound s t := ⟨h.member, h.pending, h.tablesWf, h.ownersDistinct, h.alarmHolds⟩

theorem Sound.kept (h : Sound s t) (k : Kept t u) : Sound s u :=
  ⟨k.member.trans h.member, k.pending.trans h.pending, fun w => k.tablesWf (h.tables w),
   fun w => k.ownersDistinct (h.owners w), fun w => k.alarmHolds (h.alarm w)⟩

/-- The outcome is a next state with the invariants that `s` has. -/
def RunsSound (s : State) (o : Host.Outcome State Fault Refusal) : Prop := ∃ t, o = .next t ∧ Sound s t

theorem Runs.sound {o : Host.Outcome State Fault Refusal} (h : Runs s o) : RunsSound s o := by
  obtain ⟨t, e, k⟩ := h
  exact ⟨t, e, k.sound⟩

theorem Sound.runs (h : Sound s t) : RunsSound s (.next t) := ⟨t, rfl, h⟩

theorem ownersDistinct_nil (h : s.chans = []) : s.OwnersDistinct := by
  intro p q f hp
  simp [State.chan, h] at hp

theorem emptyTables : chansWf [] ∧ fnsWf [] ∧ mailboxesWf [] ∧ benchesWf [] ∧ eventsWf {} ∧ crucibleWf {} ∧ xezanWf {}
    ∧ sensorsWf {} ∧ gafferWf {} := by
  simp [chansWf, fnsWf, mailboxesWf, benchesWf, eventsWf, crucibleWf, xezanWf, sensorsWf, gafferWf]

theorem reset_tablesWf : State.reset.TablesWf := by
  obtain ⟨h1, h2, h3, h4, h5, h6, h7, h8, h9⟩ := emptyTables
  exact ⟨rfl, h1, h2, h3, h4, rfl, h5, h6, rfl, h7, h9⟩

/-! ### Readiness -/

theorem Kept.makeReady (h : Kept s t) (f : Nat) : Kept s (t.makeReady f) := ite (h.modFn.raise _) h

theorem Kept.readyOne (h : Kept s t) (f : Nat) : Kept s (t.readyOne f) := ite (h.makeReady f) h

theorem Kept.readyFns (h : Kept s t) : Kept s t.readyFns := h.foldl _ fun _ _ k => k.readyOne _

/-! ### Cold and warm reset -/

theorem coldReset_runs : RunsSound s (execColdReset s) := by
  refine Sound.runs ⟨rfl, rfl, fun _ => ?_, fun _ => ownersDistinct_nil rfl, fun _ => ⟨fun _ => rfl, fun _ => rfl⟩⟩
  obtain ⟨h1, h2, h3, h4, h5, h6, h7, h8, h9⟩ := emptyTables
  exact ⟨rfl, h1, h2, h3, h4, rfl, h5, h6, rfl, h7, h9⟩

theorem Sound.warmAssert (l : Nat) : Sound s (s.warmAssert l) := by
  unfold State.warmAssert
  dsimp only
  refine Sound.kept ?_ ((Kept.refl _).log _ _ _)
  refine ⟨rfl, rfl, fun w => ?_, fun _ => ownersDistinct_nil rfl, fun _ => ⟨fun _ => rfl, fun _ => rfl⟩⟩
  obtain ⟨h1, h2, h3, h4, h5, h6, h7, h8, h9⟩ := emptyTables
  exact ⟨w.opt, h1, h2, h3, h4, rfl, h5, h6, w.cul, h7, w.gaf⟩

theorem warmResetPin_runs : RunsSound s (execWarmResetPin s) := by
  unfold execWarmResetPin
  split
  · exact (Kept.refl s).sound.runs
  · exact (Sound.warmAssert _).runs

theorem debugReset_runs : RunsSound s (execDebugReset s) := by
  unfold execDebugReset
  split
  · exact (Kept.refl s).sound.runs
  · exact (Sound.warmAssert _).runs

theorem Kept.startRelease (h : Kept s t) : Kept s t.startRelease := ite h h.mk'

theorem resetRelease_runs : Runs s (execResetRelease s) :=
  Runs.ite (Kept.refl s).mk'.runs (Runs.ite (Kept.startRelease (Kept.refl s).mk').runs (runs_same s))

/-! ### Domains -/

theorem Kept.applyEntries (h : Kept s t) (l : List RegEntry) : Kept s (l.foldl State.applyEntry t) :=
  h.foldl l fun _ e k => k.applyEntry e

theorem Kept.cclkReleased (h : Kept s t) : Kept s t.cclkReleased := by
  unfold State.cclkReleased
  dsimp only
  refine (Kept.applyEntries ?_ _).settle _
  have k : Kept s (if t.rst.optEvent then t.raise 1472 else t) := ite (h.raise _) h
  generalize (if t.rst.optEvent then t.raise 1472 else t) = u at k ⊢
  exact ite (Kept.startSweep k.mk') k.mk'

theorem domainRelease_runs (d : Nat) : Runs s (execDomainRelease d s) := by
  unfold execDomainRelease
  dsimp only
  split
  · exact runs_same s
  · exact (Kept.ite (Kept.cclkReleased (Kept.refl s).mk')
      (Kept.ite (Kept.hclkReleased (Kept.refl s).mk') (Kept.refl s).mk')).runs

/-! ### The option map -/

theorem Sound.setOpt (h : Sound s t) {o : Opt} {r : Rst} {x : Safety} (ho : s.TablesWf → Tbl.wf o.words = true)
    (hx : t.safety.holds → x.holds) : Sound s { t with opt := o, rst := r, safety := x } where
  member := h.member
  pending := h.pending
  tables w := let v := h.tables w; ⟨ho w, v.chans, v.fns, v.mailboxes, v.benches, v.ports, v.ev, v.cru, v.cul, v.xez, v.gaf⟩
  owners := h.owners
  alarm w := hx (h.alarm w)

theorem Sound.loadDone (h : Sound s t) {o : Opt} (ho : s.TablesWf → Tbl.wf o.words = true) : Sound s (t.loadDone o) := by
  refine Sound.kept ?_ ((Kept.refl _).startRelease)
  exact h.setOpt ho id

theorem Sound.loadFailed (h : Sound s t) (w : OptReason) : Sound s (t.loadFailed w) := by
  unfold State.loadFailed
  dsimp only
  have k : Sound s (t.loadDone (optSafe t.member t.opt w)) := h.loadDone fun v => (h.tables v).opt
  generalize t.loadDone (optSafe t.member t.opt w) = u at k ⊢
  exact k.kept ((((Kept.refl u).mk').setCause _).log _ _ _)

theorem optWordRead_runs (w : W32) : RunsSound s (execOptWordRead w s) := by
  unfold execOptWordRead
  dsimp only
  split
  · exact (Kept.refl s).sound.runs
  · have k : Sound s { s with
        opt := { s.opt with words := put s.opt.words s.rst.optNext w }
        rst := { s.rst with optNext := s.rst.optNext + 1, optReq := false } } :=
      (Kept.refl s).sound.setOpt (x := s.safety) (fun v => wf_put _ _ _ v.opt) id
    split
    · exact k.runs
    · split
      · exact (k.loadFailed _).runs
      · split
        · exact (k.loadDone fun v => wf_put _ _ _ v.opt).runs
        · exact (k.loadFailed _).runs

theorem optAckTimeout_runs : RunsSound s (execOptAckTimeout s) := by
  unfold execOptAckTimeout
  split
  · exact (Kept.refl s).sound.runs
  · exact ((Kept.refl s).sound.loadFailed _).runs

theorem crucibleFillDone_runs : Runs s (execCrucibleFillDone s) :=
  (Kept.ite (Kept.readyFns (Kept.refl s).mk') (Kept.refl s)).runs

/-! ### The Gaffer's boot and resets -/

theorem Kept.logBoot (h : Kept s t) (n : Nat) : Kept s (t.logBoot n) := h.log _ _ _

/-- An update of the Gaffer and of the reset controller. -/
theorem Kept.setGaf (h : Kept s t) {r : Rst} {g : Gaffer} (hg : gafferWf t.gaf → gafferWf g := by exact id) :
    Kept s { t with rst := r, gaf := g } := h.mk' (h10 := hg)

theorem Kept.answerEnded (h : Kept s t) (m : Nat) : Kept s (t.answerEnded m) := ite (h.setMailbox.mbReply _ _ _) h

theorem Kept.answerAllEnded (h : Kept s t) : Kept s t.answerAllEnded :=
  h.foldl _ fun _ _ k => k.answerEnded _

theorem Kept.gafferUp (h : Kept s t) (i : GafImage) (b : Bool) : Kept s (t.gafferUp i b) := by
  unfold State.gafferUp
  dsimp only
  exact ite ((((Kept.flushLog (Kept.setGaf h)).logBoot _).raiseUp _).readyFns.answerAllEnded.raiseUp _)
    (((Kept.flushLog (Kept.setGaf h)).logBoot _).raiseUp _).readyFns.answerAllEnded

theorem Kept.gafferRecovery (h : Kept s t) (a b : FlashSlot) : Kept s (t.gafferRecovery a b) :=
  Kept.answerAllEnded (Kept.logBoot (Kept.flushLog h.mk') _)

theorem Kept.logActivated (h : Kept s t) (a b : Nat) (v : W32) (m : Nat) : Kept s (t.logActivated a b v m) := h.log _ _ _

theorem gafferWf_restored {g : Gaffer} (h : gafferWf g) : gafferWf g.restored := by
  unfold Gaffer.restored; split <;> exact h

theorem Kept.unactivate (h : Kept s t) (a : Activation) (m : Nat) : Kept s (t.unactivate a m) := by
  have k := h.setGaf (r := t.rst) (g := { t.gaf.restored with act := none, resRollback := satAdd 8 t.gaf.resRollback 1 })
    fun w => gafferWf_restored w
  unfold State.unactivate
  dsimp only
  generalize ({ t with
    gaf := { t.gaf.restored with act := none, resRollback := satAdd 8 t.gaf.resRollback 1 } } : State) = u at k ⊢
  exact (k.setMailbox.raiseUp _).logActivated _ _ _ _

theorem Kept.rollBack (h : Kept s t) (m : Nat) : Kept s (t.rollBack m) := by
  unfold State.rollBack
  split
  · exact h
  · exact ite (((h.unactivate _ _).log _ _ _).mbReply _ _ _) (h.unactivate _ _)

theorem Kept.flashBoot (h : Kept s t) (p : Sfdp) (a b : FlashSlot) : Kept s (t.flashBoot p a b) := by
  unfold State.flashBoot
  dsimp only
  split
  · exact Kept.gafferUp (h.mk') _ _
  · exact Kept.gafferRecovery (h.mk') _ _

theorem gafferBootDone_runs (b : Bool) (p : Sfdp) (x : BootFlash) : Runs s (execGafferBootDone b p x s) := by
  unfold execGafferBootDone
  refine Runs.ite (runs_same s) ?_
  split
  · exact Runs.ite (((Kept.refl s).gafferUp _ _).rollBack _).runs (((Kept.refl s).flashBoot _ _ _).rollBack _).runs
  · exact ((Kept.refl s).flashBoot _ _ _).runs

theorem Kept.answerBusy (h : Kept s t) (m : Nat) : Kept s (t.answerBusy m) := ite (h.setMailbox.mbReply _ _ _) h

theorem Kept.gafferReset (h : Kept s t) (c : Nat) : Kept s (t.gafferReset c) := by
  unfold State.gafferReset
  dsimp only
  have k := ((h.setGaf (g := { t.gaf with state := .booting, down := true, staging := false, flashMb := none })
    (r := { t.rst with gaffer := false })).raiseUp 1449).log 3 0xFF [BitVec.ofNat 8 c] |>.rollBack 0
  have k2 := k.foldl (List.range 17) (f := State.answerBusy) fun _ m q => q.answerBusy m
  generalize List.foldl State.answerBusy _ _ = u at k2 ⊢
  exact k2.mk'

theorem gafferWatchdog_runs : Runs s (execGafferWatchdog s) :=
  Runs.ite (((Kept.mk' (Kept.refl s)).raiseUp _).gafferReset _).runs (runs_same s)

theorem lockstepMismatch_runs : Runs s (execLockstepMismatch s) := by
  unfold execLockstepMismatch
  dsimp only
  split
  · exact ((((Kept.mk' (Kept.refl s)).setCause _).raiseUp _).gafferReset _).runs
  · exact runs_same s

/-! ### Function and bench reset -/

theorem Kept.freeTxns (h : Kept s t) (l : List Txn) : Kept s (l.foldl State.freeTxn t) := h.foldl l fun _ x k => k.freeTxn x

theorem Kept.resetChan (h : Kept s t) (p : Nat) : Kept s (t.resetChan p) := by
  unfold State.resetChan
  dsimp only
  exact (Kept.mk' ((h.abandonAll p true _).freeTxns _)).modChan rfl fun _ => rfl

theorem Kept.resetPort (h : Kept s t) (p : Nat) : Kept s (t.resetPort p) := h.modPort.compareWm p

theorem wf_mapVals {α : Type} {l : Tbl α} (g : Nat → α → α) (h : Tbl.wf l = true) :
    Tbl.wf (l.map fun e => (e.1, g e.1 e.2)) = true := wf_map l (fun e => g e.1 e.2) h

theorem fnWf_fnReset {x : Fn} (h : fnWf x) : fnWf x.fnReset :=
  ⟨rfl, wf_mapVals (fun _ => CplRing.fnReset) h.2.1, h.2.2⟩

theorem eventsWf_fnReset {e : Events} (h : eventsWf e) (f : Nat) : eventsWf (e.fnReset f) :=
  ⟨h.1, h.2.1, h.2.2.1, wf_mapVals (fun _ (o : TrigOut) => if o.holder = some f then { o with merged := 0 } else o) h.2.2.2.1, h.2.2.2.2.1,
   wf_mapVals (fun v (x : Vec) => if v / 128 = f && !x.admin then x.fnReset else x) h.2.2.2.2.2⟩

theorem Kept.fnReset (h : Kept s t) (f : Nat) : Kept s (t.fnReset f) := by
  unfold State.fnReset
  dsimp only
  have k1 := h.foldl (t.chansOf f) (f := State.resetChan) fun _ p k => k.resetChan p
  have k3 := (k1.abandonReqs fun q => q.fn == f && !q.abandoned).modFn (f := f) (g := Fn.fnReset) fnWf_fnReset
  generalize (State.abandonReqs _ _).modFn f Fn.fnReset = u at k3 ⊢
  have k4 : Kept s { u with ev := u.ev.fnReset f } := k3.mk' (h6 := fun w => eventsWf_fnReset w f)
  generalize ({ u with ev := u.ev.fnReset f } : State) = v at k4 ⊢
  have k5 := (k4.foldl (v.portsOf f) (f := State.resetPort) fun _ p k => k.resetPort p).modFn (f := f)
    (g := fun x => { x with evt := 0, sigCnt := [], sigOvf := 0 }) fun w => ⟨rfl, w.2⟩
  generalize State.modFn _ f _ = x at k5 ⊢
  exact k5.mk' (h5 := wf_mapVals fun _ (x : Port) => if x.holder = some f then { x with evt := 0 } else x)
    (h6 := fun w => eventsWf_fnReset w f)

theorem Kept.endWait (h : Kept s t) (w : MbWait) (m : Nat) : Kept s (State.endWait w t m) := by
  unfold State.endWait
  dsimp only
  exact ite (ite (h.setMailbox.mbReply _ _ _) h.setMailbox) h.setMailbox

theorem Kept.endWaits (h : Kept s t) (w : MbWait) : Kept s (t.endWaits w) := h.foldl _ fun _ m k => k.endWait w m

theorem fnWf_resetDone {x : Fn} (h : fnWf x) : fnWf { x with
    resetting := false, rings := x.rings.map fun e => (e.1, { e.2 with head := 0, producer := 0, tail := 0 }) } :=
  ⟨h.1, wf_mapVals (fun _ (r : CplRing) => { r with head := 0, producer := 0, tail := 0 }) h.2.1, h.2.2⟩

theorem resetDone_runs (f : Nat) : Runs s (execResetDone f s) := by
  unfold execResetDone
  dsimp only
  split
  · have k := (Kept.refl s).foldl (s.chansOf f) (f := fun t p => t.modChan p Chan.resetDone) fun _ p q => q.modChan
    exact (((k.modFn fnWf_resetDone).raise _).makeReady _ |>.endWaits _).runs
  · exact runs_same s

theorem benchResetDone_runs (b : Nat) : Runs s (execBenchResetDone b s) :=
  Runs.ite ((Kept.refl s).modBench.endWaits _).runs (runs_same s)

/-! ### Lost clocks -/

theorem Kept.groupLost (h : Kept s t) (g : Nat) : Kept s (t.groupLost g) := by
  unfold State.groupLost
  dsimp only
  have k1 := h.foldl (t.chans.filterMap fun e => (e.2.inGroup g).map fun w => (e.1, w.serial))
    (f := fun t e => t.failWork e.1 e.2 .stall) fun _ e k => k.failWork _ _ _
  generalize List.foldl (fun (t : State) (e : Nat × Nat) => t.failWork e.1 e.2 .stall) t _ = u at k1 ⊢
  split
  · exact k1.foldl _ fun _ e k => k.modPort.compareWm _
  · exact (k1.setCause 5).foldl _ fun _ e k => k.modPort.compareWm _

theorem Kept.xclkLost (h : Kept s t) : Kept s t.xclkLost := h.mk'

theorem Kept.gclkLost (h : Kept s t) : Kept s t.gclkLost := Kept.raiseUp h.mk' _

theorem Sound.cclkLost (h : Sound s t) : Sound s t.cclkLost where
  member := h.member
  pending := h.pending
  tables w := by
    obtain ⟨h1, h2, h3, h4, h5, h6, h7, h8, h9⟩ := emptyTables
    have v := h.tables w
    exact ⟨v.opt, h1, h2, v.mailboxes, h4, rfl, h5, h6, v.cul, h7, v.gaf⟩
  owners _ := ownersDistinct_nil rfl
  alarm := h.alarm

theorem Sound.domainLost (h : Kept s t) (d : Nat) : Sound s (t.domainLost d) := by
  unfold State.domainLost
  split
  · exact h.sound.cclkLost
  · exact (Kept.ite (h.groupLost _) (Kept.ite h.xclkLost (Kept.ite h.gclkLost (Kept.ite (Kept.mk' h) h)))).sound

theorem clockLoss_runs (d : Nat) : RunsSound s (execClockLoss d s) := by
  unfold execClockLoss
  dsimp only
  split
  · refine (Sound.kept (Sound.domainLost (((?_ : Kept s _).setCause 6).raiseUp 1415) d) (Kept.settle (Kept.refl _) s)).runs
    exact (Kept.refl s).mk' (h10 := fun w => ⟨w.1, sensorsWf_clkKhz w.2 _ _⟩)
  · exact (Kept.refl s).sound.runs

theorem refclkLoss_runs : Runs s (execRefclkLoss s) := by
  unfold execRefclkLoss
  dsimp only
  split
  · have k : Kept s (({ s with rst := { s.rst with refLost := true }
                               safety := { s.safety with clkLoss := s.safety.clkLoss ||| 0x200 } } : State).setCause 6) :=
      Kept.setCause (Kept.mk' (Kept.refl s)) 6
    generalize State.setCause _ 6 = u at k ⊢
    exact (k.setSafety (x := { u.safety with alarmP := false, alarmN := false }) fun w => ⟨w.1, fun _ => rfl⟩).runs
  · exact runs_same s

/-! ### The alarm's acknowledgement -/

theorem Kept.safeAck (h : Kept s t) : Kept s t.safeAck := by
  unfold State.safeAck
  split
  · exact Kept.raiseUp (Kept.setSafety h) _
  · rename_i hc
    have hc : t.safety.cause = 0 := Decidable.not_not.1 hc
    have k : Kept s { t with safety := { t.safety with
        asserted := false, alarmP := true, alarmN := false, ackAccepted := satAdd 16 t.safety.ackAccepted 1 } } :=
      h.setSafety fun _ => ⟨fun e => (e hc).elim, fun e => Bool.noConfusion e⟩
    exact ite ((k.raiseUp _).log _ _ _) h

theorem safeAck_runs (b : Bool) : Runs s (execSafeAck b s) := by
  unfold execSafeAck
  dsimp only
  split
  · exact runs_same s
  · exact (Kept.ite (Kept.safeAck (Kept.setSafety (Kept.refl s))) (Kept.setSafety (Kept.refl s))).runs

end Sys2Proof.Machine
end

