-- ==== Sys2Proof/Laws/KeptMailbox.lean ====
section
/-! SUPPORT. The turn of a mailbox, and the mailbox rows: each answers a next state with the invariants of the one
before. -/

set_option Elab.async false

namespace Sys2Proof.Machine

variable {s t u : State}

/-- The state that a verdict applies, if it applies one. -/
def Verdict.Holds (P : State → Prop) : Verdict → Prop
  | .refuse _ _ => True
  | .apply t _ _ => P t
  | .later t _ _ => P t
  | .silent t => P t

theorem Verdict.holds_judge {P : State → Prop} {l : List (Bool × BitVec 8)} {v : Verdict} (h : v.Holds P) :
    (judge l v).Holds P := by
  unfold judge; split
  · trivial
  · exact h

theorem Verdict.holds_ite {P : State → Prop} {c : Prop} [Decidable c] {a b : Verdict} (ha : a.Holds P) (hb : b.Holds P) :
    (if c then a else b).Holds P := by split <;> assumption

theorem Kept.traceAs (h : Kept s t) (mb : Nat) (x : Mailbox) (st : BitVec 8) (l : Trace) :
    Kept s (t.traceAs mb x st l) := by
  unfold State.traceAs
  split
  · exact h
  · exact ite (h.log _ _ _) h
  · exact ite (h.log _ _ _) h

theorem Kept.trace (h : Kept s t) (mb : Nat) (x : Mailbox) (l : Trace) : Kept s (t.trace mb x l) := h.traceAs _ _ _ _

theorem Kept.markApplied (h : Kept s t) (mb : Nat) (l : List Byte) (w : MbWait) : Kept s (t.markApplied mb l w) :=
  h.modMailbox

theorem Kept.replayed (h : Kept s t) (mb : Nat) (r : Replay) : Kept s (t.replayed mb r) :=
  ite (h.modMailbox.mbReply _ _ _) h.modMailbox

/-- A property that keeping preserves passes through the carrying out of a verdict. -/
theorem conclude_holds {P : State → Prop} (hP : ∀ {a b}, P a → Kept a b → P b) (h : P t) {mb : Nat} {v : Verdict}
    (hv : v.Holds P) : P (t.conclude mb v) := by
  unfold State.conclude
  split
  · exact hP h ((Kept.refl _).mbReply _ _ _)
  · exact hP hv ((((Kept.refl _).trace _ _ _).markApplied _ _ _).mbReply _ _ _)
  · exact hP hv (((Kept.refl _).trace _ _ _).markApplied _ _ _).modMailbox
  · exact hv

/-- A property that keeping preserves passes through a turn when the form's own effect preserves it. -/
theorem turnOf_holds {P : State → Prop} (hP : ∀ {a b}, P a → Kept a b → P b) (h : P s) {mb : Nat} {mine : Mailbox → Bool}
    {served adm : Bool} {used : List (Nat × Nat)} {body : State → Mailbox → Verdict}
    (hb : ∀ t x, P t → (body t x).Holds P) : P (s.turnOf mb mine served adm used body) := by
  unfold State.turnOf
  dsimp only
  split
  · exact h
  · have h1 : P { s with goOrder := s.goOrder.drop 1, goTied := if s.goTied.contains mb then [] else s.goTied } :=
      hP h (Kept.refl s).mk'
    generalize ({ s with goOrder := s.goOrder.drop 1, goTied := if s.goTied.contains mb then [] else s.goTied } :
      State) = t at h1 ⊢
    have h2 : P (t.modMailbox mb fun y => { y with wait := .none, again := false }) := hP h1 (Kept.refl t).modMailbox
    have hgo : P (State.turnOf.go mb served adm used body
        (t.modMailbox mb fun y => { y with wait := .none, again := false }) (s.mailbox mb)) := by
      generalize t.modMailbox mb _ = v at h2 ⊢
      unfold State.turnOf.go
      split
      · exact hP h2 ((Kept.refl v).mbReply _ _ _)
      · split
        · exact hP h2 ((Kept.refl v).mbReply _ _ _)
        · split
          · exact hP h2 ((Kept.refl v).mbReply _ _ _)
          · exact conclude_holds hP h2 (hb _ _ h2)
    split
    · split
      · exact hP h1 ((Kept.refl t).replayed _ _)
      · exact hgo
    · exact hgo

/-- A row whose effect keeps answers a next state that keeps. -/
theorem turn_runs {mb : Nat} {mine : Mailbox → Bool} {served adm : Bool} {used : List (Nat × Nat)}
    {body : State → Mailbox → Verdict} (hb : ∀ t x, Kept s t → (body t x).Holds (Kept s)) :
    Runs s (.next (s.turnOf mb mine served adm used body)) :=
  ⟨_, rfl, turnOf_holds (fun h k => h.trans k) (Kept.refl s) hb⟩

/-- A row whose effect has the invariants answers a next state that has them. -/
theorem turn_runsSound {mb : Nat} {mine : Mailbox → Bool} {served adm : Bool} {used : List (Nat × Nat)}
    {body : State → Mailbox → Verdict} (hb : ∀ t x, Sound s t → (body t x).Holds (Sound s)) :
    RunsSound s (.next (s.turnOf mb mine served adm used body)) :=
  ⟨_, rfl, turnOf_holds (fun h k => h.kept k) (Kept.refl s).sound hb⟩

open Verdict (holds_judge holds_ite)

/-! ### Information, sensors and the log -/

theorem getInfo_runs (mb : Nat) : Runs s (execGetInfo mb s) := turn_runs fun _ _ h => h

theorem unknownCommand_runs (mb : Nat) : Runs s (execUnknownCommand mb s) := turn_runs fun _ _ _ => trivial

theorem sensorRead_runs (mb : Nat) : Runs s (execSensorRead mb s) := turn_runs fun _ _ h => holds_judge h

theorem sensorSet_runs (mb : Nat) : Runs s (execSensorSet mb s) := turn_runs fun _ _ h => h.modSensors id

theorem sensorClear_runs (mb : Nat) : Runs s (execSensorClear mb s) :=
  turn_runs fun _ _ h => h.modSensors fun w => ⟨w.1, rfl, w.2.2.1, w.2.2.2.1, rfl, rfl, w.2.2.2.2.2.2⟩

theorem logRead_runs (mb : Nat) : Runs s (execLogRead mb s) := turn_runs fun _ _ h => holds_judge h

/-! ### Functions and benches -/

theorem funcEnable_runs (mb : Nat) : Runs s (execFuncEnable mb s) := turn_runs fun _ _ h => holds_judge (h.modFn.readyOne _)

theorem funcDisable_runs (mb : Nat) : Runs s (execFuncDisable mb s) :=
  turn_runs fun _ _ h => holds_judge (holds_ite h.modFn (holds_ite ((h.modFn.fnReset _).settle _) h))

theorem funcReset_runs (mb : Nat) : Runs s (execFuncReset mb s) := turn_runs fun _ _ h => holds_judge ((h.fnReset _).settle _)

theorem benchReset_runs (mb : Nat) : Runs s (execBenchReset mb s) :=
  turn_runs fun _ _ h => holds_judge (h.modBench fun _ => by simp [benchWf, schedWf])

theorem Sound.trans (h : Sound s t) (k : Sound t u) : Sound s u :=
  ⟨k.member.trans h.member, k.pending.trans h.pending, fun w => k.tables (h.tables w), fun w => k.owners (h.owners w),
   fun w => k.alarm (h.alarm w)⟩

theorem warmReset_runs (mb : Nat) : RunsSound s (execWarmReset mb s) :=
  turn_runsSound fun _ _ h => holds_judge ((h.kept ((Kept.refl _).trace _ _ _)).trans (Sound.warmAssert _))

/-! ### Channels and rings -/

theorem Kept.setEv (h : Kept s t) {e : Events} (he : eventsWf t.ev → eventsWf e) : Kept s { t with ev := e } :=
  h.mk' (h6 := he)

theorem Kept.dropSources (h : Kept s t) (q : Nat → Bool) : Kept s (t.dropSources q) :=
  h.setEv fun w => ⟨wf_filter _ _ w.1, w.2⟩

theorem Kept.dropTarget (h : Kept s t) (r : Route) : Kept s (t.dropTarget r) :=
  h.setEv fun w => ⟨wf_filter _ _ w.1, w.2⟩

/-- A channel that is mapped anew, or to nothing, with its push area empty. -/
theorem Sound.setOwner (h : Sound s t) {p : Nat} {c : Chan} (hc : c.push = [])
    (ho : ∀ f, c.owner = some f → ∀ q, (t.chan q).owner = some f → q = p) : Sound s (t.setChan p c) where
  member := h.member
  pending := h.pending
  tables w := by
    have v := h.tables w
    exact ⟨v.opt, chansWf_put v.chans (by rw [hc]; rfl), v.fns, v.mailboxes, v.benches, v.ports, v.ev, v.cru, v.cul, v.xez,
      v.gaf⟩
  owners w := by
    have v := h.owners w
    have e : ∀ q, ((t.setChan p c).chan q).owner = if q = p then c.owner else (t.chan q).owner :=
      fun q => ownerAt_put t.chans p q c
    intro a b f ha hb
    rw [e] at ha hb
    split at ha <;> split at hb
    · omega
    · exact (‹a = p›).trans (ho f ha b hb).symm
    · exact (ho f hb a ha).trans (‹b = p›).symm
    · exact v a b f ha hb
  alarm := h.alarm

theorem findOwner_none {f sl : Nat} {l : Tbl Chan} (h : findOwner f sl l = none) (p : Nat) :
    (look {} l p : Chan).owner ≠ some (f, sl) := by
  induction l with
  | nil => simp
  | cons a r ih =>
    obtain ⟨k, c⟩ := a
    unfold findOwner at h
    split at h
    · cases h
    · rw [look_cons]
      split
      · assumption
      · exact ih h

theorem judge_holds {P : State → Prop} {l : List (Bool × BitVec 8)} {v : Verdict}
    (h : firstFail l = none → v.Holds P) : (judge l v).Holds P := by
  unfold judge
  cases e : firstFail l with
  | none => exact h e
  | some st => trivial

theorem firstFail_none {b : Bool} {st : BitVec 8} {l : List (Bool × BitVec 8)} (h : firstFail ((b, st) :: l) = none) :
    b = false ∧ firstFail l = none := by
  unfold firstFail at h
  cases b with
  | true => simp at h
  | false => exact ⟨rfl, by simpa using h⟩

theorem chanAssign_runs (mb : Nat) : RunsSound s (execChanAssign mb s) := by
  refine turn_runsSound fun t x h => judge_holds fun hj => ?_
  obtain ⟨-, hj⟩ := firstFail_none hj
  obtain ⟨hj, -⟩ := firstFail_none hj
  split
  · exact h
  · rename_i hs
    simp only [hs, Bool.not_false, Bool.true_and, Bool.or_eq_false_iff, Option.isSome_eq_false_iff,
      Option.isNone_iff_eq_none] at hj
    refine h.setOwner rfl fun f hf q hq => ?_
    cases hf
    exact (findOwner_none hj.2 q hq).elim

theorem chanUnassign_runs (mb : Nat) : RunsSound s (execChanUnassign mb s) := by
  refine turn_runsSound fun t x h => holds_judge (holds_ite h ?_)
  exact (h.setOwner rfl fun f hf => by cases hf).kept ((Kept.refl _).dropSources _)

theorem chanConfig_runs (mb : Nat) : Runs s (execChanConfig mb s) := turn_runs fun _ _ h => holds_judge h.modChan

theorem ringBind_runs (mb : Nat) : Runs s (execRingBind mb s) := turn_runs fun _ _ h => holds_judge h.modChan

theorem cplRingBind_runs (mb : Nat) : Runs s (execCplRingBind mb s) := by
  refine turn_runs fun t x h => holds_judge ?_
  exact (h.mapChans (g := fun _ c => if c.usesRing (actFn mb x) (reqByte x 1) then c.ringGone else c)
    (fun _ c => by split <;> rfl) (fun _ c => by split <;> rfl)).modRing _ _ _

theorem freshSet_runs (mb : Nat) : Runs s (execFreshSet mb s) := turn_runs fun _ _ h => holds_judge h.modChan

theorem safetyConfig_runs (mb : Nat) : Runs s (execSafetyConfig mb s) := turn_runs fun _ _ h => holds_judge h.setSafety

/-! ### Stream ports and the pool -/

theorem streamConfig_runs (mb : Nat) : Runs s (execStreamConfig mb s) :=
  turn_runs fun _ _ h => holds_judge (Kept.ite (h.setPort.compareWm _) h.setPort)

theorem streamRevoke_runs (mb : Nat) : Runs s (execStreamRevoke mb s) :=
  turn_runs fun _ _ h => holds_judge (holds_ite h (h.setPort.dropSources _))

theorem wmSet_runs (mb : Nat) : Runs s (execWmSet mb s) := turn_runs fun _ _ h => holds_judge (h.modPort.compareWm _)

theorem quotaSet_runs (mb : Nat) : Runs s (execQuotaSet mb s) := turn_runs fun _ _ h => holds_judge (h.modFn.settle _)

theorem poolModeFcfs_runs (mb : Nat) : Runs s (execPoolModeFcfs mb s) := turn_runs fun _ _ h => (Kept.setCul h).settle _

theorem poolModeQuota_runs (mb : Nat) : Runs s (execPoolModeQuota mb s) :=
  turn_runs fun _ _ h => holds_judge ((Kept.setCul h).settle _)

theorem poolModeInit_runs (mb : Nat) : RunsSound s (execPoolModeInit mb s) := by
  refine turn_runsSound fun t x h => holds_judge ?_
  refine Sound.kept ?_ (((Kept.refl _).raise _).settle _)
  refine ⟨h.member, h.pending, fun w => ?_, h.owners, h.alarm⟩
  have v := h.tables w
  refine ⟨v.opt, v.chans, ?_, v.mailboxes, v.benches, v.ports, v.ev, v.cru, rfl, v.xez, v.gaf⟩
  refine ⟨wf_mapVals (fun _ (y : Fn) => { y with charge := 0 }) v.fns.1, fun e he => ?_⟩
  obtain ⟨a, ha, rfl⟩ := List.mem_map.1 he
  exact v.fns.2 a ha

/-! ### Timers, triggers, events -/

theorem Kept.setTimer (h : Kept s t) (n : Nat) (x : Timer) : Kept s (t.setTimer n x) := h.setTimers n x

theorem timerSet_runs (mb : Nat) : Runs s (execTimerSet mb s) := turn_runs fun _ _ h => holds_judge (h.setTimer _ _)

theorem timerRead_runs (mb : Nat) : Runs s (execTimerRead mb s) := turn_runs fun _ _ h => holds_judge (h.setTimer _ _)

theorem timerGrant_runs (mb : Nat) : Runs s (execTimerGrant mb s) :=
  turn_runs fun _ _ h => holds_judge (holds_ite h (h.setTimer _ _))

theorem timerRevoke_runs (mb : Nat) : Runs s (execTimerRevoke mb s) :=
  turn_runs fun _ _ h => holds_judge (holds_ite h (h.setTimer _ _))

theorem Kept.setTrig (h : Kept s t) (k n : Nat) (o : Option Nat) : Kept s (t.setTrig k n o) :=
  ite (h.setEv fun w => ⟨w.1, w.2.1, wf_put _ _ _ w.2.2.1, w.2.2.2⟩) h.setTout

theorem trigGrant_runs (mb : Nat) : Runs s (execTrigGrant mb s) :=
  turn_runs fun _ _ h => holds_judge (holds_ite h (h.setTrig _ _ _))

theorem trigRevoke_runs (mb : Nat) : Runs s (execTrigRevoke mb s) :=
  turn_runs fun _ _ h => holds_judge (holds_ite h (Kept.ite (h.setTrig _ _ _) ((h.setTrig _ _ _).dropTarget _)))

theorem eventRoute_runs (mb : Nat) : Runs s (execEventRoute mb s) :=
  turn_runs fun _ _ h => holds_judge (h.setEv fun w => ⟨wf_put _ _ _ w.1, w.2⟩)

theorem Kept.setMask (h : Kept s t) (v : Nat) (b : Bool) : Kept s (t.setMask v b) := (h.maskVec _ _).decideVec _ _

theorem eventVector_runs (mb : Nat) : Runs s (execEventVector mb s) :=
  turn_runs fun _ _ h => holds_judge (h.setVec.setMask _ _)

theorem Kept.takeVec (h : Kept s t) (v : Nat) : Kept s (t.takeVec v) := (h.maskVec _ _).setVec

theorem Kept.setInt (h : Kept s t) (n : Nat) (o : Option Nat) : Kept s { t with ev := { t.ev with ints := put t.ev.ints n o } } :=
  h.setEv fun w => ⟨w.1, wf_put _ _ _ w.2.1, w.2.2⟩

theorem eventGrant_runs (mb : Nat) : Runs s (execEventGrant mb s) :=
  turn_runs fun _ _ h => holds_judge (holds_ite h (Kept.ite (h.setInt _ _) (h.takeVec _)))

theorem eventRevoke_runs (mb : Nat) : Runs s (execEventRevoke mb s) :=
  turn_runs fun _ _ h => holds_judge (holds_ite h (Kept.ite ((h.setInt _ _).dropTarget _) (h.setVec.dropTarget _)))

/-! ### Windows and peers -/

theorem Kept.setWindow (h : Kept s t) (f w : Nat) (x : Window) : Kept s (t.setWindow f w x) :=
  h.modFn fun y => ⟨y.1, y.2.1, wf_put _ _ _ y.2.2⟩

theorem xezanWindow_runs (mb : Nat) : Runs s (execXezanWindow mb s) := turn_runs fun _ _ h => holds_judge (h.setWindow _ _ _)

theorem xezanWindowUnbind_runs (mb : Nat) : Runs s (execXezanWindowUnbind mb s) :=
  turn_runs fun _ _ h => holds_judge (h.setWindow _ _ _)

theorem Kept.setPeer (h : Kept s t) (e : Nat) (x : Peer) : Kept s (t.setPeer e x) :=
  h.mk' (h9 := fun w => ⟨wf_put _ _ _ w.1, wf_filter _ _ w.2.1, wf_filter _ _ w.2.2.1, w.2.2.2⟩)

theorem xezanPeer_runs (mb : Nat) : Runs s (execXezanPeer mb s) := turn_runs fun _ _ h => holds_judge (h.setPeer _ _)

theorem xezanPeerUnbind_runs (mb : Nat) : Runs s (execXezanPeerUnbind mb s) :=
  turn_runs fun _ _ h => holds_judge (h.setPeer _ _)

/-! ### Firmware -/

theorem gafferWf_setSlot {g : Gaffer} (h : gafferWf g) (n : Nat) (x : Option FlashSlot) : gafferWf (g.setSlot n x) := by
  unfold Gaffer.setSlot; split <;> exact h

theorem Kept.flashStep (h : Kept s t) (mb : Nat) (o : List FlashOp) (st : BitVec 8) (l : List Byte) :
    Kept s (t.flashStep mb o st l) := by
  unfold State.flashStep
  dsimp only
  exact h.setGaf fun w => gafferWf_setSlot w _ _

theorem Kept.waitFlash (h : Kept s t) (mb : Nat) (b : Bool) : Kept s (t.waitFlash mb b) := h.modMailbox

theorem fwStageBegin_runs (mb : Nat) : Runs s (execFwStageBegin mb s) :=
  turn_runs fun _ _ h => holds_judge ((((Kept.setGaf h).trace _ _ _).flashStep _ _ _ _).waitFlash _ _)

theorem fwStageData_runs (mb : Nat) : Runs s (execFwStageData mb s) :=
  turn_runs fun _ _ h => holds_judge ((((Kept.setGaf h).trace _ _ _).flashStep _ _ _ _).waitFlash _ _)

theorem fwStageEnd_runs (mb : Nat) : Runs s (execFwStageEnd mb s) := by
  refine turn_runs fun t x h => holds_ite trivial (holds_ite trivial ?_)
  refine Kept.waitFlash (Kept.flashStep ?_ _ _ _ _) _ _
  exact Kept.ite (((Kept.setGaf h).traceAs _ _ _ _).log _ _ _ |>.raise _) (((Kept.setGaf h).traceAs _ _ _ _).log _ _ _)

theorem fwStageCancel_runs (mb : Nat) : Runs s (execFwStageCancel mb s) := turn_runs fun _ _ h => holds_judge h.setGaf

theorem flashOperationDone_runs : Runs s (execFlashOperationDone s) := by
  unfold execFlashOperationDone
  split
  · exact runs_same s
  · refine Runs.ite (runs_same s) (Kept.runs (Kept.mbReply ?_ _ _ _))
    exact Kept.ite (Kept.markApplied (Kept.modMailbox (Kept.setGaf (Kept.refl s))) _ _ _)
      (Kept.modMailbox (Kept.setGaf (Kept.refl s)))

theorem fwActivate_runs (mb : Nat) : Runs s (execFwActivate mb s) := by
  refine turn_runs fun t x h => holds_ite trivial (holds_ite trivial ?_)
  exact (Kept.setGaf h).modMailbox

theorem Kept.endActivation (h : Kept s t) (a : Activation) (st : BitVec 8) (l : List Byte) :
    Kept s (t.endActivation a st l) := by
  unfold State.endActivation
  refine Kept.mbReply (ite (Kept.markApplied (Kept.modMailbox ?_) _ _ _) (Kept.modMailbox ?_)) _ _ _ <;>
    exact (Kept.setGaf h).traceAs _ _ _ _

theorem fwActivateLoadDone_runs (b : Bool) : Runs s (execFwActivateLoadDone b s) := by
  unfold execFwActivateLoadDone
  split
  · exact runs_same s
  · exact Runs.ite (Runs.ite (Kept.setGaf (Kept.refl s)).runs ((Kept.refl s).endActivation _ _ _).runs) (runs_same s)

theorem fwActivatePause_runs : Runs s (execFwActivatePause s) := by
  unfold execFwActivatePause
  dsimp only
  split
  · exact runs_same s
  · exact Runs.ite ((Kept.raiseUp (Kept.setGaf (Kept.refl s)) _).log _ _ _).runs (runs_same s)

theorem fwActivateResume_runs (m : Nat) : Runs s (execFwActivateResume m s) := by
  unfold execFwActivateResume
  dsimp only
  split
  · exact runs_same s
  · exact Runs.ite (Kept.flushLog (Kept.setGaf (Kept.refl s))).runs (runs_same s)

theorem fwActivateTimeout_runs (m : Nat) : Runs s (execFwActivateTimeout m s) := by
  unfold execFwActivateTimeout
  dsimp only
  split
  · exact runs_same s
  · exact Runs.ite ((((Kept.flushLog (Kept.setGaf (Kept.refl s))).raiseUp _).log _ _ _).rollBack _).runs (runs_same s)

theorem Kept.programRecord (h : Kept s t) (a : Activation) (v : FlashSlot) : Kept s (t.programRecord a v) := by
  unfold State.programRecord
  dsimp only
  exact h.setGaf fun w => gafferWf_setSlot w _ _

theorem fwActivateRecord_runs : Runs s (execFwActivateRecord s) := by
  unfold execFwActivateRecord
  dsimp only
  split
  · split
    · rename_i a v _ _ _
      have k := (Kept.refl s).programRecord a v
      exact ((((Kept.ite (k.gafferUp _ _) k).raise _).logActivated _ _ _ _).endActivation _ _ _).runs
    · exact runs_same s
  · exact runs_same s

end Sys2Proof.Machine
end

