-- ==== Sys2Proof/Laws/Turn.lean ====
section
/-! SUPPORT. A mailbox command that is decided now (R340 to R344): its row's turn is its verdict, carried out on the state
with the command taken. -/

set_option Elab.async false

namespace Sys2Proof.Machine

variable {s : State} {mb : Nat} {mine : Mailbox → Bool} {served adm : Bool} {used : List (Nat × Nat)}
  {body : State → Mailbox → Verdict}

theorem turnOf_fresh (h : s.Fresh mb) (hm : mine (s.mailbox mb) = true) (ha : adm = true → mb = 16)
    (hz : reqZeroOutside (s.mailbox mb) used = true) :
    s.turnOf mb mine served adm used body = (s.takenBy mb).conclude mb (body (s.takenBy mb) (s.mailbox mb)) := by
  obtain ⟨h1, h2, h3⟩ := h
  have hadm : (adm && mb != 16) = false := by
    cases adm with
    | false => rfl
    | true => simp [ha rfl]
  have hgo : ∀ t : State, t.gaf.recovery = false →
      State.turnOf.go mb served adm used body t (s.mailbox mb) = t.conclude mb (body t (s.mailbox mb)) := by
    intro t ht
    unfold State.turnOf.go
    rw [ht, hadm, hz]
    rfl
  unfold State.turnOf
  simp only [h1, hm, Bool.and_self, Bool.not_true, Bool.false_eq_true, if_false]
  split
  · rename_i r hr
    rw [if_neg (h3 r hr)]
    exact hgo (s.takenBy mb) h2
  · exact hgo (s.takenBy mb) h2

/-- A row whose requests are those of one command code. -/
theorem turnOf_issues {code : Nat} (h : s.Issues mb code used) (hm : isCmd code (s.mailbox mb) = true → mine (s.mailbox mb) = true)
    (ha : adm = true → mb = 16) :
    s.turnOf mb mine served adm used body = (s.takenBy mb).conclude mb (body (s.takenBy mb) (s.mailbox mb)) :=
  turnOf_fresh h.1 (hm (by simp [isCmd, h.2.1])) ha h.2.2

/-- Checks that all pass leave the effect. -/
theorem judge_nil (ok : Verdict) : judge [] ok = ok := rfl

theorem judge_pass {b : Bool} {st : BitVec 8} {l : List (Bool × BitVec 8)} {ok : Verdict} (h : b = false) :
    judge ((b, st) :: l) ok = judge l ok := by subst h; rfl

theorem judge_fail {b : Bool} {st : BitVec 8} {l : List (Bool × BitVec 8)} {ok : Verdict} (h : b = true) :
    judge ((b, st) :: l) ok = .refuse st [] := by subst h; rfl

end Sys2Proof.Machine
end

