-- ==== Sys2Proof/Laws/Access.lean ====
section
/-! SUPPORT. What the shared operations give back, one lemma each: writing an entry twice, the first element that
matches, a read of the register port, the choice of a scheduler (R142), the run of visible entries (R73), and what taking
a mailbox command leaves alone. -/

set_option Elab.async false

namespace Sys2Proof.Machine

variable {s : State}

/-- Equal states are equal outcomes. -/
theorem outcome_next {a b : State} (h : a = b) : (Host.Outcome.next a : Host.Outcome State Fault Refusal) = .next b := by
  rw [h]

/-! ### Tables -/

theorem put_put {α : Type} (l : Tbl α) (n : Nat) (a b : α) : put (put l n a) n b = put l n b := by
  induction l with
  | nil => simp [put]
  | cons e t ih =>
    obtain ⟨k, w⟩ := e
    simp only [put]
    split
    · simp [put]
    · split
      · simp [put]
      · simp [put, *]

@[simp] theorem State.setChan_setChan (s : State) (p : Nat) (c d : Chan) : (s.setChan p c).setChan p d = s.setChan p d := by
  unfold State.setChan; simp [put_put]

@[simp] theorem State.setFn_setFn (s : State) (f : Nat) (x y : Fn) : (s.setFn f x).setFn f y = s.setFn f y := by
  unfold State.setFn; simp [put_put]

@[simp] theorem State.setPort_setPort (s : State) (p : Nat) (x y : Port) : (s.setPort p x).setPort p y = s.setPort p y := by
  unfold State.setPort; simp [put_put]

@[simp] theorem State.setBench_setBench (s : State) (b : Nat) (x y : Bench) :
    (s.setBench b x).setBench b y = s.setBench b y := by
  unfold State.setBench; simp [put_put]

@[simp] theorem State.setMailbox_setMailbox (s : State) (m : Nat) (x y : Mailbox) :
    (s.setMailbox m x).setMailbox m y = s.setMailbox m y := by
  unfold State.setMailbox; simp [put_put]

/-- The first match of a list, split where it stands. -/
theorem takeFirst_some {α : Type} (q : α → Bool) (old : List α) (r : α) (rest : List α) (h : q r = true)
    (ho : ∀ o ∈ old, q o = false) : takeFirst q (old ++ r :: rest) = some (r, old ++ rest) := by
  induction old with
  | nil => simp [takeFirst, h]
  | cons a t ih =>
    have := ih (fun o ho' => ho o (List.mem_cons_of_mem _ ho'))
    simp [takeFirst, this, ho a List.mem_cons_self]

theorem takeFirst_none {α : Type} (q : α → Bool) (l : List α) (ho : ∀ o ∈ l, q o = false) : takeFirst q l = none := by
  induction l with
  | nil => simp [takeFirst]
  | cons a t ih => simp [takeFirst, ih (fun o h => ho o (List.mem_cons_of_mem _ h)), ho a List.mem_cons_self]

/-! ### The register port (R39, R40) -/

theorem protRefused_of {a : Nat} {prot : BitVec 3} (h1 : 0x200018 ≤ a)
    (h2 : prot.getLsbD 0 = false ∨ prot.getLsbD 1 = true) : protRefused a prot = true := by
  unfold protRefused isAdministrative
  rw [decide_eq_true h1]
  rcases h2 with h | h <;> rw [h] <;> cases prot.getLsbD 0 <;> rfl

theorem not_protRefused_of {a : Nat} {prot : BitVec 3}
    (h : a < 0x200018 ∨ (prot.getLsbD 0 = true ∧ prot.getLsbD 1 = false)) : protRefused a prot = false := by
  unfold protRefused isAdministrative
  rcases h with h | ⟨h, h'⟩
  · rw [decide_eq_false (by omega)]; rfl
  · rw [h, h']; simp

/-- A read that is carried out. -/
theorem apbRead_done {a : BitVec 22} {prot : BitVec 3} (hu : hclkUp s = true)
    (hk : regKind s.member (wordAddr a) ≠ .hole) (hp : protRefused (wordAddr a) prot = false) :
    s.apbRead a prot
      = { s.readEffect (wordAddr a) with apb := { prdata := s.regValue (wordAddr a), pslverr := false } } := by
  unfold State.apbRead; simp [hu, hk, hp]

/-! ### The schedulers (R142) -/

theorem nextAfter_mem {last : Nat} {l : List Nat} (h : ∃ i ∈ l, i < 16) :
    ∃ a, nextAfter last l = some a ∧ a ∈ l ∧ a < 16 := by
  obtain ⟨i, hi, h16⟩ := h
  unfold nextAfter
  cases hh : ((List.range 16).map fun j => (last + 1 + j) % 16).find? fun i => l.contains i with
  | none =>
    exfalso
    rw [List.find?_eq_none] at hh
    have := hh i (by
      rw [List.mem_map]
      refine ⟨(i + 16 * (last + 1) - (last + 1)) % 16, ?_, by omega⟩
      rw [List.mem_range]; omega)
    simp at this; exact this hi
  | some a =>
    have h1 := List.find?_some hh
    have h2 := List.mem_of_find?_eq_some hh
    rw [List.mem_map] at h2
    obtain ⟨j, _, e⟩ := h2
    exact ⟨a, rfl, by simpa using h1, by omega⟩

/-- A turn goes to one of the candidates and is then running. -/
theorem turn_spec {b : Nat} {x : ClassState} {cand : List Nat} (h : ∃ i ∈ cand, i < 16) (hc : ∀ i ∈ cand, i < 16) :
    ∃ a c, s.turn b x cand = some (a, c) ∧ a ∈ cand ∧ a < 16 ∧ c.last = a ∧ c.inTurn = true := by
  unfold State.turn
  split
  · rename_i hh; simp at hh
    exact ⟨_, _, rfl, hh.1.2, hc _ hh.1.2, rfl, hh.1.1⟩
  · split
    · rename_i i hi
      unfold nextAfter at hi
      have h1 := List.find?_some hi
      simp at h1
      exact ⟨_, _, rfl, h1.1, hc _ h1.1, rfl, rfl⟩
    · obtain ⟨a, h1, h2, h3⟩ := nextAfter_mem (last := x.last) h
      rw [h1]
      exact ⟨a, _, rfl, h2, h3, rfl, rfl⟩

/-- The candidates of a class are the channels of the bench with a burst of it, under step 1 one that fits the cap. -/
theorem mem_candidates {b pick k i : Nat} {dir : Dir} {step1 : Bool} :
    i ∈ s.candidates b dir pick k step1 ↔ i < 16 ∧ ∃ x, s.nextBid b dir pick k i = some x
      ∧ (step1 = true → k ≠ 3 →
          (((s.bench b).sched dir).cl k).count + x.txn.beats ≤ capOf ((s.bench b).cap dir) k) := by
  unfold State.candidates
  simp only [List.mem_filter, List.mem_range]
  constructor
  · rintro ⟨h1, h2⟩
    refine ⟨h1, ?_⟩
    cases hn : s.nextBid b dir pick k i with
    | none => rw [hn] at h2; cases h2
    | some x =>
      rw [hn] at h2; simp at h2
      refine ⟨x, rfl, fun h hk => ?_⟩
      rcases h2 with (h2 | h2) | h2
      · simp [h] at h2
      · exact (hk h2).elim
      · exact h2
  · rintro ⟨h1, x, h2, h3⟩
    refine ⟨h1, ?_⟩
    rw [h2]; simp
    cases step1
    · simp
    · by_cases hk : k = 3
      · simp [hk]
      · right; exact h3 rfl hk

/-! ### Fetched entries (R73) -/

/-- The run of visible entries is accepted, and the scan stops at the first that is not visible. -/
theorem acceptEntries_run (ds : List Desc) : ∀ (n : Nat) (r : Machine.Ring), n < 2 ^ (r.order + 1) →
    r.f < 2 ^ (r.order + 1) → n ≤ ds.length →
    (∀ j, j < n → ds[j]?.map Desc.phase = some (expectedPhase r.order (ringAdd r.order r.f j))) →
    (n = ds.length ∨ ds[n]?.map Desc.phase ≠ some (expectedPhase r.order (ringAdd r.order r.f n))) →
    acceptEntries r ds = ({ r with
      f := ringAdd r.order r.f n
      accepted := r.accepted ++ (List.range n).map fun j =>
        { idx := ringAdd r.order r.f j, desc := ds[j]?.getD {} } }, decide (n = ds.length)) := by
  induction ds with
  | nil =>
    intro n r hn hr hl h h'
    simp at hl; subst hl
    simp [acceptEntries, ringAdd]; rw [Nat.mod_eq_of_lt hr]
  | cons d t ih =>
    intro n r hn hr hl h h'
    cases n with
    | zero =>
      simp [ringAdd, Nat.mod_eq_of_lt hr] at h'
      unfold acceptEntries; rw [if_neg h']; simp [ringAdd, Nat.mod_eq_of_lt hr]
    | succ n =>
      have h0 := h 0 (by simp)
      simp [ringAdd, Nat.mod_eq_of_lt hr] at h0
      unfold acceptEntries
      have e : ∀ j, ringAdd r.order (ringNext r.order r.f) j = ringAdd r.order r.f (j + 1) := by
        intro j; simp [ringAdd, ringNext]; congr 1; omega
      rw [if_pos h0, ih n]
      · simp [List.range_succ_eq_map, e, Function.comp_def]
        simp [ringAdd, Nat.mod_eq_of_lt hr]
      · simp; omega
      · simp [ringNext]; exact Nat.mod_lt _ (by positivity)
      · simp at hl; exact hl
      · intro j hj
        have := h (j + 1) (by omega)
        simp at this
        simp [this, e]
      · rcases h' with h' | h'
        · left; simp at h'; exact h'
        · right; simp at h'; simp [e]; exact h'

/-! ### Mailbox commands (R340) -/

section
variable (s : State) (mb : Nat)

@[simp] theorem State.takenBy_member : (s.takenBy mb).member = s.member := rfl
@[simp] theorem State.takenBy_chan (p : Nat) : (s.takenBy mb).chan p = s.chan p := rfl
@[simp] theorem State.takenBy_chans : (s.takenBy mb).chans = s.chans := rfl
@[simp] theorem State.takenBy_fn (f : Nat) : (s.takenBy mb).fn f = s.fn f := rfl
@[simp] theorem State.takenBy_fns : (s.takenBy mb).fns = s.fns := rfl
@[simp] theorem State.takenBy_port (p : Nat) : (s.takenBy mb).port p = s.port p := rfl
@[simp] theorem State.takenBy_bench (b : Nat) : (s.takenBy mb).bench b = s.bench b := rfl
@[simp] theorem State.takenBy_pchOf (f sl : Nat) : (s.takenBy mb).pchOf f sl = s.pchOf f sl := rfl
@[simp] theorem State.takenBy_ev : (s.takenBy mb).ev = s.ev := rfl
@[simp] theorem State.takenBy_cul : (s.takenBy mb).cul = s.cul := rfl
@[simp] theorem State.takenBy_opt : (s.takenBy mb).opt = s.opt := rfl
@[simp] theorem State.takenBy_xez : (s.takenBy mb).xez = s.xez := rfl
@[simp] theorem State.takenBy_gaf : (s.takenBy mb).gaf = s.gaf := rfl
@[simp] theorem State.takenBy_txns : (s.takenBy mb).txns = s.txns := rfl
@[simp] theorem State.takenBy_timer (n : Nat) : (s.takenBy mb).timer n = s.timer n := rfl
@[simp] theorem State.takenBy_vec (v : Nat) : (s.takenBy mb).vec v = s.vec v := rfl
@[simp] theorem State.takenBy_chanQuiet (p : Nat) : (s.takenBy mb).chanQuiet p = s.chanQuiet p := rfl
@[simp] theorem State.takenBy_benchIdle (b : Nat) : (s.takenBy mb).benchIdle b = s.benchIdle b := rfl
@[simp] theorem State.takenBy_cruReserved : (s.takenBy mb).cruReserved = s.cruReserved := rfl
@[simp] theorem State.takenBy_portNamed (p : Nat) : (s.takenBy mb).portNamed p = s.portNamed p := rfl
@[simp] theorem State.takenBy_reserveSum (f r : Nat) : (s.takenBy mb).reserveSum f r = s.reserveSum f r := rfl
@[simp] theorem State.takenBy_cuFree : (s.takenBy mb).cuFree = s.cuFree := rfl
@[simp] theorem State.takenBy_unusedSum : (s.takenBy mb).unusedSum = s.unusedSum := rfl
@[simp] theorem State.takenBy_gateUsed (k n : Nat) : (s.takenBy mb).gateUsed k n = s.gateUsed k n := rfl
@[simp] theorem State.takenBy_party (f : Nat) : (s.takenBy mb).party f = s.party f := rfl
@[simp] theorem State.takenBy_trigHolder (k n : Nat) : (s.takenBy mb).trigHolder k n = s.trigHolder k n := rfl
@[simp] theorem State.takenBy_eventParty (m : Nat) (x : Mailbox) : (s.takenBy mb).eventParty m x = s.eventParty m x := rfl
@[simp] theorem State.takenBy_routeBad (w : Nat) (x : Mailbox) : (s.takenBy mb).routeBad w x = s.routeBad w x := rfl
@[simp] theorem State.takenBy_sourceOwner (n : Nat) : (s.takenBy mb).sourceOwner n = s.sourceOwner n := rfl
@[simp] theorem State.takenBy_holdsTarget (w : Nat) (r : Route) : (s.takenBy mb).holdsTarget w r = s.holdsTarget w r := rfl
@[simp] theorem State.takenBy_vecHolder (v : Nat) : (s.takenBy mb).vecHolder v = s.vecHolder v := rfl
@[simp] theorem State.takenBy_vecRouted (v : Nat) : (s.takenBy mb).vecRouted v = s.vecRouted v := rfl

end

/-- A row's turn on a command decided now is the verdict of its checks. -/
theorem turnOf_decided {mb code : Nat} {used : List (Nat × Nat)} {mine : Mailbox → Bool} {served adm : Bool}
    {body : State → Mailbox → Verdict} {v : Verdict} (h : s.Issues mb code used)
    (hm : isCmd code (s.mailbox mb) = true → mine (s.mailbox mb) = true) (ha : adm = true → mb = 16)
    (hv : body (s.takenBy mb) (s.mailbox mb) = v) :
    Host.Outcome.next (s.turnOf mb mine served adm used body) = s.decided mb v := by
  rw [turnOf_issues h hm ha, hv]; rfl

end Sys2Proof.Machine
end

