-- ==== Sys2Proof/Laws/Raise.lean ====
section
/-! SUPPORT. What a raise of an event, a signal and a log record leave alone (R170 to R172, R152, R355). -/

set_option Elab.async false

namespace Sys2Proof.Machine

variable {s t : State}

/-- `t` has every part of `s` but the channels, functions, ports, events and transactions, which a raise may touch. -/
structure Aside (s t : State) : Prop where
  member : t.member = s.member
  pending : t.pending = s.pending
  edges : t.edges = s.edges
  tap : t.tap = s.tap
  wrapper : t.wrapper = s.wrapper
  apb : t.apb = s.apb
  regq : t.regq = s.regq
  now : t.now = s.now
  time : t.time = s.time
  opt : t.opt = s.opt
  rst : t.rst = s.rst
  mailboxes : t.mailboxes = s.mailboxes
  goOrder : t.goOrder = s.goOrder
  goTied : t.goTied = s.goTied
  goCount : t.goCount = s.goCount
  benches : t.benches = s.benches
  cru : t.cru = s.cru
  cul : t.cul = s.cul
  xez : t.xez = s.xez
  safety : t.safety = s.safety
  gaf : t.gaf = s.gaf
  glob : t.glob = s.glob

theorem Aside.refl (s : State) : Aside s s := by constructor <;> rfl

theorem Aside.trans {u : State} (a : Aside s t) (b : Aside t u) : Aside s u := by
  constructor <;> (first
    | exact b.member.trans a.member | exact b.pending.trans a.pending | exact b.apb.trans a.apb
    | exact b.edges.trans a.edges | exact b.tap.trans a.tap | exact b.wrapper.trans a.wrapper
    | exact b.goTied.trans a.goTied | exact b.goCount.trans a.goCount
    | exact b.regq.trans a.regq | exact b.now.trans a.now | exact b.time.trans a.time | exact b.opt.trans a.opt
    | exact b.rst.trans a.rst | exact b.mailboxes.trans a.mailboxes | exact b.goOrder.trans a.goOrder
    | exact b.benches.trans a.benches | exact b.cru.trans a.cru | exact b.cul.trans a.cul | exact b.xez.trans a.xez
    | exact b.safety.trans a.safety | exact b.gaf.trans a.gaf | exact b.glob.trans a.glob)

/-- An update of the parts that a raise may touch. -/
theorem Aside.upd (h : Aside s t) {chans fns ev txns nextId ports} :
    Aside s { t with chans := chans, fns := fns, ev := ev, txns := txns, nextId := nextId, ports := ports } :=
  h.trans (by constructor <;> rfl)

theorem Aside.ite {c : Prop} [Decidable c] {a b : State} (ha : Aside s a) (hb : Aside s b) :
    Aside s (if c then a else b) := by split <;> assumption

theorem Aside.setPending (h : Aside s t) (n : Nat) : Aside s (t.setPending n) := by
  unfold State.setPending; exact ite h.upd (ite h.upd (ite h.upd h.upd))

theorem Aside.decideVec (h : Aside s t) (v : Nat) (b : Bool) : Aside s (t.decideVec v b) := by
  unfold State.decideVec; exact ite h.upd h

theorem Aside.raiseVec (h : Aside s t) (v : Nat) : Aside s (t.raiseVec v) := by
  unfold State.raiseVec; exact Aside.decideVec h.upd v false

theorem Aside.raiseSignal (h : Aside s t) (f k : Nat) : Aside s (t.raiseSignal f k) := by
  unfold State.raiseSignal
  split
  · exact h.upd
  · exact ite h.upd h.upd

theorem Aside.deliver (h : Aside s t) (r : Route) : Aside s (t.deliver r) := by
  unfold State.deliver
  split
  · exact h
  · exact h
  · exact h.raiseVec _
  · exact h.upd
  · exact h.raiseSignal _ _

/-- Everything that a raise leaves alone. -/
theorem Aside.raise (h : Aside s t) (n : Nat) : Aside s (t.raise n) := (h.setPending n).deliver _

theorem Aside.raiseUp (h : Aside s t) (n : Nat) : Aside s (t.raiseUp n) := ite (h.raise n) h

theorem log_mailboxes (s : State) (k src : Nat) (d : List Byte) : (s.log k src d).mailboxes = s.mailboxes := by
  unfold State.log
  split
  · rfl
  · split
    · rfl
    · exact (Aside.raise (Aside.refl _) 1455).mailboxes

theorem traceAs_mailboxes (s : State) (mb : Nat) (x : Mailbox) (st : BitVec 8) (l : Trace) :
    (s.traceAs mb x st l).mailboxes = s.mailboxes := by
  unfold State.traceAs
  split
  · rfl
  · split
    · exact log_mailboxes _ _ _ _
    · rfl
  · split
    · exact log_mailboxes _ _ _ _
    · rfl

theorem trace_mailboxes (s : State) (mb : Nat) (x : Mailbox) (l : Trace) : (s.trace mb x l).mailboxes = s.mailboxes :=
  traceAs_mailboxes _ _ _ _ _

end Sys2Proof.Machine
end

