-- ==== Sys2Proof/WellFormed.lean ====
section
/-! DEFINITION. Operand ranges of the commands: the address spaces of the register map (chapter 14) and the largest
member of the family (Table 1-2). A command whose operand names nothing has no effect (assumption 1). -/

namespace Sys2Proof

/-- A physical channel, 16 per bench over 8 benches (R17). -/
def okPch (p : Nat) : Bool := decide (p < 128)
/-- A function (R24). -/
def okFn (f : Nat) : Bool := decide (f < 16)
/-- A slot of a function (R21). -/
def okSlot (s : Nat) : Bool := decide (s < 128)
/-- A bench (R17). -/
def okBench (b : Nat) : Bool := decide (b < 8)
/-- A memory port (R41). -/
def okMPort (p : Nat) : Bool := decide (p < 8)
/-- A stream port (R17). -/
def okSPort (p : Nat) : Bool := decide (p < 64)
/-- A mailbox; 16 is the administrative one (Table 13-2). -/
def okMb (m : Nat) : Bool := decide (m ≤ 16)
/-- A domain of CLK_STABLE (Table 2-2). -/
def okDomain (d : Nat) : Bool := decide (d < 9)
/-- A Xezan port. -/
def okXPort (p : Nat) : Bool := decide (p < 2)

/-- A faulty context word names channels and ports that may exist (R282). -/
def CtxFault.wf (x : CtxFault) : Bool :=
  match x.word with
  | .channels l | .xezan l => l.all okPch
  | .link p => okSPort p
  | .cullet => true

/-- Every operand of a command lies in the range of what it names. -/
def Instr.wf : Instr → Bool
  | .registerWrite .. => true
  | .apbHoleAccess .. => true
  | .timeSnapshot win _ => decide (win ≤ 16)
  | .sCauseClear .. => true
  | .haltSeenClear fn slot _ => okFn fn && okSlot slot
  | .doorbell fn slot _ _ => okFn fn && okSlot slot
  | .pushAreaWrite fn slot word _ _ => okFn fn && okSlot slot && decide (word < 64)
  | .pushCommit fn slot _ _ => okFn fn && okSlot slot
  | .crHeadWrite fn ring _ _ => okFn fn && decide (ring < 16)
  | .sigRaise fn _ _ => okFn fn
  | .spFlush fn _ _ => okFn fn
  | .inboundFlushEdge port => okSPort port
  | .outboundFlushEdge port => okSPort port
  | .restart fn _ => okFn fn
  | .go fn slot _ _ => okFn fn && okSlot slot
  | .lehr fn slot _ _ => okFn fn && okSlot slot
  | .abort fn slot _ _ => okFn fn && okSlot slot
  | .resume fn slot _ _ => okFn fn && okSlot slot
  | .gobShare fn _ _ _ => okFn fn
  | .gobRelease fn _ => okFn fn
  | .gobFree fn _ _ => okFn fn
  | .gobBadOp fn _ _ => okFn fn
  | .gobOpDone fn => okFn fn
  | .forceFree .. => true
  | .forceFreeApply gob => decide (gob < 2 ^ 27)
  | .fetchResult pch beats _ => okPch pch && decide (beats.length ≤ 32)
  | .reReadReady pch => okPch pch
  | .descriptorStart pch ctx => okPch pch && ctx.all CtxFault.wf
  | .schedulerGrant bench _ _ _ faulty => okBench bench && faulty.ctx.all CtxFault.wf
  | .addressStateScan bench _ => okBench bench
  | .readResponse port _ beat _ => okMPort port && beat.faulty.ctx.all CtxFault.wf
  | .writeResponse port _ _ => okMPort port
  | .reheat _ => true
  | .descriptorComplete pch => okPch pch
  | .coalTimeExpiry pch => okPch pch
  | .recordAllocate pch => okPch pch
  | .completionWriteResponse port _ _ => okMPort port
  | .msiTimeExpiry vec => decide (vec < 2048)
  | .trigOutPulse n => decide (n < 16)
  | .lehrStopComplete pch => okPch pch
  | .abortComplete pch => okPch pch
  | .channelHalt pch => okPch pch
  | .passStart pch => okPch pch
  | .passComplete pch => okPch pch
  | .timerFire timer => decide (timer < 64)
  | .trigIn n => decide (n < 16)
  | .timeSample .. => true
  | .timeStall => true
  | .timeStallWithdrawn => true
  | .staleEdge pch => okPch pch
  | .packetRelease port => okSPort port
  | .segmentCheck pch _ _ _ _ => okPch pch
  | .stallWatchdogFire pch => okPch pch
  | .clockLoss domain => okDomain domain
  | .refclkLoss => true
  | .lockstepMismatch => true
  | .safeAck _ => true
  | .scrubCell ctx found => decide (found.length ≤ 64) && ctx.all CtxFault.wf
  | .scrubRewrite bank _ => decide (bank < 16)
  | .inboundBeatAccept port _ => okSPort port
  | .inboundBeatPop port => okSPort port
  | .outboundBeatAccept port _ => okSPort port
  | .gobGrant => true
  | .gobWaitExpiry pch => okPch pch
  | .chainCommit pch => okPch pch
  | .handleResolve pch ctx => okPch pch && ctx.all CtxFault.wf
  | .gobMemberFreed gob ctx => decide (gob < 2 ^ 27) && ctx.all CtxFault.wf
  | .freeStackSpill => true
  | .freeStackFill => true
  | .sweepRecord record head => record.all CtxFault.wf && head.all CtxFault.wf
  | .xezanPlaceGrant _ => true
  | .xezanFrameSent port => okXPort port
  | .xezanRequestReceive port frame _ _ => okXPort port && decide (frame.length ≤ 4184)
  | .xezanRequestTurn peer chan => decide (peer < 256) && okPch chan
  | .xezanHoldTimeout peer chan => decide (peer < 256) && okPch chan
  | .xezanResponseSend port _ _ => okXPort port
  | .xezanResponseArrival port frame _ => okXPort port && decide (frame.length ≤ 4184)
  | .xezanRequestTimeout _ => true
  | .coldReset => true
  | .warmResetPin => true
  | .debugReset => true
  | .resetRelease => true
  | .domainRelease domain => okDomain domain
  | .optWordRead _ => true
  | .optAckTimeout => true
  | .crucibleFillDone => true
  | .gafferBootDone _ _ flash =>
    decide (flash.slotA.image.length ≤ 131072) && decide (flash.slotB.image.length ≤ 131072)
  | .gafferWatchdog => true
  | .resetDone fn => okFn fn
  | .benchResetDone bench => okBench bench
  | .thermalSample sensor _ => decide (sensor < 4)
  | .droopExcursion sensor _ => decide (sensor < 3)
  | .sensorFault sensor => decide (sensor < 16)
  | .clockFreqMeasure domain _ => okDomain domain
  | .getInfo mb => okMb mb
  | .unknownCommand mb => okMb mb
  | .funcEnable mb => okMb mb
  | .funcDisable mb => okMb mb
  | .chanAssign mb => okMb mb
  | .chanUnassign mb => okMb mb
  | .chanConfig mb => okMb mb
  | .ringBind mb => okMb mb
  | .cplRingBind mb => okMb mb
  | .streamConfig mb => okMb mb
  | .streamRevoke mb => okMb mb
  | .wmSet mb => okMb mb
  | .quotaSet mb => okMb mb
  | .poolModeFcfs mb => okMb mb
  | .poolModeQuota mb => okMb mb
  | .poolModeInit mb => okMb mb
  | .timerSet mb => okMb mb
  | .timerRead mb => okMb mb
  | .timerGrant mb => okMb mb
  | .timerRevoke mb => okMb mb
  | .trigGrant mb => okMb mb
  | .trigRevoke mb => okMb mb
  | .eventRoute mb => okMb mb
  | .eventVector mb => okMb mb
  | .eventGrant mb => okMb mb
  | .eventRevoke mb => okMb mb
  | .xezanWindow mb => okMb mb
  | .xezanWindowUnbind mb => okMb mb
  | .xezanPeer mb => okMb mb
  | .xezanPeerUnbind mb => okMb mb
  | .freshSet mb => okMb mb
  | .safetyConfig mb => okMb mb
  | .sensorRead mb => okMb mb
  | .sensorSet mb => okMb mb
  | .sensorClear mb => okMb mb
  | .logRead mb => okMb mb
  | .fwStageBegin mb => okMb mb
  | .fwStageData mb => okMb mb
  | .fwStageEnd mb => okMb mb
  | .fwStageCancel mb => okMb mb
  | .flashOperationDone => true
  | .fwActivate mb => okMb mb
  | .fwActivateLoadDone _ => true
  | .fwActivatePause => true
  | .fwActivateResume _ => true
  | .fwActivateTimeout _ => true
  | .fwActivateRecord => true
  | .funcReset mb => okMb mb
  | .benchReset mb => okMb mb
  | .warmReset mb => okMb mb
  | .addressHandshake port _ => okMPort port
  | .registerRead .. => true
  | .droopExcursionEnd sensor _ => decide (sensor < 3)

end Sys2Proof
end

