-- ==== Sys2Proof/Tests/Slice0.lean ====
section
/-! SUPPORT. Tests: the ill-formed operands that WellFormed refuses, the manual's worked examples, single steps, and for
every statement with hypotheses a state and operands that meet them. Expected values come from the manual's text, as each
test's comment says. -/

namespace Sys2Proof.Tests

open Sys2Proof Sys2Proof.Machine

set_option Elab.async false

/-! ### Well-formed operands: one ill-formed command for each check -/

theorem test_wf_channel_slot : (Instr.doorbell 16 0 0 15).wf = false ∧ (Instr.doorbell 0 128 0 15).wf = false
    ∧ (Instr.doorbell 15 127 0 15).wf = true := by decide

theorem test_wf_window : (Instr.timeSnapshot 17 0).wf = false ∧ (Instr.timeSnapshot 16 0).wf = true := by decide

theorem test_wf_push_word : (Instr.pushAreaWrite 0 0 64 0 15).wf = false
    ∧ (Instr.pushAreaWrite 0 0 63 0 15).wf = true := by decide

theorem test_wf_completion_ring : (Instr.crHeadWrite 0 16 0 15).wf = false ∧ (Instr.crHeadWrite 0 15 0 15).wf = true := by
  decide

theorem test_wf_channel : (Instr.channelHalt 128).wf = false ∧ (Instr.channelHalt 127).wf = true := by decide

theorem test_wf_function : (Instr.resetDone 16).wf = false ∧ (Instr.resetDone 15).wf = true := by decide

theorem test_wf_bench : (Instr.benchResetDone 8).wf = false ∧ (Instr.benchResetDone 7).wf = true := by decide

theorem test_wf_memory_port : (Instr.addressHandshake 8 ⟨.read, false⟩).wf = false
    ∧ (Instr.addressHandshake 7 ⟨.write, false⟩).wf = true := by decide

theorem test_wf_stream_port : (Instr.packetRelease 64).wf = false ∧ (Instr.packetRelease 63).wf = true := by decide

theorem test_wf_mailbox : (Instr.getInfo 17).wf = false ∧ (Instr.getInfo 16).wf = true := by decide

theorem test_wf_domain : (Instr.clockLoss 9).wf = false ∧ (Instr.clockLoss 8).wf = true := by decide

theorem test_wf_xezan : (Instr.xezanFrameSent 2).wf = false ∧ (Instr.xezanFrameSent 1).wf = true
    ∧ (Instr.xezanRequestTurn 256 0).wf = false ∧ (Instr.xezanRequestTurn 255 127).wf = true
    ∧ (Instr.xezanRequestTurn 0 128).wf = false := by decide

theorem test_wf_gob : (Instr.forceFreeApply (2 ^ 27)).wf = false ∧ (Instr.forceFreeApply (2 ^ 27 - 1)).wf = true := by decide

theorem test_wf_vector : (Instr.msiTimeExpiry 2048).wf = false ∧ (Instr.msiTimeExpiry 2047).wf = true := by decide

theorem test_wf_trigger_timer : (Instr.trigIn 16).wf = false ∧ (Instr.trigOutPulse 16).wf = false
    ∧ (Instr.timerFire 64).wf = false ∧ (Instr.timerFire 63).wf = true := by decide

theorem test_wf_sensors : (Instr.thermalSample 4 0).wf = false ∧ (Instr.droopExcursion 3 0).wf = false
    ∧ (Instr.droopExcursionEnd 3 0).wf = false ∧ (Instr.sensorFault 16).wf = false
    ∧ (Instr.sensorFault 15).wf = true := by decide

theorem test_wf_scrub (f : CruFault) : (Instr.scrubRewrite 16 true).wf = false
    ∧ (Instr.scrubCell [] (List.replicate 65 f)).wf = false ∧ (Instr.scrubCell [] (List.replicate 64 f)).wf = true := by
  refine ⟨?_, ?_, ?_⟩ <;> simp only [Instr.wf, List.length_replicate] <;> decide

theorem test_wf_context : (Instr.descriptorStart 0 [⟨.channels [128], true⟩]).wf = false
    ∧ (Instr.descriptorStart 0 [⟨.link 64, true⟩]).wf = false
    ∧ (Instr.descriptorStart 127 [⟨.channels [127], true⟩, ⟨.link 63, false⟩, ⟨.cullet, true⟩]).wf = true
    ∧ (Instr.schedulerGrant 7 .read 0 false ⟨[], [⟨.xezan [128], true⟩]⟩).wf = false
    ∧ (Instr.readResponse 7 0 ⟨0, ⟨[], [⟨.xezan [127], false⟩]⟩⟩ .okay).wf = true := by decide

theorem test_wf_lengths (b : MemBeat) (x : Byte) : (Instr.fetchResult 0 (List.replicate 33 b) .okay).wf = false
    ∧ (Instr.xezanRequestReceive 0 (List.replicate 4185 x) false true).wf = false
    ∧ (Instr.gafferBootDone true ⟨true, true, 1⟩ ⟨{ image := List.replicate 131073 x }, {}⟩).wf = false := by
  refine ⟨?_, ?_, ?_⟩ <;> simp only [Instr.wf, List.length_replicate] <;> rfl

/-! ### Worked examples of the manual -/

/-- R275: the CRC-32 of the nine ASCII bytes "123456789". -/
theorem test_crc32_check_value : crc32 [0x31, 0x32, 0x33, 0x34, 0x35, 0x36, 0x37, 0x38, 0x39] = 0xCBF43926 := by
  decide +kernel

/-- R325: the CRC-16 of the same bytes. -/
theorem test_crc16_check_value : crc16 [0x31, 0x32, 0x33, 0x34, 0x35, 0x36, 0x37, 0x38, 0x39] = 0x29B1 := by
  decide +kernel

/-- 00 "Worked address": the registers and the push area of slot 5 of function 3. -/
theorem test_worked_address : slotReg 3 5 0 = 0x70A00 ∧ slotReg 3 5 0x100 = 0x70B00 ∧ slotReg 3 5 0x1FC = 0x70BFC := by decide

/-- 02 "Worked interleave": with PMAP_XOR and the default entries the two bursts travel on M5 and M2. -/
theorem test_worked_interleave :
    let s : State := { opt := { pmapXor := true, pmap := List.range 8 ++ List.range 8 } };
    s.portOf 0x00084C3A7C00 = 5 ∧ s.portOf 0x00084C3A8000 = 2 := by decide

/-- 04 "A 2D frame copy": the fields of Q0 to Q7 as the example reads them. -/
def frameCopy : Desc :=
  { q0 := 0x0000168000011902, q1 := 0x0000001200000000, q2 := 0x0000001300000000, q3 := 0x0000000000087011
    q4 := 0x0000168000001800, q7 := 0x000000006B1F03D2 }

theorem test_worked_frame_copy : frameCopy.op = some .copy2d ∧ frameCopy.phase = true ∧ frameCopy.intFull = true
    ∧ frameCopy.crcCheck = true ∧ frameCopy.fence = false ∧ frameCopy.svc = 1 ∧ frameCopy.length = 5760
    ∧ frameCopy.rows = 2160 ∧ frameCopy.srcLayout = 1 ∧ frameCopy.dstLayout = 1 ∧ frameCopy.srcStride = 6144
    ∧ frameCopy.dstStride = 5760 ∧ frameCopy.expectCrc = 0x6B1F03D2 := by decide

/-- 06 "Worked bursts": the sixth burst of a source row is one of 5 beats, and the first of the destination one of 8. -/
theorem test_worked_bursts : (burstAt 0x1200000000 5760 5120).beats = 5 ∧ (burstAt 0x1300000000 12441600 0).beats = 8
    ∧ rowWords 5760 = 1280 := by decide

/-- 14 "Worked reading": G_PARAM2 of a VN-16B. -/
theorem test_worked_vn16b : ({ member := Member.vn16b } : State).gValue 0x010 = 0x0F001000 := by decide

/-- 14 "Worked decode": the two addresses of SP_STAT, and the hole beside it. -/
theorem test_worked_decode : regKind Member.vn128 0x210B14 ≠ .hole ∧ regKind Member.vn128 0x40964 ≠ .hole
    ∧ regKind Member.vn128 0x210B30 = .hole := by decide

/-! ### States for tests -/

/-- A running VN-128: every domain released, the crucible filled, the Gaffer running, function 0 live, its slot 1 mapped to
channel 3, and a valid time input. -/
def up : State :=
  { rst := { coldHeld := false, stable := 511, crucible := true, gaffer := true, needFlash := false }
    opt := { loaded := true, debugLock := false, instanceId := 7 }
    gaf := { state := .running, image := some { slot := 0, bank := 0, version := 1, seq := 1 } }
    fns := [(0, { enabled := true, ready := true })]
    chans := [(3, { owner := some (0, 1) })]
    time := { tnow := 1000, lastValid := true, unset := false } }

/-- The same with `c` in channel 3. -/
def upChan (c : Chan) : State := { up with chans := [(3, { c with owner := some (0, 1) })] }

/-- The same with `x` as function 0. -/
def upFn (x : Fn) : State := { up with fns := [(0, { x with enabled := true, ready := true })] }

/-- A channel in ring mode with a bound ring of four entries. -/
def ringChan : Chan := { state := .running, cfg := { ringMode := true }, ring := { bound := true, order := 2, base := 0x1000 } }

/-- Whether a slot is live, as a value. -/
def liveSlot (s : State) (f sl p : Nat) : Bool :=
  hclkUp s && cclkUp s && decide (f < 16) && s.member.fnPresent f && (s.fn f).ready && !(s.fn f).resetting
    && decide (sl < 128) && s.member.slotPresent sl && s.pchOf f sl == some p

theorem slotLive_of {s : State} {f sl p : Nat} (h : liveSlot s f sl p = true) : s.SlotLive f sl p := by
  simp only [liveSlot, Bool.and_eq_true, decide_eq_true_eq, Bool.not_eq_true', beq_iff_eq] at h
  obtain ⟨⟨⟨⟨⟨⟨⟨⟨h1, h2⟩, h3⟩, h4⟩, h5⟩, h6⟩, h7⟩, h8⟩, h9⟩ := h
  exact ⟨⟨⟨h1, h2⟩, h3, h4, h5, h6⟩, h7, h8, h9⟩

/-- Mailbox `mb` of `s` holds the command `code` with these request words. -/
def issue (s : State) (mb code : Nat) (req : Tbl W32) : State :=
  { s.setMailbox mb { data := req, code := BitVec.ofNat 16 code, seq := 5, busy := true } with goOrder := [mb] }

/-- Whether a mailbox issues a command, as a value. -/
def issuing (s : State) (mb code : Nat) (used : List (Nat × Nat)) : Bool :=
  s.canTake mb && !s.gaf.recovery && (s.mailbox mb).store.isNone && (s.mailbox mb).code.toNat == code
    && reqZeroOutside (s.mailbox mb) used

theorem issues_of {s : State} {mb code : Nat} {used : List (Nat × Nat)} (h : issuing s mb code used = true) :
    s.Issues mb code used := by
  simp only [issuing, Bool.and_eq_true, Bool.not_eq_true', Option.isNone_iff_eq_none, beq_iff_eq] at h
  obtain ⟨⟨⟨⟨h1, h2⟩, h3⟩, h4⟩, h5⟩ := h
  exact ⟨⟨h1, h2, by rw [h3]; intro r e; cases e⟩, h4, h5⟩

/-! ### Witnesses: the machine as a whole -/

theorem witness_idle_queue : State.reset.pending = [] ∧ State.reset.edges = []
    ∧ (let s : State := { up with edges := [.refclk, .trst] }; s.pending = [] ∧ s.edges = [.refclk, .trst])
    ∧ cclkUp State.reset = false ∧ cclkUp up = true := by decide

theorem witness_invariants : State.reset.TablesWf ∧ State.reset.OwnersDistinct ∧ State.reset.AlarmHolds
    ∧ step State.reset = .next State.reset := by
  refine ⟨?_, ?_, ?_, rfl⟩
  · constructor <;> simp [State.reset, Tbl.wf, chansWf, fnsWf, mailboxesWf, benchesWf, eventsWf, crucibleWf, xezanWf,
      gafferWf, sensorsWf]
  · intro p q f h; simp [State.reset, State.chan, look] at h
  · exact ⟨fun _ => rfl, fun _ => rfl⟩

theorem witness_changes : ∃ t, exec .coldReset { up with cul := { count := 1 } } = .next t ∧ t.opt ≠ up.opt
    ∧ t.cul.count ≠ 1 ∧ (t.chan 3).owner ≠ (up.chan 3).owner :=
  ⟨{ member := up.member, now := up.now }, rfl, by decide, by decide, by decide⟩

theorem witness_member : up.member = Member.vn128 ∧ exec .timeStallWithdrawn up
    = .next { up with time := { up.time with stalled := false } } := ⟨rfl, rfl⟩

theorem witness_saturation : 250 + 5 ≤ 2 ^ 8 - 1 ∧ 2 ^ 8 - 1 ≤ 250 + 5 ∧ satAdd 8 250 5 = 255 ∧ satAdd 8 250 6 = 255 := by
  decide

theorem witness_routes :
    let s : State := { up with ev := { routes := [(0, .int 63), (1, .vector 2047), (2, .trigOut 15), (1475, .signal 15 255)] } };
    s.route 3 = .none ∧ s.route 0 = .int 63 ∧ s.route 1 = .vector 2047 ∧ s.route 2 = .trigOut 15
      ∧ s.route 1475 = .signal 15 255 := by decide

theorem witness_causes : up.fnOfChan 3 = some 0 ∧ ({ up with safety := { asserted := false } } : State).safety.asserted
    = false := by decide

/-! ### Witnesses: the register port -/

theorem witness_holes : hclkUp up = true ∧ regKind up.member (wordAddr 0x210B30) = .hole
    ∧ regKind up.member (wordAddr 0x200014) ≠ .hole := by decide

theorem witness_refused_accesses : up.PortUp ∧ regKind up.member (wordAddr 0x200020) ≠ .hole
    ∧ regKind up.member (wordAddr 0x200014) ≠ .hole ∧ regKind up.member (wordAddr 0x1E0000) ≠ .hole
    ∧ (0 : BitVec 3).getLsbD 0 = false ∧ (3 : BitVec 3).getLsbD 1 = true ∧ (0b0111 : BitVec 4) ≠ 0b1111
    ∧ 0x200018 ≤ wordAddr 0x200020 ∧ wordAddr 0x200014 < 0x200018 ∧ wordAddr 0x1E0000 < 0x200000 := by
  exact ⟨⟨rfl, rfl⟩, by decide⟩

theorem witness_live_slot : up.SlotLive 0 1 3 ∧ up.FnLive 0 ∧ up.PortUp ∧ 1 < up.member.benches
    ∧ up.member.hasXezan = true ∧ up.member.hasCullet = true ∧ (63 : Nat) < 64 ∧ (0b1110 : BitVec 4) ≠ 0b1111 :=
  have h : up.SlotLive 0 1 3 := slotLive_of (by decide)
  ⟨h, h.1, h.1.1, by decide⟩

theorem witness_slot_tables : up.TablesWf := by
  constructor <;> simp [up, Tbl.wf, chansWf, fnsWf, fnWf, mailboxesWf, benchesWf, eventsWf, crucibleWf, xezanWf,
    gafferWf, sensorsWf]

theorem witness_alarm : up.rst.coldHeld = false ∧ up.rst.warmHeld = false ∧ up.rst.refLost = false
    ∧ up.safety.ackLevel = false ∧ up.safety.cause ≠ 0 ∧ up.safety.asserted = true
    ∧ ({ up with safety := { cause := 0 } } : State).safety.cause = 0
    ∧ ({ up with safety := { ackLevel := true } } : State).safety.ackLevel = true := by decide

/-- TAIL 0 with WRAP 1 publishes all four entries; TAIL 4 is no index; TAIL 1 falls back behind T = 2. -/
theorem witness_doorbells :
    (upChan ringChan).SlotLive 0 1 3 ∧ (upChan ringChan).mayRing 0 3 = true ∧ ringChan.ring.newTail 0x00010000 = some 4
      ∧ ringChan.ring.newTail 4 = none ∧ ringChan.ring.newTail 0x00010001 = none
      ∧ ({ ringChan.ring with t := 2, h := 0 } : Machine.Ring).newTail 1 = none
      ∧ ({ ringChan.ring with t := 2, h := 0 } : Machine.Ring).newTail 2 = some 2
      ∧ (upChan {}).SlotLive 0 1 3 ∧ (upChan {}).mayRing 0 3 = false :=
  ⟨slotLive_of (by decide), by decide, by decide, by decide, by decide, by decide, by decide, slotLive_of (by decide),
    by decide⟩

/-- Four pushed entries with PHASE 1 in an empty ring of four. -/
def pushing : State := upChan { ringChan with push := [(0, 0x100), (16, 0x100), (32, 0x100), (48, 0x100)] }

theorem witness_pushes : pushing.SlotLive 0 1 3 ∧ pushing.mayRing 0 3 = true ∧ pushCount 0x04010000 = 4
    ∧ (pushing.chan 3).ring.newTail 0x04010000 = some 4 ∧ 4 ≤ ringCount 2 0 4
    ∧ (let c := (pushing.ringDoorbell 3 4).chan 3;
       c.state = .running ∧ c.ring.parked = false ∧ c.halt.pending = false ∧ ringAdd 2 c.ring.f 4 = 4
        ∧ c.ring.f < 2 ^ 3 ∧ ∀ j, j < 4 → (((List.range 4).map (descOfPush c.push))[j]?.map Desc.phase)
          = some (expectedPhase 2 (ringAdd 2 c.ring.f j)))
    ∧ (pushCount 0x00010000 = 0 ∧ pushCount 0x05010000 = 5 ∧ ringCount 2 0 3 < 4
        ∧ (pushing.chan 3).ring.newTail 0x04000003 = some 3)
    ∧ ((upChan { ringChan with state := .stopped }).chan 3).state ≠ .running := by
  exact ⟨slotLive_of (by decide), by decide +kernel⟩

/-- Completion ring 15 of function 0: 16 slots, all of them taken. -/
def ringed : State := upFn { rings := [(15, { bound := true, order := 4, producer := 16 })] }

theorem witness_completion_head : ringed.FnLive 0 ∧ (15 : Nat) < 16
    ∧ (let x := look {} (ringed.fn 0).rings 15;
       x.bound = true ∧ (0 : Nat) < 2 ^ x.order ∧ idxValue x.order 0x00010000 = some 16
        ∧ ringCount x.order 16 x.producer ≤ ringCount x.order x.head x.producer
        ∧ ¬ ringCount x.order 17 x.producer ≤ ringCount x.order x.head x.producer) :=
  ⟨(slotLive_of (f := 0) (sl := 1) (p := 3) (by decide)).1, by decide⟩

/-- A started NOP. -/
def nop : Work := { serial := 1, idx := 0, desc := { q0 := 0x130 } }

theorem witness_control : up.SlotLive 0 1 3 ∧ (up.chan 3).cfg.ringMode = false ∧ (up.chan 3).state = .idle
    ∧ (up.fn 0).halted = false ∧ (up.chan 3).started = [] ∧ (up.chan 3).cfg.paceSrc = 0
    ∧ (upChan { direct := { len := 1, dst := 64 } }).passRefused 3 = false ∧ up.passRefused 3 = true
    ∧ ((upChan { cfg := { paceSrc := 1 } }).chan 3).credit = 0
    ∧ ((upChan { ringChan with started := [nop] }).chan 3).started ≠ []
    ∧ ((upChan { ringChan with state := .stopped }).chan 3).cfg.ringMode = true
    ∧ (let s := upChan { ringChan with state := .halted }; s.SlotLive 0 1 3 ∧ (s.chan 3).halt.pending = false
        ∧ (s.chan 3).halt.haltSeen = false)
    ∧ (let s := upChan { ringChan with state := .halted, halt := { haltSeen := true } }; (s.chan 3).halt.haltSeen = true)
    ∧ (let d : W32 := 0x5; 1 < (d.getLsbD 0).toNat + (d.getLsbD 2).toNat + (d.getLsbD 3).toNat + (d.getLsbD 4).toNat)
    ∧ (let d : W32 := 0x2; (d.getLsbD 0).toNat + (d.getLsbD 2).toNat + (d.getLsbD 3).toNat + (d.getLsbD 4).toNat = 0) :=
  ⟨slotLive_of (by decide), by decide, by decide, by decide, by decide, by decide, by decide, by decide, by decide,
    by decide, by decide, ⟨slotLive_of (by decide), by decide, by decide⟩, by decide, by decide, by decide⟩

theorem witness_signals : up.FnLive 0 ∧ up.firstWait 0 255 = none ∧ up.sigCount 0 255 < 65535
    ∧ 65535 ≤ (upFn { sigCnt := [(255, 65535)] }).sigCount 0 255
    ∧ (upFn { sigCnt := [(255, 65535)] }).firstWait 0 255 = none
    ∧ (upChan { cfg := { paceSrc := 3, paceNum := 255 }, wantsSignal := some 4 }).firstWait 0 255 = some 4
    ∧ (let s : State := { up with ports := [(63, { holder := some 0 })] }; (s.port 63).holder = some 0
        ∧ (s.port 63).dirOut = false ∧ (s.port 62).holder ≠ some 0)
    ∧ (let s := upFn { halted := true }; (s.fn 0).halted = true ∧ s.fnDrained 0 = true ∧ (s.fn 0).haltSeen = false)
    ∧ (up.fn 0).halted = false :=
  ⟨(slotLive_of (sl := 1) (p := 3) (by decide)).1, by decide⟩

/-- One chain: gob 5 is the head, generation 9, held by function 0, freed by its slot 1. Its handle has been written into
F_GOB_HANDLE. -/
def chained : State :=
  { upFn { gobHandle := BitVec.ofNat 32 (handleOf 9 5) } with
    cul := { count := 16, fresh := 8, records := [(5, { state := .head, gen := 9, last := true, freerSlot := 1, holdMask := 1 })] } }

/-- The same chain with another holder, and one that another function frees. -/
def sharedChain : State :=
  { chained with cul := { chained.cul with records := [(5, { (chained.gobRec 5) with holdMask := 0x8001 })] } }
def foreignChain : State :=
  { chained with cul := { chained.cul with records := [(5, { (chained.gobRec 5) with freerFn := 2, holdMask := 5 })] } }

theorem witness_holding : chained.FnLive 0 ∧ chained.member.hasCullet = true ∧ (chained.fn 0).gobBusy = false
    ∧ (let h := (chained.fn 0).gobHandle.toNat; let r := chained.gobRec (handleGob h);
       chained.stale h = false ∧ r.freerFn = 0 ∧ r.freerSlot = 1 ∧ chained.pinnedFor 0 (handleGob h) = false
        ∧ r.holdMask.getLsbD 15 = false ∧ r.holdMask.getLsbD 0 = true ∧ countBits r.holdMask = 1
        ∧ (15 : BitVec 4).toNat < chained.member.functions)
    ∧ (let h := (up.fn 0).gobHandle.toNat; up.stale h = true)
    ∧ (let h := (sharedChain.fn 0).gobHandle.toNat; let r := sharedChain.gobRec (handleGob h);
       sharedChain.stale h = false ∧ r.holdMask.getLsbD 0 = true ∧ r.freerFn = 0 ∧ r.freerSlot = 1 ∧ countBits r.holdMask ≠ 1)
    ∧ (let h := (foreignChain.fn 0).gobHandle.toNat; let r := foreignChain.gobRec (handleGob h);
       foreignChain.stale h = false ∧ r.holdMask.getLsbD 0 = true ∧ r.freerFn ≠ 0
        ∧ foreignChain.pinnedFor 0 (handleGob h) = false)
    ∧ field32 0x000F0000 1 0 = 0 ∧ (field32 0x00100001 1 0 = 1 ∧ ¬ 16 ≤ field32 0x000F0001 19 16) :=
  ⟨(slotLive_of (sl := 1) (p := 3) (by decide)).1, by decide +kernel⟩

theorem witness_forced : (upFn { gobBusy := true }).recBusy 0 = false ∧ ((upFn { gobBusy := true }).fn 0).gobBusy = true
    ∧ chained.PortUp ∧ chained.stale (handleOf 9 5) = false ∧ chained.stale (handleOf 8 5) = true
    ∧ (let s : State := { chained with cul := { chained.cul with forced := [5] } };
       s.cul.forced.contains 5 = true ∧ s.pinned 5 = false) :=
  ⟨by decide, by decide, ⟨by decide, by decide⟩, by decide, by decide, by decide⟩

/-- cclk is held; hclk runs. -/
def slow : State := { up with rst := { up.rst with stable := 510 } }

theorem witness_write_queue : regKind slow.member (wordAddr 0x30) ≠ .hole ∧ mbOf (wordAddr 0x30) = none
    ∧ wordAddr 0x200014 < 0x200018 ∧ hclkUp slow = true ∧ cclkUp slow = false ∧ slow.regq.length < 16
    ∧ 16 ≤ (({ slow with regq := List.replicate 16 { addr := 0x30, data := 1 } } : State).regq).length
    ∧ hclkUp { up with rst := { up.rst with stable := 0 } } = false := by decide

theorem witness_mailbox_go : up.PortUp ∧ up.FnLive 0 ∧ (up.mailbox 0).busy = false ∧ up.gaf.down = false
    ∧ (up.mailbox 16).busy = false ∧ ({ up with gaf := { down := true } } : State).gaf.down = true
    ∧ ((issue up 16 1 []).mailbox 16).busy = true :=
  have h : up.SlotLive 0 1 3 := slotLive_of (by decide)
  ⟨h.1.1, h.1, by decide⟩

/-! ### Witnesses: channels, the bus and their ends -/

/-- The transaction that answers a burst of `beats` beats. -/
def burst (purpose : Purpose) (write : Bool) (beats : Nat) (phase : TxnPhase) : Txn :=
  { id := 1, port := 0, write := write, purpose := purpose, addr := 0x1000, beats := beats, axid := chanAxid 3 true
    qos := 3, user := 0, coherent := false, rlo := 0x1000, rlen := 128 * beats, phase := phase }

/-- Two entries are published; their fetch is issued. -/
def fetched (forced : Bool) (retries : Nat) : State :=
  { upChan { ringChan with ring := { ringChan.ring with t := 2, forced := forced, retries := retries } } with
    txns := [burst (.fetch 3) false 1 .issued] }

/-- A beat with two entries of these first words. -/
def twoEntries (a b : Nat) : MemBeat := BitVec.ofNat 1024 (a + b * 2 ^ 512)

/-- Phases of the fetched entries: both visible, the second not, none. -/
theorem witness_fetch :
    let s := fetched false 8; let t := burst (.fetch 3) false 1 .issued;
    s.txns.find? (fun x => x.purpose == .fetch 3 && x.isIssued) = some t
      ∧ (s.answered t.port t.axid false).map Txn.id = some t.id ∧ t.phase = .issued ∧ t.dropped = false
      ∧ t.voided = false ∧ (s.chan 3).ring.f < 2 ^ 3 ∧ (s.chan 3).ring.forced = false ∧ 8 ≤ (s.chan 3).ring.retries
      ∧ ((fetched true 0).chan 3).ring.forced = true ∧ ((fetched false 7).chan 3).ring.retries < 8
      ∧ (let phases := fun b => (fetchedDescs (beatsSlice t.addr [b] t.rlo t.rlen) (t.rlen / 64)).map Desc.phase;
         phases (twoEntries 0x130 0x130) = [true, true] ∧ phases (twoEntries 0x130 0x30) = [true, false]
          ∧ phases (twoEntries 0x30 0x130) = [false, true])
      ∧ expectedPhase 2 3 = true ∧ expectedPhase 2 4 = false
      ∧ ((upChan { ringChan with ring := { ringChan.ring with reReadAt := some 28 } }).chan 3).ring.reReadAt = some 28 := by
  decide +kernel

/-- An accepted entry. -/
def accepting (q0 : W64) (pace : Nat) : State :=
  upChan { ringChan with
    cfg := { ringMode := true, paceSrc := pace }
    ring := { ringChan.ring with t := 1, f := 1, accepted := [{ idx := 0, desc := { q0 := q0 } }] } }

/-- A direct-mode channel with a due pass of `len` bytes. -/
def dueChan (len : W32) : State := upChan { state := .running, direct := { len := len, dst := 64, due := true } }

theorem witness_starts :
    (∀ pace, pace ≤ 2 → (accepting 0x130 pace).startable 3 = some { idx := 0, desc := { q0 := 0x130 } })
      ∧ (accepting 0x130 0).malformation 3 { q0 := 0x130 } = none ∧ ({ q0 := 0x130 } : Desc).op = some .nop
      ∧ ({ q0 := 0x130 } : Desc).fresh = false ∧ ({ q0 := 0x130 } : Desc).fromChain = false
      ∧ ((accepting 0x130 0).chan 3).cfg.paceSrc = 0 ∧ ((accepting 0x130 2).chan 3).credit = 0
      ∧ (accepting 0x100 0).startable 3 = some { idx := 0, desc := { q0 := 0x100 } }
      ∧ (accepting 0x100 0).malformation 3 { q0 := 0x100 } = some 1
      ∧ ((dueChan 1).chan 3).direct.due = true ∧ ((dueChan 1).chan 3).state = .running
      ∧ ((dueChan 1).chan 3).cfg.ringMode = false ∧ ((dueChan 1).chan 3).started = []
      ∧ ((dueChan 1).chan 3).halt.pending = false ∧ ((dueChan 1).chan 3).cfg.paceSrc = 0
      ∧ spaceOf ((dueChan 1).chan 3).direct.src = 0 ∧ (dueChan 1).passRefused 3 = false
      ∧ (dueChan 0).passRefused 3 = true := by decide +kernel

/-- Channel 3 has one entry to fetch. -/
def asking : State := upChan { ringChan with ring := { ringChan.ring with t := 1 } }

/-- The same with SC0's reads at their cap. -/
def capped : State :=
  asking.setBench 0 { asking.bench 0 with rd := { cls := [(0, { count := 64 })] } }

/-- The burst of channel `i` in class `k` fits the cap. -/
def fitsCap (s : State) (k i : Nat) : Bool :=
  (s.nextBid 0 .read 0 k i).any fun x => decide (((s.bench 0).rd.cl k).count + x.txn.beats ≤ capOf (s.bench 0).capRd k)

theorem witness_grant : cclkUp asking = true ∧ asking.rst.crucible = true ∧ 7 < asking.member.benches
    ∧ fitsCap asking 0 3 = true ∧ ((asking.nextBid 0 .read 0 0 3).map Bid.ask) = some .fetch
    ∧ (capped.nextBid 0 .read 0 0 3).isSome = true ∧ (∀ k, k < 4 → ∀ i, i < 16 → fitsCap capped k i = false)
    ∧ (∀ k, k < 4 → ∀ i, i < 16 → up.nextBid 0 .write 0 k i = none) := by decide +kernel

theorem witness_scan : let s := (upChan { ringChan with started := [nop] }).setBench 0 { up.bench 0 with scan := 3 };
    s.member.safetyFull = true ∧ s.member.chanPresent (16 * 0 + (s.bench 0).scan) = true
      ∧ (s.chan (16 * 0 + (s.bench 0).scan)).started.find? Work.live = some nop := by decide +kernel

/-- One transaction in the block. -/
def bus (t : Txn) : State := { up with txns := [t] }

theorem witness_issue : up.rst.stable.getLsbD 1 = true ∧ (bus (burst (.fetch 3) false 1 .queued)).portLoad 0 < 512
    ∧ (bus (burst (.fetch 3) false 1 .queued)).nextIssue 0 (Dir.read == .write) = some (burst (.fetch 3) false 1 .queued)
    ∧ 512 ≤ ({ up with txns := List.replicate 512 (burst (.fetch 3) false 1 .issued) } : State).portLoad 0 := by
  decide +kernel

theorem witness_responses :
    let r := burst (.dataRead 3 1 0 128) false 2 .issued; let w := burst (.dataWrite 3 1 0 8) true 1 .issued;
    (bus r).answered 0 (chanAxid 3 true) false = some r ∧ (∀ p, r.purpose ≠ .fetch p) ∧ r.got.length + 1 < r.beats
      ∧ (let l := { r with got := [0] }; (bus l).answered 0 (chanAxid 3 true) false = some l ∧ l.beats ≤ l.got.length + 1
          ∧ l.failed = false ∧ ({ l with failed := true } : Txn).failed = true)
      ∧ (bus w).answered 0 (chanAxid 3 true) true = some w ∧ (∀ p, w.purpose ≠ .completion p) ∧ w.voided = false
      ∧ (bus w).noReheat w = false ∧ w.attempt < (bus w).glob.retryLimit
      ∧ (bus { w with attempt := 3 }).glob.retryLimit ≤ ({ w with attempt := 3 } : Txn).attempt
      ∧ (let q := { w with phase := TxnPhase.reheat 64 };
         (bus q).txns.find? (fun x => x.id == q.id) = some q ∧ (bus q).queueLen q.port q.write < 64) :=
  ⟨by decide +kernel, fun _ => by simp [burst], by decide, by decide +kernel, by decide +kernel,
    fun _ => by simp [burst], by decide +kernel⟩

/-- A copy of one byte, all of it delivered; `flags` are further bits of Q0. -/
def copied (flags : Nat) : Work :=
  { serial := 1, idx := 0, desc := { q0 := BitVec.ofNat 64 (0x100000101 + flags), q2 := 64 }, crcBits := 8
    delivered := [(0, 8)], segOk := 1 }

/-- Channel 3 executes `w`. -/
def executing (w : Work) : State := upChan { ringChan with ring := { ringChan.ring with t := 1, f := 1 }, started := [w] }

theorem witness_completion :
    let w := copied 0; let s := executing w; let g := copied 0x2000; let t := executing g;
    (s.chan 3).started = [w] ∧ w.pass = false ∧ s.chainExhausted 3 w = false ∧ s.finished 3 w = true
      ∧ s.isStale 3 w = false ∧ t.finished 3 g = true ∧ t.isStale 3 g = true
      ∧ (t.chan 3).started.find? (fun w => t.isStale 3 w) = some g
      ∧ (let x := { w with pass := true }; let u := upChan { state := .running, started := [x] };
         u.finished 3 x = true ∧ x.landed = [] ∧ (u.chan 3).state = .running) := by decide +kernel

/-- R268, R271 at the bounds: age 1,000 and a bound of 1,000 is not stale, 1,001 is; a lead of 1 beyond its limit is. -/
theorem witness_stale_bounds :
    let s := fun (bound : W32) => upChan { ageBound := bound }; let w := fun (c : W64) => { copied 0x2000 with
      desc := { (copied 0x2000).desc with q6 := c } };
    (s 1000).staleCause 3 (w 0) = none ∧ (s 999).staleCause 3 (w 0) = some 1 ∧ (s 1000).staleCause 3 (w 1000) = none
      ∧ (s 1000).staleCause 3 (w 1001) = some 2 ∧ (s 0).staleCause 3 (w 0) = some 4
      ∧ ({ s 1000 with time := {} } : State).staleCause 3 (w 0) = some 3 := by decide +kernel

theorem witness_segment : let w := { copied 0 with segOk := 0 }; let s := executing w;
    (s.chan 3).started.find? (fun w => w.live && w.idx == 0) = some w ∧ w.segOk < w.segments s.member
      ∧ w.segmentReady w.segOk = true := by decide +kernel

/-- A packet of one word whose only beat is held in the outbound queue of port 0; `flags` are further bits of Q0. -/
def sending (flags : Nat) (now : TimeIn) : State :=
  let w : Work := { serial := 1, idx := 0, desc := { q0 := BitVec.ofNat 64 (0x400000110 + flags), q2 := 0x0100000000000000 }
                    crcBits := 32, outWords := 1, segOk := 1 }
  { executing w with
    time := now
    ports := [(0, { enable := true, dirOut := true, holder := some 0,
                    outq := [{ words := [0], last := true, serial := 1, pkt := 0 }] })] }

theorem witness_packet_release :
    (∀ flags ∈ [0, 0x2000], let s := sending flags {};
      (s.port 0).heldPacket = some (1, 0) ∧ (s.workOf 1).isSome = true
        ∧ (∀ e, e ∈ s.workOf 1 → e.1 = 3 ∧ e.2.live = true ∧ e.2.packetChecked s.member 0 = true
          ∧ s.isStale 3 e.2 = decide (flags = 0x2000))) := by decide +kernel

theorem witness_watchdog : ((upChan { watch := some 0 }).chan 3).watch = some 0 ∧ (up.chan 3).watch = none := by decide

/-- A finished report. -/
def okReport : Report := { idx := 0, status := .ok, residue := 0, crc := 0, done := true, signal := none, loads := none }

/-- Channel 3 reports to completion ring 15 of function 0, which holds `n` records. -/
def reporting (n : Nat) (episode : Bool) : State :=
  { upChan { ringChan with
      cfg := { ringMode := true, cplRingMode := true, cplRing := 15 }
      cpl := { queue := [okReport] } } with
    fns := [(0, { enabled := true, ready := true, rings := [(15, { bound := true, order := 4, producer := n, episode := episode })] })] }

theorem witness_reports :
    (let s := upChan { ringChan with cpl := { deadline := some 64, due := true } };
     (s.chan 3).cpl.deadline = some 64 ∧ (s.chan 3).cfg.cplRingMode = false ∧ (s.chan 3).cpl.due = true
      ∧ (s.chan 3).cpl.outstanding = false)
    ∧ (∀ n ∈ [15, 16], ∀ e, let s := reporting n e; let x := look {} (s.fn 0).rings 15;
       (s.chan 3).cpl.queue = [okReport] ∧ (s.chan 3).cfg.cplRingMode = true ∧ (s.chan 3).cpl.outstanding = false
        ∧ x.bound = true ∧ x.episode = e ∧ decide (ringCount x.order x.head x.producer = 2 ^ x.order) = decide (n = 16))
    ∧ (let w := burst (.completion 3) true 1 .issued; (bus w).answered 0 (chanAxid 3 true) true = some w
        ∧ w.purpose = .completion 3 ∧ w.phase = .issued) := by decide +kernel

theorem witness_stops :
    (let s := upChan { ringChan with state := .stopping }; (s.chan 3).state = .stopping ∧ (s.chan 3).started = []
      ∧ (s.chan 3).halt.pending = false ∧ (s.chan 3).ring.f = (s.chan 3).ring.t)
    ∧ (let s := upChan { ringChan with state := .aborting, started := [nop] }; (s.chan 3).state = .aborting
      ∧ s.workDrained 3 = true)
    ∧ (let s := upChan { ringChan with halt := { pending := true }, started := [{ nop with verdict := some .busError }] };
       s.haltReady 3 = true ∧ (s.chan 3).failed.isSome = true)
    ∧ (let s := upChan { ringChan with
          halt := { pending := true, point := some { cause := .fetch, status := .busError, idx := 0, crc := 0 } } };
       s.haltReady 3 = true ∧ (s.chan 3).halt.point.isSome = true) := by decide +kernel

/-! ### Witnesses: time, streams, gobs, the link, resets -/

theorem witness_time : cclkUp up = true ∧ up.time.valid = true ∧ up.time.unset = false ∧ (999 : W64) < up.time.tnow
    ∧ up.time.tnow ≤ 1000 ∧ ({ up with time := {} } : State).time.unset = true
    ∧ (let x : TimeIn := { up.time with equal := 8, advNs := some 1000 }; x.equal = 8 ∧ up.time.equal = 0
        ∧ x.advNs = some 1000 ∧ (1000 : W64).toNat < (1001 : W64).toNat ∧ (1000 : W64).toNat ≤ (1000 : W64).toNat) := by
  decide

/-- Timer 63 of function 0, TRIG_IN 15 of function 0, TRIG_OUT 15 and vector 0 with an uncovered raise. -/
def pacing (period next : Nat) (out : TrigOut) : State :=
  { upFn { msiMask := 0 } with
    ev := { timers := [(63, { holder := some 0, period := period, next := next, armed := true })]
            trigIn := [(15, some 0)], trigOut := [(15, out)]
            vecs := [(0, { raises := 1, time := 8, since := some 64 })] } }

/-- TNOW is 1,000: a one-shot timer, one that is due now, and one that has missed exactly two moments. -/
theorem witness_pacing :
    (let s := pacing 0 1000 {}; let x := look {} s.ev.timers 63; x.holder = some 0 ∧ s.time.valid = true ∧ x.armed = true
      ∧ x.next ≤ s.time.tnow.toNat ∧ x.period = 0 ∧ look none s.ev.trigIn 15 = some 0)
    ∧ (let s := pacing 100 800 {}; let x := look {} s.ev.timers 63; 0 < x.period ∧ x.next + 2 * x.period ≤ s.time.tnow.toNat
      ∧ s.time.tnow.toNat < x.next + (2 + 1) * x.period)
    ∧ (∀ queued ∈ [0, 1], ∀ phase ∈ [TrigPhase.idle, .high, .low], ∀ pending,
        let x := (pacing 0 0 { queued := queued, phase := phase, pending := pending }).tout 15;
        x.queued = queued ∧ x.phase = phase ∧ x.pending = pending)
    ∧ (let s := pacing 0 0 {}; (s.vec 0).since = some 64 ∧ s.vecMasked 0 = false ∧ (s.vec 0).outstanding = false
      ∧ 0 < (s.vec 0).raises)
    ∧ ((upChan { cfg := { paceSrc := 1, paceNum := 63 } }).chan 3).owner.map Prod.fst = some 0
    ∧ ((upChan { cfg := { paceSrc := 1, paceNum := 63 } }).chan 3).credit < 1
    ∧ 1 ≤ ((upChan { cfg := { paceSrc := 1, paceNum := 63 }, credit := 1 }).chan 3).credit := by decide

/-- Port 63 with contents `x`. -/
def ported (x : Port) : State := { up with ports := [(63, x)] }

/-- A full beat, a last beat of `n` words, and an ABORT_PKT beat. -/
def full : StreamBeat := { data := 0, last := false, user := 0 }
def last (n : Nat) : StreamBeat := { data := 0, last := true, user := BitVec.ofNat 5 n }
def cut : StreamBeat := { data := 0, last := true, user := 8 }

/-- An enabled inbound port of function 0 with `q` in its queue. -/
def inbound (q : List StreamBeat) : Port := { enable := true, holder := some 0, reserve := 4, limit := 16, inq := q }

theorem witness_inbound_beats :
    (ported (inbound [])).inboundOn 63 = true ∧ (inbound []).refusingIn = false ∧ (inbound (List.replicate 31 full)).inq.length < 32
      ∧ ({ inbound [] with refusingIn := true } : Port).refusingIn = true
      ∧ (∀ b ∈ [full, last 1, last 4, last 0, last 5, cut], let s := ported (inbound [b]);
          cclkUp s = true ∧ s.rst.crucible = true ∧ (s.port 63).inq = [b] ∧ (s.port 63).cut = false ∧ s.hasRoom 63 = true
            ∧ (s.port 63).dropping = false ∧ (s.port 63).refusing = false ∧ (s.port 63).takers = [])
      ∧ full.ends = false ∧ (last 1).count = 1 ∧ (last 4).count = 4 ∧ (last 0).count = 0 ∧ 4 < (last 5).count
      ∧ (last 4).abortPkt = false ∧ cut.abortPkt = true
      ∧ (ported { inbound [full] with tailPos := 1024 }).hasRoom 63 = false
      ∧ (ported { inbound [full] with dropping := true }).hasRoom 63 = true
      ∧ (ported { inbound [last 1] with takers := [(3, 1)] }).hasRoom 63 = true := by decide +kernel

theorem witness_outbound_beats :
    let b : OutBeat := { words := [0], last := true, serial := 9, pkt := 0 };
    let x : Port := { enable := true, dirOut := true, outq := [b], released := [(9, 0)] };
    x.presented = some b ∧ sclkUp (ported x) 63 = true ∧ b.abort = false
      ∧ (let a := { b with abort := true }; ({ x with outq := [a] } : Port).presented = some a ∧ (ported x).workOf 9 = none)
      ∧ (ported { x with flushWait := true }).atBoundary 63 = true
      ∧ (ported { inbound [] with flushWait := true }).beingRead 63 = false
      ∧ (let t := ported { inbound [] with flushWait := true, flushFor := [(3, 1)] }; t.beingRead 63 = false)
      ∧ b.words.length ≤ 4 := by decide

theorem witness_scrub : up.cru.scrub ≠ 0 ∧ cclkUp up = true ∧ up.rst.crucible = true
    ∧ (let f : CruFault := { addr := 0, stored := 0, flips := 1 }; f.cell = up.cru.scrubCell ∧ f.corrected = true)
    ∧ (let f : CruFault := { addr := 0, stored := 0, flips := 3 }; f.cell = up.cru.scrubCell ∧ f.uncorrectable = true)
    ∧ (let f : CruFault := { addr := 0, stored := 64, flips := 0 }; f.uncorrectable = true)
    ∧ (let f : CruFault := { addr := 64, stored := 64, flips := 1 }; f.cell ≠ up.cru.scrubCell)
    ∧ (let s : State := { up with cru := { up.cru with ce := [(0, 15)] } }; s.cru.thresh ≠ 0
        ∧ satAdd 16 (look 0 s.cru.ce 0) 1 % s.cru.thresh = 0)
    ∧ (let r : Rewrite := { addr := 15 * 64, zero := false };
       ([] ++ r :: [r] : List Rewrite) = [r, r] ∧ r.bank = 15 ∧ r.written = false
        ∧ ({ r with written := true } : Rewrite).written = true ∧ ({ r with addr := 0 } : Rewrite).bank ≠ 15) := by decide

/-- Work that requests its next gob, builds a chain, or uses a source handle. -/
def gobWork (q0 : W64) (src : Nat) (phase : ChainPhase) : Work :=
  { serial := 1, idx := 0, desc := { q0 := q0, q1 := BitVec.ofNat 64 (2 ^ 57 + src) }, chain := phase }

/-- `w` in channel 3, over the pool and records of `chained`. -/
def pooled (w : Work) : State := { executing w with cul := { chained.cul with onBlock := 0 } }

theorem witness_gobs :
    (let s := pooled (gobWork 0x800000112 0 .requesting); s.member.hasCullet = true ∧ cclkUp s = true ∧ s.cul.pointer < 128
      ∧ (s.requester 3).isSome = true ∧ s.mayTakeGob (s.chFn 3) = true ∧ s.gobReady = true
      ∧ ∀ q, q < 128 → (s.requester q).isSome = true → (3 + 128 - s.cul.pointer) % 128 ≤ (q + 128 - s.cul.pointer) % 128)
    ∧ (let s := { pooled (gobWork 0x800000112 0 .requesting) with cul := { count := 0 } };
       ∀ q, q < 128 → (s.requester q).isSome = true → s.mayTakeGob (s.chFn q) = false)
    ∧ ((upChan { gobWait := some 100 }).chan 3).gobWait = some 100
    ∧ (let w := { gobWork 0x800000112 0 .building with pkt := some { words := [0], slots := 4 }, crcBits := 36
                                                       delivered := [(0, 36)], gobs := [{ gob := 5, bytes := 4 }], headGob := 5 };
       let s := pooled w; (s.chan 3).started.find? (fun w => w.live && w.chain == .building) = some w ∧ w.writesDone = true
        ∧ w.prefixBits = w.dataBits ∧ ∀ g ∈ w.gobs, s.recBusy g.gob = false) := by decide +kernel

/-- The record of gob `g` as memory holds it. -/
def recBits (g : Nat) (r : GobRec) : BitVec 128 := BitVec.ofNat 128 (ofLeBytes (r.bytes g))

/-- A read of the chain of gob 5 with a handle of generation `gen`, its head record read as `x`; PUNTY with `punty`. -/
def resolving (punty : Bool) (gen : Nat) (x : Option (Option (BitVec 128))) : Work :=
  { gobWork (if punty then 0x122 else 0x100000110) (handleOf gen 5) .unresolved with headRec := x }

/-- Handles of no generation, of another and of the right one; the record not read yet, unreadable, invalid and valid. -/
theorem witness_resolve :
    (∀ punty gen x, let w := resolving punty gen x; let s := pooled w;
      (s.chan 3).started.find? (fun w => w.live && w.chain == .unresolved) = some w)
    ∧ (let w := resolving false 9 none; let s := pooled w; w.live = true ∧ w.headRec = none
      ∧ s.staleIndex w.desc.srcAddr = false ∧ s.recBusy 5 = false ∧ s.reading (.headRec 3 1) = false)
    ∧ (let w := resolving false 0 none; (pooled w).staleIndex w.desc.srcAddr = true)
    ∧ (none : Option (BitVec 128)).bind (parseRec 5) = none ∧ parseRec 5 0 = none
    ∧ (let x := recBits 5 (chained.gobRec 5); parseRec 5 x = some (chained.gobRec 5) ∧ rawState x = 2
      ∧ rawGen x = handleGen (handleOf 9 5) ∧ rawGen x ≠ handleGen (handleOf 8 5)
      ∧ ∀ punty, let w := resolving punty 9 (some (some x)); let s := pooled w;
        s.stale w.desc.srcAddr = false ∧ (s.gobRec 5).holdMask.getLsbD (s.chFn 3) = true ∧ (s.gobRec 5).freerFn = s.chFn 3
          ∧ (s.gobRec 5).freerSlot = 1 ∧ s.pinnedFor (s.chFn 3) 5 = false)
    ∧ (resolving true 9 none).desc.op = some .punty ∧ (resolving false 9 none).desc.op ≠ some .punty
    ∧ ({ pooled (resolving true 9 none) with cul := foreignChain.cul } : State).gobRec 5 ≠ chained.gobRec 5 := by
  refine ⟨?_, by decide +kernel⟩
  intro punty gen x; simp [pooled, executing, upChan, State.chan, look, resolving, gobWork, Work.live]

/-- Members of the chain of gob 5: one that points to it, one that does not. -/
theorem witness_members :
    (let r : GobRec := { state := .member, gen := 1, head := 5, headGen := 9, last := true, fill := 4095 };
     let w := { resolving false 9 none with headGob := 5, headGen := 9 };
     parseRec 6 (recBits 6 r) = some r ∧ r.head = w.headGob ∧ r.headGen = w.headGen ∧ (pooled w).work? 3 1 = some w
      ∧ parseRec 6 (recBits 6 { r with headGen := 8 }) = some { r with headGen := 8 })
    ∧ (let w := resolving false 9 none; let r : GobRec := { state := .head, next := 6, fill := 0 };
       r.last = false ∧ r.next < 8 ∧ (w.gobs.map ChainGob.bytes).sum + (r.fill + 1) = 1 ∧ rowBytes w.desc.srcLayout w.desc.length = 1
        ∧ rowBytes 0 2 = 2) := by decide +kernel

/-- A request that has taken gob 5 already, and one that is to take its first; a lost request waits or ends at once. -/
theorem witness_takes :
    (let w := gobWork 0x800000112 0 .requesting; (pooled w).work? 3 w.serial = some w ∧ w.gobs = [])
    ∧ (let w := { gobWork 0x800000112 0 .building with gobs := [{ gob := 5, bytes := 4096 }], headGob := 5 };
       let s := pooled w; s.work? 3 w.serial = some w ∧ w.gobs.getLast?.map ChainGob.gob = some 5 ∧ s.cul.stack = []
        ∧ 5 ≠ s.cul.fresh)
    ∧ (let s := { pooled (gobWork 0x800000112 0 .requesting) with cul := { count := 0 } };
       s.mayTakeGob 0 = false ∧ (s.chan 3).gobWait = none ∧ (s.fn 0).gobWait = 0 ∧ (s.requester 3).isSome = true
        ∧ ((s.modFn 0 fun x => { x with gobWait := 5 }).fn 0).gobWait ≠ 0
        ∧ (s.modFn 0 fun x => { x with gobWait := 5 }).mayTakeGob 0 = false)
    ∧ (pooled (gobWork 0x800000112 0 .requesting)).mayTakeGob 0 = true := by decide +kernel

/-- The Cullet with this chain on its way back. -/
def freeing (e : Freeing) (onBlock : Nat) : State :=
  { up with cul := { count := 1024, fresh := 1024, stack := List.range 300, onBlock := onBlock, freeing := [e] } }

/-- A chain of head 700 whose walk has come to its end, and one of head 1 at member 700, before and after its FREE
record. -/
def freeingEnds : Freeing := { head := 700, headGen := 1, allocFn := 0, cur := none }
def freeingAt (freed : Bool) : Freeing := { head := 1, headGen := 1, allocFn := 0, cur := some 700, freed := freed }

theorem witness_freeing :
    (∀ e ∈ [freeingEnds, freeingAt true], let s := freeing e 256;
      s.recBusy 700 = false ∧ s.cul.quarantined.contains 700 = false
        ∧ s.cul.freeing.find? (fun e => if e.cur.isSome then e.freed && e.cur == some 700 else e.head == 700) = some e)
    ∧ (let s := freeing (freeingAt false) 256; s.cul.freeing.find? (fun e => e.head == 1 && !e.freed) = some (freeingAt false))
    ∧ (let r : GobRec := { state := .member, head := 1, headGen := 1, last := true };
       parseRec 700 (recBits 700 r) = some r ∧ parseRec 700 (recBits 700 { r with head := 2 }) = some { r with head := 2 })
    ∧ ({ freeing freeingEnds 0 with cul := { (freeing freeingEnds 0).cul with quarantined := [700] } } :
        State).cul.quarantined.contains 700 = true
    ∧ 256 ≤ (freeing freeingEnds 256).cul.onBlock
    ∧ (let s := freeing freeingEnds 0; 0 < s.cul.inMemory ∧ s.cul.onBlock + 256 ≤ 16384 ∧ s.txns = []
        ∧ s.cul.onBlock < 16384) := by decide +kernel

/-- A sweep over two records; what it has read of the first. -/
def sweeping (r : GobRec) (head : Option (Nat × Option (BitVec 128))) : State :=
  { up with cul := { count := 4, fresh := 2, sweep := true, sweepEnd := 2, sweepNext := 64, sweepHead := head,
                     sweepData := [(0, r.bytes 0)] } }

theorem witness_sweep :
    (let s : State := { up with cul := { count := 4, fresh := 2, sweep := true, sweepEnd := 2 } };
     s.cul.sweep = true ∧ s.cul.sweepNext < s.cul.sweepEnd ∧ s.sweepReads < 64 ∧ s.sweepRec s.cul.sweepPos = none)
    ∧ (∀ r ∈ [({} : GobRec), { quar := true }, { state := .building, gen := 2 }, { state := .head, gen := 2, last := true }],
        (sweeping r none).sweepRec 0 = some (some r) ∧ r.state ≠ .member)
    ∧ (let m : GobRec := { state := .member, head := 1, headGen := 2, last := true }; let h : GobRec := { state := .head, gen := 2 };
       (sweeping m none).sweepRec 0 = some (some m) ∧ (sweeping m none).sweepHeadRec 1 = none
        ∧ (sweeping m (some (1, some (recBits 1 h)))).sweepHeadRec 1 = some (some h)
        ∧ (sweeping m (some (1, none))).sweepHeadRec 1 = some none ∧ h.gen = m.headGen)
    ∧ (let s := { sweeping {} none with cul := { (sweeping {} none).cul with sweepData := [(0, [])] } }; s.sweepRec 0 = some none)
    ∧ (0 : Nat) + 1 < 2 ∧ parseRec 0 0 = none
    ∧ (let s := sweeping {} none; (s.sweepAhead 0 = true ∧ s.sweepAhead 1 = true ∧ s.sweepAhead 2 = false)
        ∧ s.cul.quarantined.contains 0 = false) := by decide +kernel

/-- A peer entry for instance 9 on port 0, and windows of function 0. -/
def linked (w : List Work) : State :=
  { upChan { ringChan with ring := { ringChan.ring with t := 1, f := 1 }, started := w } with
    fns := [(0, { enabled := true, ready := true, windows := [(15, { pages := 1, read := true, write := true, token := 5 })] })]
    xez := { peers := [(255, { bound := true, inst := 9, funcMask := 0xFFFF })] } }

/-- A remote read of one byte. -/
def remoteRead : Work :=
  { serial := 1, idx := 0, peer := 255, desc := { q0 := 0x100000118, q1 := 0x0300000000000000, q2 := 64, q5 := 9 } }

/-- A request header from instance 9 to this one. -/
def reqHdr (seq : Nat) (sync : Bool) : FrameHdr :=
  { kind := kindReadReq, payloadLen := 0, srcId := 9, dstId := 7, seq := BitVec.ofNat 32 seq, chan := 127, window := 15
    fn := 0, svc := 1, sync := sync, last := true, status := 0, token := 5, offset := 4095, readLen := 1 }

set_option maxRecDepth 100000 in
theorem witness_remote_requests :
    (let s := linked [remoteRead]; s.member.hasXezan = true ∧ s.opt.bad = false ∧ s.xez.outstanding < 1024 ∧ s.xez.placePtr < 128
      ∧ (s.readyWork 3).isSome = true ∧ s.isStale 3 remoteRead = false ∧ remoteRead.desc.toRemote = false
      ∧ ∀ o, o < 128 → (s.readyWork o).isSome = true → (3 + 128 - s.xez.placePtr) % 128 ≤ (o + 128 - s.xez.placePtr) % 128)
    ∧ (let s := linked []; s.xezanOn 1 = true ∧ s.peerOf 9 = some 255 ∧ s.peerOf 10 = none
      ∧ s.receive (frameBytes (reqHdr 0 true) []) false = .good ∧ s.receive (frameBytes (reqHdr 0 true) []) true ≠ .good
      ∧ (frameHdr (frameBytes (reqHdr 0 true) [])).isRequest = true
      ∧ (let r := { reqHdr 0 false with kind := kindReadResp, token := 0, payloadLen := 1 };
         s.receive (frameBytes r [0]) false = .good ∧ (frameHdr (frameBytes r [0])).isResponse = true)) := by decide +kernel

/-- A request of channel 3 that waits in the queue of port 0. -/
def queued : XReq := (linked [remoteRead]).nextReq 3 remoteRead

theorem witness_transmit :
    (let s : State := { linked [remoteRead] with xez := { (linked []).xez with reqs := [queued] } };
     s.nextSend 0 = some queued ∧ queued.abandoned = false ∧ s.xez.respq = [])
    ∧ (let q := { queued with phase := ReqPhase.sent 0 };
       let s : State := { linked [remoteRead] with xez := { (linked []).xez with reqs := [q] } };
       s.xez.reqs.find? (fun r => r.id == q.id && !r.abandoned) = some q ∧ (s.chan q.pch).state ≠ .aborting
        ∧ (q.retries < ({ q with retryLimit := 1 } : XReq).retryLimit) ∧ q.retryLimit ≤ q.retries) := by decide +kernel

/-- A request that waits for its turn, held from refclk 0; E of its channel is `e`. -/
def heldReq (seq : Nat) (e : W32) : State :=
  { linked [] with xez := { (linked []).xez with
      recv := [(128 * 255 + 127, { expected := e, initial := false })]
      jobs := [{ id := 4, port := 1, peer := 255, hdr := reqHdr seq false, payload := [] }] } }

/-- Sequence numbers one behind E, at E, one ahead, and half the range ahead. -/
theorem witness_served :
    seqAhead 5 4 = 2 ^ 32 - 1 ∧ seqAhead 5 5 = 0 ∧ seqAhead 5 6 = 1 ∧ seqAhead 5 (5 + 2147483648) = 2 ^ 31
      ∧ seqAhead 5 (5 + 2147483647) = 2 ^ 31 - 1
      ∧ (((heldReq 5 5).heldOf 255 127).find? fun j => j.hdr.seq == 5).isSome = true
      ∧ (((heldReq 6 5).heldOf 255 127).find? fun j => j.hdr.seq != 5).isSome = true
      ∧ (linked []).windowCheck (reqHdr 0 true) = 0 ∧ (linked []).windowCheck { reqHdr 0 true with offset := 4096 } = 4
      ∧ (linked []).windowCheck { reqHdr 0 true with token := 6 } = 2
      ∧ (linked []).windowCheck { reqHdr 0 true with window := 14 } = 1
      ∧ (let j : XJob := { id := 4, port := 1, peer := 255, hdr := reqHdr 5 false, payload := [], held := false };
         let s : State := { linked [] with xez := { jobs := [j] } };
         s.xez.jobs.find? (fun j => j.id == 4 && !j.held && j.port == 1) = some j ∧ s.txns = [] ∧ j.status = 0
          ∧ j.failed = false ∧ j.hdr.kind = kindReadReq) := by decide +kernel

theorem witness_resets : State.reset.rst.coldHeld = true ∧ up.opt.debugLock = false ∧ up.rst.coldHeld = false
    ∧ ({ up with opt := { debugLock := true } } : State).opt.debugLock = true
    ∧ (let s : State := { up with rst := { up.rst with warmHeld := true } }; s.rst.warmHeld = true ∧ s.rst.optLoading = false)
    ∧ (let s : State := { up with rst := { coldHeld := false, releasing := true, waiting := 511, sweep := true } };
       s.rst.releasing = true ∧ s.rst.waiting.getLsbD 0 = true ∧ s.rst.waiting.getLsbD 8 = true ∧ s.rst.optEvent = false
        ∧ s.rst.sweep = true ∧ s.member.hasCullet = true ∧ s.txns = [])
    ∧ (let s := { upFn { resetting := true } with chans := up.chans }; (s.fn 0).resetting = true ∧ s.fnQuiet 0 = true
        ∧ (s.chan 3).owner = some (0, 1))
    ∧ ((up.setBench 7 { up.bench 7 with resetting := true }).bench 7).resetting = true := by decide

/-- Words 0 to 14 of an option map: `format` 1 and instance 7; the CRC of R325 over them is 0x66C6 for format 1 and 0xEAA2
for format 2, worked out by hand from R325's polynomial. -/
def loading (format : W32) : State :=
  { up with
    rst := { coldHeld := false, optLoading := true, optNext := 15 }
    opt := { words := [(0, format), (1, 7)] } }

set_option maxRecDepth 100000 in
theorem witness_option_load :
    (let w := fun (f v : W32) i => look 0 (put (loading f).opt.words 15 v) i;
     (crc16 (optBytes (w 1 0x66C6))).toNat = (w 1 0x66C6 15).toNat % 2 ^ 16 ∧ optContentOk up.member (w 1 0x66C6) = true
      ∧ (crc16 (optBytes (w 2 0xEAA2))).toNat = (w 2 0xEAA2 15).toNat % 2 ^ 16 ∧ optContentOk up.member (w 2 0xEAA2) = false
      ∧ (crc16 (optBytes (w 1 0))).toNat ≠ (w 1 0 15).toNat % 2 ^ 16)
    ∧ (loading 1).rst.coldHeld = false ∧ (loading 1).rst.optLoading = true ∧ (loading 1).rst.optNext = 15
    ∧ (let s : State := { up with rst := { up.rst with crucible := false } }; cclkUp s = true ∧ s.rst.crucible = false) := by
  decide +kernel

/-- The header of an image that meets the format checks of Table 13-11: 1,024 bytes, unit 2, DIGEST_LO 0. -/
def imageHeader : List Byte :=
  leBytes 4 0x46474E56 ++ leBytes 2 1 ++ [0, 2] ++ leBytes 4 1 ++ leBytes 4 1024 ++ List.replicate 240 0

/-- A flash slot with this image and an activation record of this ACT_SEQ, if any. -/
def slotOf (seq : Option Nat) : FlashSlot :=
  { image := imageHeader, recordBytes := match seq with | some n => actRecord n 0 | none => [] }

/-- The image verifies when its digest and its signature, which are left open, do. -/
theorem witness_verifies (seq : Option Nat) (h1 : Config.digestMatches (imageBytes imageHeader 1024) = true)
    (h2 : Config.signatureVerifies (imageBytes imageHeader 1024) = true) : (slotOf seq).verifies = true := by
  have e : imageField (imageBytes imageHeader 256) 12 4 = 1024 := by decide +kernel
  have f : formatOk (imageBytes imageHeader 256) = true := by decide +kernel
  have u : imageField (imageBytes imageHeader 256) 7 1 = 2 := by decide +kernel
  simp [FlashSlot.verifies, imageResult, slotOf, e, f, u, h1, h2]

theorem witness_boot :
    (let s : State := { up with gaf := { image := some { slot := 0, bank := 0, version := 1, seq := 1 } } };
     s.gaf.state = .booting ∧ s.gaf.image.isSome = true ∧ s.rst.needFlash = false ∧ s.rst.stable.getLsbD 8 = true)
    ∧ ({ up with gaf := {} } : State).gaf.image = none
    ∧ (slotOf (some 4)).seq? = some 4 ∧ (slotOf (some 5)).seq? = some 5 ∧ (slotOf none).seq? = none
    ∧ flashImage (slotOf none) (slotOf none) = none := by decide +kernel

theorem witness_losses : up.rst.stable.getLsbD 8 = true ∧ up.gaf.state ≠ .booting ∧ up.member.safetyFull = true
    ∧ (∀ d, d < 9 → up.rst.stable.getLsbD d = true) ∧ up.rst.refLost = false
    ∧ (({ up with ports := [(63, {})] } : State).chans.any fun e => (e.2.inGroup 0).isSome) = false := by decide

/-- THERM_HIGH is 840 (84.0 degrees): at it, 16 below, 17 below. -/
theorem witness_sensors : let x := up.gaf.sensors; look false x.faulty 3 = false ∧ look true x.armed 3 = true
    ∧ x.thermHigh.toInt ≤ (840 : BitVec 16).toInt ∧ x.thermHigh.toInt - 16 ≤ (824 : BitVec 16).toInt
    ∧ (824 : BitVec 16).toInt < x.thermHigh.toInt ∧ (823 : BitVec 16).toInt < x.thermHigh.toInt - 16
    ∧ (let y := { x with droopLow := 700, excursion := [(2, true)] }; 699 < y.droopLow ∧ look false y.excursion 1 = false
        ∧ look false y.excursion 2 = true ∧ y.droopLow + 10 ≤ 710 ∧ y.droopLow ≤ 700) := by decide

/-! ### Witnesses: mailbox commands (`issues_of` turns `issuing` into `State.Issues`) -/

theorem witness_command_taken (mb : Nat) (h : mb = 0 ∨ mb = 16) : (issue up mb 1 []).Issues mb 1 [] := by
  rcases h with rfl | rfl <;> exact issues_of (by decide +kernel)

theorem witness_queries : issuing (issue up 0 1 []) 0 1 [] = true ∧ issuing (issue up 0 0xFF []) 0 0xFF [] = true
    ∧ codeKnown up.member 0xFF = false ∧ issuing (issue up 0 0x70 []) 0 0x70 [(0, 1)] = true
    ∧ reqByte ((issue up 0 0x70 []).mailbox 0) 0 = 0
    ∧ (∀ n ∈ [1, 7], let s := issue up 16 0x71 [(1, BitVec.ofNat 32 n)]; issuing s 16 0x71 [(0, 5)] = true
        ∧ reqByte (s.mailbox 16) 4 = n ∧ reqField (s.mailbox 16) 0 4 ≤ s.gaf.logNext) := by decide +kernel

theorem witness_thresholds :
    issuing (issue up 16 0x70 [(0, 1), (1, 0x02BC0348)]) 16 0x70 [(0, 1), (4, 4)] = true
      ∧ issuing (issue up 16 0x70 [(0, 2)]) 16 0x70 [(0, 1)] = true
      ∧ (∀ n ∈ [25, 16777215], let s := issue up 16 0x61 [(0, 0xFFFF), (1, BitVec.ofNat 32 n)];
          issuing s 16 0x61 [(0, 2), (4, 4)] = true ∧ reqField (s.mailbox 16) 4 4 = n)
      ∧ (let s := issue up 16 0x60 [(0, 127), (1, 1000), (2, 65535000)]; issuing s 16 0x60 [(0, 1), (4, 8)] = true
          ∧ s.member.chanPresent (reqByte (s.mailbox 16) 0) = true ∧ reqField (s.mailbox 16) 4 4 = 1000
          ∧ reqField (s.mailbox 16) 8 4 = 65535000) := by decide +kernel

theorem witness_function_commands :
    (let s := issue up 16 2 [(0, 0x010F)]; issuing s 16 2 [(0, 2)] = true ∧ reqByte (s.mailbox 16) 1 = 1
      ∧ s.member.fnPresent (reqByte (s.mailbox 16) 0) = true)
    ∧ (∀ x ∈ [({ enabled := true, ready := true } : Fn), { resetting := true }, {}],
        let s := issue { up with fns := [(15, x)] } 16 2 [(0, 0x000F)]; issuing s 16 2 [(0, 2)] = true ∧ s.fn 15 = x
          ∧ reqByte (s.mailbox 16) 1 = 0 ∧ reqByte (s.mailbox 16) 0 = 15)
    ∧ (let s := issue up 0 0x90 []; issuing s 0 0x90 [(0, 1)] = true ∧ s.member.fnPresent (actFn 0 (s.mailbox 0)) = true
        ∧ (s.fn (actFn 0 (s.mailbox 0))).resetting = false)
    ∧ (let s := issue up 16 0x91 [(0, 7)]; issuing s 16 0x91 [(0, 1)] = true ∧ reqByte (s.mailbox 16) 0 < s.member.benches
        ∧ s.benchIdle 7 = true)
    ∧ (let s := issue up 16 0x92 [(0, 0x5741524D)]; issuing s 16 0x92 [(0, 4)] = true
        ∧ reqField (s.mailbox 16) 0 4 = 0x5741524D) := by decide +kernel

/-- Slot 1 of function 0 is channel 3; slot 127 and channel 127 are free. -/
theorem witness_mapping :
    (∀ q ∈ [0x01030100, 0x017F7F00, 0x01037F00, 0x00030100], issuing (issue up 16 0x10 [(0, BitVec.ofNat 32 q)]) 16 0x10 [(0, 4)] = true)
    ∧ up.pchOf 0 1 = some 3 ∧ up.pchOf 0 127 = none ∧ (up.chan 127).owner = none ∧ (up.chan 3).owner ≠ none
    ∧ up.chanQuiet 3 = true ∧ up.member.slotPresent 127 = true ∧ up.member.chanPresent 127 = true := by decide +kernel

/-- A CHAN_CONFIG of slot 1: ring mode, ceiling 3, every other field at its least value. -/
def configuring : State := issue up 0 0x11 [(0, 0x00010100), (1, 0x01010103), (2, 1), (3, 0x00010000)]

theorem witness_channel_config : issuing configuring 0 0x11 [(0, 15), (16, 8)] = true
    ∧ (let x := configuring.mailbox 0; (chanCfgOf x).bad (reqByte x 2) = false ∧ (chanCfgOf x).cplRingMode = false
        ∧ (chanCfgOf x).paceSrc = 0 ∧ configuring.pchOf (actFn 0 x) (reqByte x 1) = some 3)
    ∧ (configuring.chan 3).ring.h = (configuring.chan 3).ring.t ∧ (configuring.chan 3).started = []
    ∧ (configuring.chan 3).direct.due = false
    ∧ (let c : ChanCfg := { paceSrc := 1, paceNum := 63, cplRingMode := true, cplRing := 15 };
       c.bad 2 = false ∧ ((pacing 0 0 {}).timer 63).holder = some 0 ∧ (look {} (ringed.fn 0).rings 15).bound = true) := by
  decide +kernel

theorem witness_ring_binds :
    (∀ k ∈ [2, 16], let s := issue (upChan { cfg := { ringMode := true } }) 0 0x12 [(0, BitVec.ofNat 32 (0x100 + 65536 * k)), (2, 0x1000)];
      issuing s 0 0x12 [(0, 4), (8, 8)] = true ∧ reqByte (s.mailbox 0) 2 = k ∧ reqByte (s.mailbox 0) 3 = 0
        ∧ regionBad (reqField (s.mailbox 0) 8 8) (64 * 2 ^ k) = false ∧ (s.chan 3).cfg.ringMode = true
        ∧ (s.chan 3).ring.h = (s.chan 3).ring.t ∧ s.pchOf 0 (reqByte (s.mailbox 0) 1) = some 3)
    ∧ (∀ k ∈ [4, 16], let s := issue up 0 0x13 [(0, BitVec.ofNat 32 (0x01000F00 + 65536 * k)), (2, 0x1000)];
        issuing s 0 0x13 [(0, 4), (8, 8)] = true ∧ reqByte (s.mailbox 0) 1 = 15 ∧ reqByte (s.mailbox 0) 2 = k
          ∧ reqByte (s.mailbox 0) 3 = 1 ∧ regionBad (reqField (s.mailbox 0) 8 8) (16 * 2 ^ k) = false
          ∧ ∀ e ∈ s.chans, e.2.cfg.cplRingMode = false) := by decide +kernel

/-- A grant of port 63 to function 0 at the largest limit, a revoke, and watermarks at the limit. -/
theorem witness_stream_commands :
    (let s := issue up 16 0x20 [(0, 0x0003003F), (1, 0xFF000004)]; let x := s.mailbox 16;
     issuing s 16 0x20 [(0, 3), (4, 4)] = true ∧ reqByte x 1 ≠ 0xFF ∧ s.member.portPresent (reqByte x 0) = true
      ∧ s.member.fnPresent (reqByte x 1) = true ∧ reqByte x 2 ≤ 3 ∧ reqField x 4 2 = 4 ∧ reqField x 6 2 = 65280
      ∧ (s.port 63).holder = none ∧ s.cruReserved - (s.port 63).reserve + 4 ≤ s.member.reservable
      ∧ s.portHolds 63 = false ∧ s.portNamed 63 = false ∧ (s.port 63).cells ≤ 65280 ∧ (s.port 63).highWm ≤ 65280 * 64)
    ∧ (let s := issue (ported (inbound [])) 16 0x20 [(0, 0xFF3F)]; issuing s 16 0x20 [(0, 2)] = true
        ∧ reqByte (s.mailbox 16) 1 = 0xFF ∧ (s.port 63).holder.isSome = true ∧ s.portHolds 63 = false
        ∧ s.portNamed 63 = false)
    ∧ (let s := issue (ported (inbound [])) 0 0x21 [(0, 0x3F00), (1, 1024), (2, 1023)]; let x := s.mailbox 0;
       issuing s 0 0x21 [(0, 2), (4, 8)] = true ∧ reqField x 8 4 < reqField x 4 4
        ∧ reqField x 4 4 = (s.port 63).limit * 64 ∧ (s.port (reqByte x 1)).holder = some (actFn 0 x)) := by decide +kernel

/-- A pool of 16 gobs in FCFS mode, and one in QUOTA mode. -/
def pool (quota : Bool) : State := { up with cul := { count := 16, quota := quota } }

theorem witness_pool_commands :
    (let s := issue (pool false) 16 0x30 [(1, 16), (2, 16), (3, 4)]; let x := s.mailbox 16;
     issuing s 16 0x30 [(0, 1), (4, 14)] = true ∧ reqField x 4 4 ≤ reqField x 8 4 ∧ reqField x 8 4 ≤ s.cul.count
      ∧ reqField x 12 4 < 2 ^ 28 ∧ s.reserveSum (reqByte x 0) 16 ≤ s.cul.count - s.cul.quar ∧ s.cul.quota = false)
    ∧ (∀ quota, issuing (issue (pool quota) 16 0x31 []) 16 0x31 [(0, 1)] = true
        ∧ (issue (pool quota) 16 0x31 []).cul.sweep = false)
    ∧ (let s := issue (pool false) 16 0x31 [(0, 1)]; issuing s 16 0x31 [(0, 1)] = true ∧ reqByte (s.mailbox 16) 0 = 1
        ∧ s.unusedSum ≤ s.cuFree)
    ∧ (let s := issue (pool false) 16 0x31 [(0, 2), (1, 16), (2, 0x10000), (4, 0x20000), (6, 0x21000)]; let x := s.mailbox 16;
       issuing s 16 0x31 [(0, 1), (4, 28)] = true ∧ reqByte x 0 = 2 ∧ reqField x 4 4 = 16 ∧ 16 ≤ 2 ^ s.member.gobBits
        ∧ regionBad (reqField x 8 8) (4096 * 16) = false ∧ regionBad (reqField x 16 8) (16 * 16) = false
        ∧ regionBad (reqField x 24 8) (4 * 16) = false ∧ overlap (reqField x 8 8) 65536 (reqField x 16 8) 256 = false
        ∧ overlap (reqField x 8 8) 65536 (reqField x 24 8) 64 = false ∧ overlap (reqField x 16 8) 256 (reqField x 24 8) 64 = false
        ∧ s.cul.fresh ≤ s.cul.stack.length + s.cul.quarantined.length) := by decide +kernel

theorem witness_timer_commands :
    (∀ period ∈ [0, 100], let s := issue (pacing 0 0 {}) 0 0x40 [(0, 0x3F0000), (2, 5000), (4, BitVec.ofNat 32 period)];
      issuing s 0 0x40 [(0, 3), (8, 16)] = true ∧ reqByte (s.mailbox 0) 2 = 63 ∧ reqField (s.mailbox 0) 16 8 = period
        ∧ (s.timer 63).holder = some (actFn 0 (s.mailbox 0)))
    ∧ issuing (issue (pacing 0 0 {}) 0 0x40 [(0, 0x3F0100)]) 0 0x40 [(0, 3)] = true
    ∧ (∀ q ∈ [0x3F0200, 0x3E0200, 0x3F0300, 0x3E0300, 0x3F0201, 0x3F0301],
        issuing (issue (pacing 0 0 {}) 16 0x40 [(0, BitVec.ofNat 32 q)]) 16 0x40 [(0, 3)] = true)
    ∧ ((pacing 0 0 {}).timer 63).holder = some 0 ∧ ((pacing 0 0 {}).timer 62).holder = none
    ∧ (pacing 0 0 {}).gateUsed 1 63 = false ∧ up.member.fnPresent 1 = true := by decide +kernel

/-- Requests about TRIG_IN 15 and TRIG_OUT 15, held by function 0, and 14, held by nobody. -/
theorem witness_trigger_commands :
    let s := pacing 0 0 { holder := some 0 };
    (∀ q ∈ [0x0F000200, 0x0E000200, 0x0F000201, 0x0F010200, 0x0E0102FE, 0x0F000300, 0x0E000300, 0x0F010300, 0x0F010301],
      issuing (issue s 16 0x41 [(0, BitVec.ofNat 32 q)]) 16 0x41 [(0, 4)] = true
        ∧ (s.party (reqByte ((issue s 16 0x41 [(0, BitVec.ofNat 32 q)]).mailbox 16) 0)).isSome = true)
    ∧ s.trigHolder 0 15 = some 0 ∧ s.trigHolder 0 14 = none ∧ s.trigHolder 1 15 = some 0 ∧ s.trigHolder 1 14 = none
    ∧ s.gateUsed 2 15 = false ∧ s.party 0xFE = some 16 := by decide +kernel

/-- Routes to every kind of target that function 0 holds, for the last of channel 3's sources; its vector 127. -/
theorem witness_routes_and_vectors :
    let s := { pacing 0 0 { holder := some 0 } with ev := { (pacing 0 0 { holder := some 0 }).ev with ints := [(63, some 0)] } };
    (∀ q ∈ [0, 0x003F0001, 0x007F0002, 0x000F0003, 0x00FF0004],
      let t := issue s 0 0x42 [(0, 0x001F0000), (1, BitVec.ofNat 32 q)]; let x := t.mailbox 0;
      issuing t 0 0x42 [(0, 8)] = true ∧ reqByte x 1 = 0 ∧ reqField x 2 2 = 31 ∧ sourceBad t.member 31 = false
        ∧ t.routeBad 0 x = false ∧ t.sourceOwner 31 = some 0 ∧ t.holdsTarget 0 (routeOf 0 x) = true
        ∧ t.eventParty 0 x = some 0)
    ∧ (∀ count ∈ [1, 256], let t := issue s 0 0x42 [(0, 0x007F0100), (1, BitVec.ofNat 32 count), (2, 1), (4, 0x1000), (6, 7)];
        let x := t.mailbox 0; issuing t 0 0x42 [(0, 9), (16, 12)] = true ∧ reqByte x 1 = 1 ∧ reqField x 2 2 = 127
          ∧ reqField x 4 2 = count ∧ reqByte x 8 = 1 ∧ reqField x 16 8 % 4 = 0 ∧ t.vecHolder (vecOf 0 127) = 0
          ∧ vecOf 0 127 < 128 * t.member.functions)
    ∧ (let t := issue s 16 0x42 [(0, 0x07FF01FE), (1, 1), (2, 0), (4, 0x1000)]; (t.eventParty 16 (t.mailbox 16)) = some 16
        ∧ reqField (t.mailbox 16) 2 2 = 2047) := by decide +kernel

theorem witness_wire_and_vector_grants :
    let s : State := { up with ev := { ints := [(63, some 0)], vecs := [(2047, { admin := true })] } };
    (∀ q ∈ [(0x010200, 63), (0x010200, 62), (0x0202FE, 2046), (0x010300, 62), (0x010300, 63), (0x0203FE, 2047)],
      issuing (issue s 16 0x42 [(0, BitVec.ofNat 32 q.1), (1, BitVec.ofNat 32 q.2)]) 16 0x42 [(0, 3), (4, 2)] = true)
    ∧ look none s.ev.ints 63 = some 0 ∧ look none s.ev.ints 62 = none ∧ (s.vec 2046).admin = false
    ∧ s.vecRouted 2046 = false ∧ 2046 / 128 < 16 ∧ (s.vec 2047).admin = true ∧ (s.vec 2047).outstanding = false
    ∧ 2047 < 128 * s.member.functions := by decide +kernel

theorem witness_windows_and_peers :
    (∀ pages ∈ [1, 2 ^ 24], let s := issue up 16 0x50 [(0, 0x00070F0F), (1, 5), (2, 0x1000), (4, BitVec.ofNat 32 pages)];
      let x := s.mailbox 16; issuing s 16 0x50 [(0, 20)] = true ∧ reqField x 16 4 = pages ∧ s.member.fnPresent (reqByte x 0) = true
        ∧ reqByte x 1 = 15 ∧ reqByte x 2 ≤ 15 ∧ reqField x 4 4 ≠ 0
        ∧ regionBad (reqField x 8 8) (4096 * pages) = false ∧ (look {} (s.fn 15).windows 15).pages = 0)
    ∧ (let s := issue up 16 0x50 [(0, 0x0F0F)]; issuing s 16 0x50 [(0, 2), (16, 4)] = true ∧ reqField (s.mailbox 16) 16 4 = 0)
    ∧ (let s := issue up 16 0x51 [(0, 0x070101FF), (1, 0x3FFFF), (2, 0xFFFF)]; let x := s.mailbox 16;
       issuing s 16 0x51 [(0, 10), (16, 8)] = true ∧ reqByte x 1 = 1 ∧ reqByte x 2 < s.member.xezanPorts ∧ reqByte x 3 = 7
        ∧ reqField x 4 4 = 2 ^ 18 - 1 ∧ reqField x 4 4 ≠ s.opt.instanceId ∧ s.opt.bad = false ∧ s.xez.peers = [])
    ∧ issuing (issue up 16 0x51 [(0, 255)]) 16 0x51 [(0, 2)] = true := by decide +kernel

/-- A staging is open with 252 bytes written, so that the next 4 cross a page. -/
def staging : State := { up with gaf := { up.gaf with staging := true, staged := 252 } }

theorem witness_staging :
    issuing (issue up 16 0x80 []) 16 0x80 [(0, 1)] = true ∧ up.gaf.act = none
      ∧ (∀ len ∈ [4, 8], let s := issue staging 16 0x80 [(0, 1), (1, 252), (2, BitVec.ofNat 32 len), (4, 0xAABBCCDD)];
         let x := s.mailbox 16;
         issuing s 16 0x80 [(0, 1), (4, 6), (16, reqField x 8 2)] = true ∧ reqByte x 0 = 1 ∧ reqField x 8 2 = len
          ∧ reqField x 4 4 = s.gaf.staged ∧ s.gaf.staging = true ∧ 256 - (slotBase s.gaf.inactive + 252) % 256 = 4)
      ∧ (∀ op ∈ [2, 3], issuing (issue staging 16 0x80 [(0, BitVec.ofNat 32 op)]) 16 0x80 [(0, 1)] = true)
      ∧ issuing (issue up 16 0x80 [(0, 2)]) 16 0x80 [(0, 1)] = true ∧ up.gaf.staging = false
      ∧ (let s : State := { up with gaf := { up.gaf with flashMb := some 16 } }; s.gaf.flashMb = some 16
          ∧ s.gaf.state = .running ∧ s.gaf.flashStatus = 0)
      ∧ ({ up with gaf := { up.gaf with flashMb := some 16, flashStatus := 2 } } : State).gaf.flashStatus ≠ 0 := by
  decide +kernel

/-- An activation of slot 1 at step `step`. -/
def activating (step : ActStep) (state : GafState) : State :=
  { up with gaf := { up.gaf with
      state := state, verified := some (slotOf none), act := some { mb := 16, slot := 1, step := step } } }

theorem witness_activation :
    (let s := issue { up with gaf := { up.gaf with verified := some (slotOf none) } } 16 0x81 [(0, 1)];
     issuing s 16 0x81 [(0, 1)] = true ∧ s.gaf.act = none ∧ s.gaf.verified.isSome = true ∧ s.gaf.staging = false
      ∧ reqByte (s.mailbox 16) 0 = s.gaf.inactive)
    ∧ (∀ step ∈ [ActStep.loading, .loaded, .resumed], let s := activating step .running; s.gaf.state = .running
        ∧ s.gaf.recovery = false ∧ s.gaf.verified = some (slotOf none) ∧ s.unanswered 16 = false
        ∧ s.gaf.act.map Activation.step = some step)
    ∧ (activating .paused .paused).gaf.act.map Activation.step = some .paused
    ∧ (activating .paused .paused).gaf.verified = some (slotOf none) := by decide +kernel

/-- A mailbox whose request repeats the last applied one. -/
def repeated : State :=
  (issue up 0 0x90 []).modMailbox 0 fun x => { x with store := some { code := 0x90, seq := 5, reply := [], ready := true } }

theorem witness_refusals : repeated.canTake 0 = true ∧ (repeated.mailbox 0).code.toNat = 0x90
    ∧ (repeated.mailbox 0).store.map (fun r => (r.code, r.seq)) = some ((repeated.mailbox 0).code, (repeated.mailbox 0).seq)
    ∧ (let s := issue { up with gaf := { up.gaf with recovery := true } } 0 0x90 []; s.canTake 0 = true
        ∧ (s.mailbox 0).store = none ∧ s.gaf.recovery = true)
    ∧ (let s := issue up 0 0x61 []; s.canTake 0 = true ∧ (s.mailbox 0).store = none ∧ (s.mailbox 0).code.toNat = 0x61)
    ∧ reqZeroOutside ((issue up 0 0x90 [(0, 0x100)]).mailbox 0) [(0, 1)] = false := by decide +kernel

/-! ### Witnesses: clauses of statements -/

theorem witness_administrative : up.PortUp ∧ 7 < up.member.benches ∧ up.member.portPresent 63 = true ∧ (2 : Nat) < 3
    ∧ up.stale 0 = true ∧ chained.stale (handleOf 9 5) = false := ⟨⟨rfl, rfl⟩, by decide⟩

/-- Three of four pushed entries are visible; a channel that does not run, one that is parked, F not at the first. -/
theorem witness_push_runs :
    (let ds := (List.range 4).map (descOfPush [(0, 0x100), (16, 0x100), (32, 0x100)]);
     (∀ j, j < 3 → ds[j]?.map Desc.phase = some (expectedPhase 2 (ringAdd 2 0 j)))
      ∧ ds[3]?.map Desc.phase ≠ some (expectedPhase 2 (ringAdd 2 0 3)))
    ∧ ({ ringChan with state := .stopped } : Chan).state ≠ .running
    ∧ ({ ringChan.ring with parked := true } : Machine.Ring).parked = true ∧ ringAdd 2 1 4 ≠ 4 := by decide

theorem witness_control_more : ((upChan ringChan).chan 3).state = .running ∧ ((upChan ringChan).chan 3).halt.pending = false
    ∧ ((upChan { ringChan with state := .stopping }).chan 3).state = .stopping
    ∧ ((upChan { ringChan with halt := { pending := true } }).chan 3).halt.pending = true
    ∧ ((upChan { ringChan with started := [nop] }).chan 3).started ≠ [] ∧ (upChan ringChan).chan 3 ≠ {} := by decide

/-- Port 63 outbound, named by a started copy to it or by none; a drained halted function; vectors of function 0. -/
theorem witness_function_registers :
    (let s := ported { enable := true, dirOut := true, holder := some 0 }; (s.port 63).dirOut = true ∧ s.portNamed 63 = false)
    ∧ (let s : State := { upFn { halted := true } with chans := [(3, { owner := some (0, 1), state := .halted })] };
       s.fnDrained 0 = true ∧ (s.fn 0).drained = false ∧ (s.chan 3).started = [])
    ∧ ((upFn { halted := true, drained := true }).fn 0).drained = true
    ∧ (let s := pacing 0 0 {}; let t := s.modFn 0 fun x => { x with msiMask := BitVec.allOnes 128 };
       (t.fn 0).msiMask.getLsbD 0 = true ∧ (0 : W32).getLsbD 0 = false ∧ (t.vec 0).admin = false
        ∧ (t.vec 0).outstanding = false ∧ 0 < (t.vec 0).raises ∧ (t.vec 1).raises = 0)
    ∧ up.member.portPresent 63 = true ∧ ((ported { holder := some 0 }).port 63).holder = some 0 := by decide

theorem witness_holding_bounds : countBits (chained.gobRec 5).holdMask < 15 ∧ chained.cul.quarantined.contains 5 = false
    ∧ (chained.gobRec 5).last = true ∧ 8 ≤ chained.cul.fresh := by decide

/-- hclk waits for its release; a refused read finds the queue full. -/
theorem witness_held_access :
    (let s : State := { up with rst := { up.rst with stable := 507, releasing := true, waiting := 4 } };
     hclkUp s = false ∧ s.rst.releasing = true ∧ s.rst.waiting.getLsbD 2 = true)
    ∧ regKind slow.member (wordAddr 0x200020) ≠ .hole ∧ 0x200018 ≤ wordAddr 0x200020 := by decide

/-- Which GOs share an edge is open: both cases of it, from mailboxes 16, 3 and 5 with one GO pending. -/
theorem witness_go_edges : (Config.goTied 0 = false ∨ Config.goTied 0 = true)
    ∧ (let s : State := { up with goOrder := [3], goTied := [3] }; s.goOrder.length - s.goTied.length = 0
        ∧ (s.mailbox 5).busy = false ∧ s.gaf.down = false) := by
  refine ⟨?_, by decide⟩
  cases Config.goTied 0 <;> simp

/-- A packet of one word that waits in inbound port 0 of function 0. -/
def waiting (q0 q1 : W64) (l : List Packet) : State :=
  { upChan { ringChan with ring := { ringChan.ring with t := 1, f := 1, accepted := [{ idx := 0, desc := { q0 := q0, q1 := q1, q2 := 64 } }] } } with
    ports := [(0, { enable := true, holder := some 0, reserve := 4, limit := 16, packets := l })]
    xez := { peers := [(255, { bound := true, inst := 9, funcMask := 0xFFFF })] } }

def oneWord : Packet := { words := [0], slots := 4 }

/-- STREAM_IN of 4 bytes and of none that fits, STREAM_IN_GOB, WAIT_TRIG, PUNTY, a chain-sourced COPY, REMOTE_READ. -/
theorem witness_started_kinds :
    (∀ l ∈ [[], [oneWord]], let s := waiting 0x900000111 0x0100000000000000 l; s.work? 3 s.nextId = none
      ∧ (s.startable 3).isSome = true ∧ (s.chan 3).cfg.paceSrc = 0 ∧ (s.port 0).packets = l)
    ∧ (let d : Desc := { q0 := 0x900000111, q2 := 64 }; d.op = some .streamIn ∧ wordsFitting d.dstLayout d.length ≠ 0)
    ∧ wordsFitting 0 0 = 0
    ∧ (let d : Desc := { q0 := 0x800000112 }; d.op = some .streamInGob ∧ wordBytes d.dstLayout oneWord.words.length ≤ d.length)
    ∧ (let d : Desc := { q0 := 0x300000112 }; d.length < wordBytes d.dstLayout oneWord.words.length)
    ∧ ({ q0 := 0x122 } : Desc).op = some .punty ∧ ({ q0 := 0x118 } : Desc).op = some .remoteRead
    ∧ ({ q0 := 0x101, q1 := BitVec.ofNat 64 (2 ^ 57) } : Desc).fromChain = true
    ∧ (waiting 0x118 0 []).peerFor 0 9 = some (255, { bound := true, inst := 9, funcMask := 0xFFFF })
    ∧ (waiting 0x118 0 []).peerFor 0 10 = none
    ∧ (upFn { sigCnt := [(1, 1)] }).sigCount 0 1 = 1 ∧ up.sigCount 0 1 = 0 := by decide +kernel

/-- A pass that takes a packet, and one whose credit the signal 5 is to give. -/
theorem witness_pass_kinds :
    (let s := upChan { state := .running, direct := { len := 9, src := 0x0100000000000000, dst := 64, due := true } };
     spaceOf (s.chan 3).direct.src = 1 ∧ wordsFitting (s.chan 3).passDesc.dstLayout (s.chan 3).passDesc.length ≠ 0)
    ∧ (let s := accepting 0x130 3; (s.chan 3).credit = 0 ∧ s.sigCount 0 (s.chan 3).cfg.paceNum = 0
        ∧ (s.chan 3).wantsSignal = none ∧ (s.startable 3).isSome = true) := by decide +kernel

/-- Class 0 is selected for channel 3, in step 1 and past its cap in step 2; its turn begins, goes on, and ends. -/
theorem witness_turns :
    asking.candidates 0 .read 0 0 true = [3] ∧ asking.selectClass 0 .read 0 = some (0, [3])
      ∧ (∀ k, k < 4 → capped.candidates 0 .read 0 k true = []) ∧ capped.candidates 0 .read 0 0 false = [3]
      ∧ (∀ j, j < 0 → asking.candidates 0 .read 0 j true = [])
      ∧ nextAfter 15 [3] = some 3 ∧ (asking.turn 0 {} [3]).map Prod.fst = some 3
      ∧ (let c : ClassState := { last := 3, inTurn := true, used := 0 }; c.inTurn = true ∧ c.last ∈ [3]
          ∧ c.used < (asking.chan 3).cfg.burst)
      ∧ (let c : ClassState := { left := [(3, 0)] }; nextAfter c.last ([3].filter fun i => decide (0 < look 0 (asking.turnsLeft 0 c) i))
          = none ∧ c.left ≠ [])
      ∧ asking.member.safetyFull = true ∧ up.member.chanPresent 0 = true
      ∧ (let s : State := { up with chans := [(0, { owner := some (0, 1) })] }; (s.chan 0).owner.isSome = true ∧ (s.chan 0).started = []) := by
  decide +kernel

/-- The purposes whose ends are stated, each with its owner in channel 3. -/
theorem witness_transaction_ends :
    (let w := { copied 0 with delivered := [], crcBits := 0 }; let s := executing w;
     s.work? 3 1 = some w ∧ w.abandoned = false ∧ w.halfRaised = false ∧ w.pass = false ∧ w.desc.intHalf = false
      ∧ w.desc.crcCheck = false ∧ w.pkt = none ∧ w.desc.viaFifo = false ∧ w.live = true ∧ w.desc.toPort = false)
    ∧ (let w := { copied 0x400 with delivered := [] }; w.desc.intHalf = true
        ∧ w.desc.halfMark ≤ ({ w with delivered := addRange 0 8 w.delivered } : Work).usedBits / 8)
    ∧ (let w := { copied 0x1000 with delivered := [], crcReg := 0 }; w.desc.crcCheck = true ∧ w.desc.op.any Op.comparesCrc = true
        ∧ w.clip = none ∧ w.crcBits = w.dataBits ∧ ~~~ w.crcReg ≠ w.desc.expectCrc
        ∧ ({ w with delivered := addRange 0 8 w.delivered } : Work).prefixBits = w.dataBits)
    ∧ (let t := burst (.completion 3) true 1 .queued; t.purpose.ungranted = true
        ∧ (burst (.dataRead 3 1 0 128) false 1 .queued).purpose.ungranted = false)
    ∧ up.portUp 0 = true ∧ ({ up with rst := { up.rst with stable := 509 } } : State).portUp 0 = false
    ∧ (let t := { burst (.dataRead 3 1 0 1) false 1 .issued with landing := .lane, space := 1, got := [0] };
       t.landing = .lane ∧ t.dropped = false ∧ t.voided = false ∧ t.failed = false) := by decide +kernel

/-- A gather of one entry whose table word `x` has been read; the offset 1 is in range, -1 and source 0 is not. -/
def gathering (x : Nat) : Work :=
  { serial := 1, idx := 0, desc := { q0 := 0x400000104, q2 := 64, q7 := 0x100000000 }, tableRaw := [(0, leBytes 4 x)] }

theorem witness_entries : ∀ x ∈ [1, 0xFFFFFFFF], let w := gathering x; let s := executing w;
    s.work? 3 1 = some w ∧ w.desc.op = some .gatherIdx ∧ Op.gatherIdx.usesTable = true ∧ w.live = true
      ∧ w.tableEnd = false ∧ w.entriesGranted = true ∧ w.entries.length < w.desc.entryCount
      ∧ tableSlice w.tableRaw (w.entries.length * w.desc.entrySize) w.desc.entrySize = some (leBytes 4 x)
      ∧ w.entryOk (BitVec.ofNat 128 (ofLeBytes (leBytes 4 x))) = decide (x = 1) := by decide +kernel

/-- Reads of a live, a dropped and an aborting channel's work; a queue of 63; a burst that waits for its reheat. -/
theorem witness_reheats :
    let r := burst (.dataRead 3 1 0 128) false 1 .issued; let s : State := { executing (copied 0) with txns := [r] };
    s.noReheat r = false ∧ s.noReheat { r with dropped := true } = true ∧ r.purpose.pch? = some 3
      ∧ ({ s with chans := [(3, { owner := some (0, 1), state := .aborting })] } : State).noReheat r = true
      ∧ r.purpose.serial? = some (3, 1) ∧ ({ s with txns := List.replicate 63 { r with phase := .queued } } : State).queueLen 0 false
        = 63 := by decide +kernel

/-- A copy of two bytes from a chain of one, all of it delivered, with and without a capture of time. -/
def overrun (flags : Nat) : Work :=
  { serial := 1, idx := 0, desc := { q0 := BitVec.ofNat 64 (0x200000101 + flags), q1 := BitVec.ofNat 64 (2 ^ 57 + handleOf 9 5), q2 := 64 }
    chain := .resolved, clip := some 8, rdExt := 1, crcBits := 8, delivered := [(0, 8)], headGob := 5, gobs := [{ gob := 5, bytes := 1 }] }

/-- Ends of work: a chain too short, a SIGNAL, the capture that is stale, a packet stale at its release. -/
theorem witness_ends :
    (∀ flags ∈ [0, 0x2000], let w := overrun flags; let s := executing w;
      s.chainExhausted 3 w = true ∧ s.isStale 3 w = decide (flags = 0x2000) ∧ (s.chan 3).state = .running ∧ w.pass = false)
    ∧ (let w := { nop with desc := { q0 := 0x121 } }; w.desc.op = some .signal ∧ ((executing w).chan 3).started = [w])
    ∧ (let w := copied 0x2000; let s := executing w; s.staleCause 3 w = some 4 ∧ s.work? 3 w.serial = some w ∧ w.live = true
        ∧ w.desc.fresh = true ∧ w.pass = false ∧ (s.chan 3).state ≠ .aborting)
    ∧ (let x := { copied 0 with pass := true }; let u := upChan { state := .stopping, started := [x] };
       u.finished 3 x = true ∧ (u.chan 3).state = .stopping)
    ∧ (let w := { copied 0 with segOk := 0 }; w.segReadCrc 0 = w.segWriteCrc 0 ^^^ (w.segReadCrc 0 ^^^ w.segWriteCrc 0)
        ∧ w.segReadCrc 0 ≠ w.segWriteCrc 0 ^^^ (w.segReadCrc 0 ^^^ w.segWriteCrc 0 ^^^ 1))
    ∧ laterThan 1 [nop, { nop with serial := 2 }] = [{ nop with serial := 2 }] := by decide +kernel

/-- Reports that load an abort's or a stop's registers, one that raises its signal, one record in a slot. -/
theorem witness_report_loads :
    (∀ l ∈ [none, some Cause.lehr, some .abort], let r := { okReport with loads := l, done := false, signal := some 5 };
      let s := upChan { ringChan with cpl := { flying := [r], outstanding := true } };
      (s.chan 3).cpl.flying = [r] ∧ (s.chan 3).cfg.cplRingMode = false ∧ (s.chan 3).cpl.due = false ∧ r.signal = some 5)
    ∧ (let c := { ringChan with cfg := { ringMode := true, cplRingMode := true, cplRing := 15 }
                                cpl := { flying := [okReport], flyingSlot := some 7, outstanding := true } };
       c.cpl.flyingSlot = some 7 ∧ okReport.done = true)
    ∧ (let r : CplRing := { order := 4, tail := 7 }; r.acked = [] ∧ 7 = r.tail ∧ 8 ≠ r.tail)
    ∧ ringChan.cfg.cplRingMode = false ∧ ringChan.cpl.outstanding = false := by decide

/-- Stops, aborts and halts with work, with an entry that is still waiting, in direct mode, and of a pass. -/
theorem witness_stop_kinds :
    (let e : Entry := { idx := 0, desc := { q0 := 0x130 } };
     let s := upChan { ringChan with state := .stopping, ring := { ringChan.ring with t := 1, f := 1, accepted := [e] } };
     (s.chan 3).ring.accepted = [e] ∧ (s.chan 3).started = [] ∧ (s.chan 3).halt.pending = false)
    ∧ (∀ ring, let s := upChan { ringChan with state := .aborting, cfg := { ringMode := ring }, started := [nop] };
       (s.chan 3).started = [nop] ∧ s.workDrained 3 = true ∧ (s.chan 3).halt.pending = false)
    ∧ (∀ pass, let w := { nop with pass := pass, verdict := some .crcMismatch, expectFailed := true };
       let s := upChan { ringChan with halt := { pending := true }, started := [w] };
       s.haltReady 3 = true ∧ (s.chan 3).failed = some w ∧ w.verdict.isSome = true)
    ∧ (let h : HaltPoint := { cause := .fetch, status := .busError, idx := 0, crc := 0 };
       let s := upChan { ringChan with halt := { pending := true, point := some h } };
       s.haltReady 3 = true ∧ (s.chan 3).failed = none ∧ (s.chan 3).halt.point = some h) := by decide

/-- Inbound queues of 32 beats, of whole packets and of one packet, at ports in every state that a beat may find. -/
theorem witness_inbound_kinds :
    (∀ q ∈ [List.replicate 32 full, List.replicate 32 cut], ∀ r d, let x := { inbound q with refusing := r, dropping := d };
      32 ≤ x.inq.length ∧ x.refusingIn = false ∧ (ported x).inboundOn 63 = true)
    ∧ (splitTail (List.replicate 32 full)).1 = [] ∧ (splitTail (List.replicate 32 cut)).1 ≠ []
    ∧ ((ported { inbound [full] with cut := true }).port 63).cut = true
    ∧ ((ported { inbound [full] with refusing := true }).port 63).refusing = true
    ∧ (let s := ported { inbound [full] with tailPos := 1024 }; s.hasRoom 63 = false ∧ (s.port 63).refusing = false
        ∧ (s.port 63).dropping = false ∧ (s.port 63).cut = false) := by decide +kernel

/-- STREAM_OUT of 4 bytes that have landed in the outbound FIFO, or have not. -/
def pumping (ready : Bool) : State :=
  let w : Work := { serial := 1, idx := 0, desc := { q0 := 0x400000110, q2 := 0x0100000000000000 }
                    landed := if ready then [{ off := 0, bytes := [1, 2, 3, 4], space := 1, last := 1 }] else [] }
  { executing w with ports := [(0, { enable := true, dirOut := true, holder := some 0, takers := [(3, 1)], reserved := 1 })] }

theorem witness_outbound_kinds :
    (∀ ready, let s := pumping ready; (s.port 0).takers = [(3, 1)] ∧ (s.port 0).outq.length < 32
      ∧ ((s.work? 3 1).bind Work.nextBeat).isSome = ready
      ∧ (s.work? 3 1).map (fun w => w.desc.viaFifo && decide (w.desc.dstAddr = 0)) = some true)
    ∧ (let s := sending 0 {}; s.workOf 1 = (s.work? 3 1).map (3, ·) ∧ (s.workOf 1).isSome = true)
    ∧ eccUe [] = false ∧ eccUe [{ addr := 0, stored := 0, flips := 3 }] = true
    ∧ (let w : Work := { serial := 1, idx := 0, pkt := some oneWord, desc := { q0 := 0x900000111, q1 := 0x0100000000000000, q2 := 64 } };
       let s := { executing w with ports := [(0, { inbound [] with flushWait := true, flushFor := [(3, 1)] })] };
       s.beingRead 0 = true ∧ (3, 1) ∈ s.takingPort 0) := by decide +kernel

/-- Scrubber cells held and free, and a rewrite whose word is written. -/
theorem witness_scrub_kinds :
    (let s := pumping true; ∃ f : CruFault, f.cell = s.cru.scrubCell ∧ f.uncorrectable = true)
    ∧ (let f : CruFault := { addr := 0, stored := 0, flips := 0 }; f.uncorrectable = false ∧ f.corrected = false) := by
  refine ⟨⟨{ addr := 0, stored := 0, flips := 3 }, by decide +kernel⟩, by decide⟩

/-- A remote write whose frame is ready, one response frame waiting, works that end a request in every way. -/
theorem witness_remote_kinds :
    (let w := { remoteRead with desc := { q0 := 0x100000119, q2 := 0x0300000000000000, q5 := 9 },
                                landed := [{ off := 0, bytes := [7], space := 1, last := 1 }] };
     let s := linked [w]; w.desc.toRemote = true ∧ (s.readyWork 3).isSome = true ∧ s.isStale 3 w = false)
    ∧ (let w := { remoteRead with desc := { remoteRead.desc with q0 := 0x100002118 } }; let s := linked [w];
       (s.readyWork 3).isSome = true ∧ s.isStale 3 w = true)
    ∧ (let s : State := { linked [] with xez := { (linked []).xez with respq := [(1, []), (0, [1])] } };
       s.xezanOn 0 = true ∧ s.xez.respq = [(1, [])] ++ (0, [1]) :: [] ∧ ∀ o ∈ [((1 : Nat), ([] : List Byte))], o.1 ≠ 0)
    ∧ (∀ st ∈ [ChState.running, .aborting], ∀ v ∈ [none, some Status.busError], let w := { remoteRead with verdict := v };
       let s := { linked [w] with chans := [(3, { owner := some (0, 1), state := st, started := [w] })] };
       s.work? queued.pch queued.serial = some w ∧ (s.chan queued.pch).state = st ∧ w.live = v.isNone ∧ w.desc.toPort = false)
    ∧ queued.hdr.kind = kindReadReq ∧ (linked []).work? queued.pch queued.serial = none := by decide +kernel

/-- A full set of held requests, a peer on port 1, windows at their bounds, jobs ready to answer. -/
theorem witness_serving_kinds :
    (let s : State := { linked [] with xez := { (linked []).xez with
        recv := [(128 * 255 + 127, { expected := 5, initial := false })]
        jobs := List.replicate 64 { id := 4, port := 1, peer := 255, hdr := reqHdr 9 false, payload := [] } } };
     64 ≤ (s.xez.jobs.filter fun j => j.held && j.peer == 255).length ∧ 0 < seqAhead 5 9 ∧ seqAhead 5 9 < 2 ^ 31
      ∧ (s.syncRecv 255 (reqHdr 9 false)).xez.jobs = s.xez.jobs ∧ s.xezanOn 0 = true)
    ∧ (let h := { reqHdr 0 true with kind := kindWriteReq, readLen := 0, payloadLen := 1 };
       let s := linked []; s.windowCheck h = 0 ∧ s.windowCheck { h with payloadLen := 2 } = 4 ∧ s.windowCheck { h with token := 6 } = 2
        ∧ h.fn < s.member.functions ∧ (s.windowOf h).pages = 1 ∧ h.offset + h.payloadLen = 4096)
    ∧ (∀ st ∈ [0, 4], ∀ failed, ∀ kind ∈ [kindReadReq, kindWriteReq],
       let j : XJob := { id := 4, port := 1, peer := 254, hdr := { reqHdr 5 false with kind := kind }, payload := []
                         held := false, status := st, failed := failed };
       let s : State := { linked [] with xez := { jobs := [j] } };
       s.xezanUp = true ∧ s.xez.jobs.find? (fun j => j.id == 4 && !j.held && s.portTo j.peer j.port == 1) = some j
        ∧ s.txRoom 1 1 = true ∧ s.txns = [])
    ∧ (linked []).portTo 255 1 = 0 ∧ (linked []).member.fnPresent (reqHdr 0 true).fn = true := by decide +kernel

/-- The test ports in the states that the clauses name; a domain that waits for its release. -/
theorem witness_test_ports :
    ({ phase := .captureDr } : Tap).instr = .idcode ∧ ({ phase := .captureDr, instr := .bypass } : Tap).instr ≠ .idcode
    ∧ up.opt.debugLock = false
    ∧ [true, true].all id = true ∧ ({ up with opt := { debugLock := true } } : State).opt.debugLock = true
    ∧ (let s : State := { up with rst := { up.rst with releasing := true, waiting := 511, sweep := true }, cul := chained.cul };
       (∀ d, d < 9 → s.rst.waiting.getLsbD d = true) ∧ s.rst.optEvent = false ∧ s.cul.fresh ≠ 0 ∧ s.member.hasCullet = true)
    ∧ (let s : State := { up with mailboxes := [(16, { busy := true, wait := .bench 7 })] };
       (s.mailbox 16).wait = .bench 7 ∧ (s.mailbox 16).busy = true ∧ gclkUp s = true) := by decide

/-- A repeat whose first answer is there, or still to come; an unknown code in recovery mode. -/
theorem witness_repeats :
    (∀ ready, let s := (issue up 0 0x90 []).modMailbox 0 fun x =>
        { x with store := some { code := 0x90, seq := x.seq, reply := [], ready := ready, waits := .resetDone 0 } };
      s.canTake 0 = true ∧ (s.mailbox 0).store.map (fun r => (r.code == (s.mailbox 0).code && r.seq == (s.mailbox 0).seq, r.ready))
        = some (true, ready))
    ∧ (let s := issue { up with gaf := { up.gaf with recovery := true, state := .recovery } } 16 0xFF [];
       s.canTake 16 = true ∧ codeKnown s.member (s.mailbox 16).code.toNat = false ∧ s.gaf.recovery = true
        ∧ (s.mailbox 16).store = none) := by decide

/-! ### Single steps -/

/-- The next state of an outcome; reset where there is none. -/
def after : Host.Outcome State Fault Refusal → State
  | .next t => t
  | _ => State.reset

/-- 05 "Worked example: staggered display pacing", its last row: 45 ms late, timer 5 fires once and MISSED is 2. -/
theorem test_display_timer :
    let s : State := { up with
      time := { tnow := 71250000, lastValid := true, unset := false }
      ev := { timers := [(5, { holder := some 1, period := 20000000, next := 26250000, armed := true })] } };
    let x := (after (exec (.timerFire 5) s)).timer 5; x.next = 86250000 ∧ x.missed = 2 ∧ x.armed = true := by decide +kernel

/-- 05, the row at 24,000,000: signal 12 with no waiter counts 1. -/
theorem test_signal_count : (after (exec (.sigRaise 0 12 15) up)).sigCount 0 12 = 1 := by decide +kernel

/-- 03 "Worked race": the eighth re-read finds nothing; the channel parks and raises RING_STALE, and a doorbell of the same
tail unparks it. -/
theorem test_append_race :
    let s := { fetched false 8 with chans := [(3, { ringChan with
      owner := some (0, 1), ring := { ringChan.ring with order := 4, t := 8, f := 6, h := 6, retries := 8 } })] };
    let t := after (exec (.fetchResult 3 [twoEntries 0x30 0x130] .okay) s);
    (t.chan 3).ring.parked = true ∧ (t.chan 3).ring.f = 6 ∧ t.isPending (chanEvent 3 2) = true
      ∧ ((after (exec (.doorbell 0 1 8 15) t)).chan 3).ring.parked = false := by decide +kernel

/-- 08 Table 8-6: the chain of gob 0x3A51 with this generation and holders, named freer (2, 7); the handle is 0x08003A51. -/
def frameChain (freerFn freerSlot : Nat) (holders : BitVec 16) : State :=
  let x : Fn := { enabled := true, ready := true, gobHandle := 0x08003A51 };
  { up with
    fns := [(0, x), (2, x), (5, x)]
    cul := { count := 0x10000, fresh := 0x8000
             records := [(0x3A51, { state := .head, gen := 1, last := true, freerFn := freerFn, freerSlot := freerSlot, holdMask := holders })] } }

/-- Step 2: function 0 shares with function 5; steps 6, 7 and 9: function 2 frees too early, then in time, and the head's
generation is 2. -/
theorem test_frame_chain :
    let shared := after (exec (.gobShare 0 4 5 15) (frameChain 0 4 1));
    let early := after (exec (.gobFree 2 7 15) (frameChain 2 7 0x24));
    let freed := after (exec (.gobFree 2 7 15) (frameChain 2 7 4));
    (shared.gobRec 0x3A51).holdMask = 0x21 ∧ (early.fn 2).gobResult = 4 ∧ early.cul.premature = 1
      ∧ (early.gobRec 0x3A51).holdMask = 0x24 ∧ (freed.gobRec 0x3A51).gen = 2 ∧ (freed.gobRec 0x3A51).state = .free := by
  decide +kernel

/-- Step 10: the freed handle is stale, a double free. -/
theorem test_double_free :
    let s := { frameChain 2 7 4 with cul := { (frameChain 2 7 4).cul with records := [(0x3A51, { gen := 2 })] } };
    let t := after (exec (.gobFree 2 7 15) s); (t.fn 2).gobResult = 1 ∧ t.cul.doubleFree = 1 ∧ t.isPending 1457 = true := by
  decide +kernel

/-- R58: a sample that steps back is discarded and counted. -/
theorem test_backstep : let t := after (exec (.timeSample 999 true) up); t.time.tnow = 1000 ∧ t.time.backsteps = 1 := by
  decide +kernel

/-- Tables 4-1 and 2-3: a granted fetch of four entries is one burst of two beats at the ring's base, with the function's
number in AxUSER and SC0's QOS. -/
theorem test_fetch_burst :
    let s := upChan { ringChan with ring := { ringChan.ring with t := 4 } };
    (after (exec (.schedulerGrant 0 .read 0 false {}) s)).txns.map (fun t => (t.addr, t.beats, t.rlen, t.qos))
      = [(0x1000, 2, 256, 3)] := by decide +kernel

/-- 14 Table 14-14: G_ID of the VN-128 reads "VN" and its member code. -/
theorem test_read_identity : (after (exec (.registerRead 0x200000 1) up)).apb = { prdata := 0x564E0128, pslverr := false } := by
  decide +kernel

/-- R40: the same read without privilege returns zero and is counted. -/
theorem test_unprivileged_read : let t := after (exec (.registerRead 0x210B14 0) up); t.apb.prdata = 0 ∧ t.glob.admIgn = 1 := by
  decide +kernel

/-- R339, R341: GO of a GET_INFO, its take and its reply of 44 bytes. -/
theorem test_get_info : let t := after (exec (.getInfo 0) (issue up 0 1 []));
    (t.mailbox 0).busy = false ∧ (t.mailbox 0).done = true ∧ (t.mailbox 0).status = 0 ∧ t.goOrder = [] := by decide +kernel

/-- R317, R319: a cold reset of a running block; the alarm is asserted with both rails low, and its release loads the
option map. -/
theorem test_cold_reset : let t := after (exec .coldReset up); t.rst.coldHeld = true ∧ t.chans = [] ∧ t.safety.cause = 0x8000
    ∧ (after (exec .resetRelease t)).rst.optLoading = true := by decide +kernel

/-- R284, R285: the loss of sclk0 is recorded and sets the cause CLOCK. -/
theorem test_clock_loss : let t := after (exec (.clockLoss 3) up); t.rst.lost = 8 ∧ t.safety.clkLoss = 8
    ∧ t.safety.cause.getLsbD 6 = true := by decide +kernel

/-- The queue: two commands run in their order. -/
theorem test_queue_order : let s := { up with pending := [.timeSample 2000 true, .timeSample 3000 true] };
    (after (step s)).pending = [.timeSample 3000 true] ∧ (after (step s)).time.tnow = 2000
      ∧ (after (step (after (step s)))).time.tnow = 3000 := by decide +kernel

/-- The table gives no row bits, so no word spells a command. -/
theorem test_decode : decodeTableWord 32 5 = none ∧ State.withFetchWord up 32 5 = up := ⟨rfl, rfl⟩

end Sys2Proof.Tests
end

section
/-! The register port's answer (R16, R39): what an access of a hole does, and that no other access asserts PSLVERR. -/

namespace Sys2Proof.Machine

variable {s : State} {a : BitVec 22} {d : W32} {strb : BitVec 4} {prot : BitVec 3}

/-! ### The rows of the port, as accesses -/

theorem exec_registerRead (s : State) (a : BitVec 22) (prot : BitVec 3) :
    exec (.registerRead a prot) s = .next (s.apbRead a prot) := rfl

theorem exec_registerWrite (s : State) (a : BitVec 22) (d : W32) (strb : BitVec 4) (prot : BitVec 3) :
    exec (.registerWrite a d strb prot) s = .next (s.apbWrite a d strb prot) := rfl

/-- At a hole, APB_HOLE_ACCESS is the read or the write of that address. -/
theorem exec_apbHoleAccess_of_hole (h : regKind s.member (wordAddr a) = .hole) (write : Bool) :
    exec (.apbHoleAccess a write) s = .next (if write then s.apbWrite a 0 0b1111 1 else s.apbRead a 1) :=
  if_pos h

/-! ### Accesses of a hole -/

/-- The hole is decided before PPROT, so the read has no effect and is not counted as refused. -/
theorem apbRead_hole (hu : hclkUp s = true) (h : regKind s.member (wordAddr a) = .hole) :
    s.apbRead a prot = { s with apb := { prdata := 0, pslverr := true } } := by
  unfold State.apbRead; simp [hu, h]

/-- The hole is decided before PPROT and the strobes, so no entry reaches the register-write queue. -/
theorem apbWrite_hole (hu : hclkUp s = true) (h : regKind s.member (wordAddr a) = .hole) :
    s.apbWrite a d strb prot = s.answer true := by
  unfold State.apbWrite; simp [hu, h]

/-! ### Accesses of a defined register -/

@[simp] theorem State.answer_pslverr (s : State) (err : Bool) : (s.answer err).apb.pslverr = err := rfl

@[simp] theorem State.hold_pslverr (s : State) : s.hold.apb.pslverr = false := rfl

/-- Held, refused or carried out, a read of a defined register leaves PSLVERR low. -/
theorem apbRead_pslverr_of_defined (h : regKind s.member (wordAddr a) ≠ .hole) :
    (s.apbRead a prot).apb.pslverr = false := by
  unfold State.apbRead
  dsimp only
  rw [if_neg h]
  split
  · exact s.hold_pslverr
  · split <;> rfl

/-- Held, or answered with whatever its effect, a write of a defined register leaves PSLVERR low. -/
theorem apbWrite_pslverr_of_defined (h : regKind s.member (wordAddr a) ≠ .hole) :
    (s.apbWrite a d strb prot).apb.pslverr = false := by
  unfold State.apbWrite
  dsimp only
  rw [if_neg h]
  split
  · exact s.hold_pslverr
  · exact State.answer_pslverr _ false

/-- Settles O16: with hclk up a hole is decided before PPROT and the strobes (R16), and every other end of an access
drives PSLVERR low (R39). -/
theorem holesAnswerWithAnError : Obligations.HolesAnswerWithAnError := by
  unfold Obligations.HolesAnswerWithAnError
  intro s a d strb prot hu
  refine ⟨fun h => ⟨?_, ?_, ⟨s.apb.prdata, ?_⟩, ⟨s.apb.prdata, ?_⟩⟩,
    fun h => ⟨⟨_, exec_registerRead s a prot, apbRead_pslverr_of_defined h⟩,
      ⟨_, exec_registerWrite s a d strb prot, apbWrite_pslverr_of_defined h⟩⟩⟩
  · rw [exec_apbHoleAccess_of_hole h, if_neg Bool.false_ne_true, apbRead_hole hu h]
  · rw [exec_registerRead, apbRead_hole hu h]
  · rw [exec_apbHoleAccess_of_hole h, if_pos rfl, apbWrite_hole hu h, State.answer]
  · rw [exec_registerWrite, apbWrite_hole hu h, State.answer]

end Sys2Proof.Machine
end

section
/-! Doorbells (R76, R81) and the consumer value of a completion ring (R93): which values a write may name, what a legal
write does to its ring, and that any other is ignored. -/

namespace Sys2Proof.Machine

variable {s : State} {f sl p : Nat} {d : W32}

/-- An acknowledged access leaves PRDATA as the last read left it. -/
theorem completes_of_acked {c : Instr} {t : State} (h : exec c s = .next t.acked) : s.Completes c t :=
  ⟨t.apb.prdata, h⟩

/-! ### Index values that a write names -/

/-- count(a, b) with 2N written as in R71. -/
theorem ringCount_eq (k a b : Nat) : ringCount k a b = (2 * 2 ^ k + b - a % (2 * 2 ^ k)) % (2 * 2 ^ k) := by
  rw [ringCount, pow_succ', Nat.add_comm]

/-- The value that index and wrap bits spell at order `k`, whether or not the index bits fit. -/
def idxSpelled (k : Nat) (d : W32) : Nat := field32 d 15 0 + 2 ^ k * field32 d 16 16

/-- The three conditions of R76. -/
def Ring.DoorbellLegal (r : Machine.Ring) (d : W32) : Prop :=
  field32 d 15 0 < 2 ^ r.order ∧ ringCount r.order r.h r.t ≤ ringCount r.order r.h (idxSpelled r.order d)
    ∧ ringCount r.order r.h (idxSpelled r.order d) ≤ 2 ^ r.order

/-- The three conditions of R93. -/
def CplRing.HeadLegal (x : CplRing) (d : W32) : Prop :=
  x.bound = true ∧ field32 d 15 0 < 2 ^ x.order
    ∧ ringCount x.order (idxSpelled x.order d) x.producer ≤ ringCount x.order x.head x.producer

theorem Ring.newTail_of_legal {r : Machine.Ring} (h : r.DoorbellLegal d) :
    r.newTail d = some (idxSpelled r.order d) := by
  obtain ⟨hfit, hcounts⟩ := h
  rw [Ring.newTail, idxValue, if_pos hfit]
  exact if_pos hcounts

theorem Ring.newTail_of_not_legal {r : Machine.Ring} (h : ¬ r.DoorbellLegal d) : r.newTail d = none := by
  by_cases hfit : field32 d 15 0 < 2 ^ r.order
  · rw [Ring.newTail, idxValue, if_pos hfit]
    exact if_neg fun hcounts => h ⟨hfit, hcounts⟩
  · rw [Ring.newTail, idxValue, if_neg hfit]

theorem CplRing.headLegal_of_legal {x : CplRing} (h : x.HeadLegal d) : x.headLegal d = some (idxSpelled x.order d) := by
  obtain ⟨hbound, hfit, hcount⟩ := h
  rw [CplRing.headLegal, idxValue, if_pos hfit]
  exact if_pos ⟨hbound, hcount⟩

theorem CplRing.headLegal_of_not_legal {x : CplRing} (h : ¬ x.HeadLegal d) : x.headLegal d = none := by
  by_cases hfit : field32 d 15 0 < 2 ^ x.order
  · rw [CplRing.headLegal, idxValue, if_pos hfit]
    exact if_neg fun ⟨hbound, hcount⟩ => h ⟨hbound, hfit, hcount⟩
  · rw [CplRing.headLegal, idxValue, if_neg hfit]

/-! ### DOORBELL -/

/-- R67: a doorbell needs ring mode, a bound ring and a function that is not halted. -/
theorem State.mayRing_iff : s.mayRing f p = true ↔
    (s.chan p).cfg.ringMode = true ∧ (s.chan p).ring.bound = true ∧ (s.fn f).halted = false := by
  simp [State.mayRing, and_assoc]

/-- The doorbell edge by the rows of R81: nothing behind T, a parked channel or a pending re-read, a read of F in
flight, and an ordinary fetch. -/
theorem Ring.ring_eq (r : Machine.Ring) (t : Nat) (fetching : Bool) : r.ring t fetching =
    if r.f = t then { r with t := t }
    else if r.parked = true ∨ r.reReadAt.isSome = true ∨ r.again = true then
      { r with t := t, parked := false, retries := 0, reReadAt := none, again := false }
    else if fetching = true then { r with t := t, retries := 0, forced := true }
    else { r with t := t } := by
  simp only [Ring.ring, Bool.or_eq_true, or_assoc]

theorem writeSlot_doorbell : s.writeSlot f p 0x040 d =
    if s.mayRing f p then ((s.chan p).ring.newTail d).map fun t => s.ringDoorbell p t else none := rfl

theorem exec_doorbell (h : s.SlotLive f sl p) : exec (.doorbell f sl d 0b1111) s
    = .next ((s.writeSlot f p 0x040 d).getD (s.ignFn f (0x10000 + sl * 0x200 + 0x040) 2)).acked :=
  outcome_next (apbWrite_slot h (by omega) rfl rfl)

theorem doorbell_rings (h : s.SlotLive f sl p) (hl : (s.chan p).ring.DoorbellLegal d) (hm : s.mayRing f p = true) :
    s.Completes (.doorbell f sl d 0b1111) (s.ringDoorbell p (idxSpelled (s.chan p).ring.order d)) := by
  refine completes_of_acked ?_
  rw [exec_doorbell h, writeSlot_doorbell, if_pos hm, Ring.newTail_of_legal hl]
  rfl

theorem doorbell_ignored (h : s.SlotLive f sl p) (hn : ¬ (s.chan p).ring.DoorbellLegal d ∨ ¬ s.mayRing f p = true) :
    s.Completes (.doorbell f sl d 0b1111) (s.ignFn f (0x10000 + sl * 0x200 + 0x040) 2) := by
  have hnone : s.writeSlot f p 0x040 d = none := by
    rw [writeSlot_doorbell]
    rcases hn with hl | hm
    · rw [Ring.newTail_of_not_legal hl, Option.map_none, ite_self]
    · exact if_neg hm
  refine completes_of_acked ?_
  rw [exec_doorbell h, hnone]
  rfl

/-- Settles O22: the register takes the write exactly when R67 and the three conditions of R76 allow it, and the edge
then falls under one row of R81. -/
theorem doorbellsMoveTheTail : Obligations.DoorbellsMoveTheTail := by
  unfold Obligations.DoorbellsMoveTheTail
  intro s f sl p d hlive r n t legal may
  have hlegal : legal ↔ r.DoorbellLegal d := by simp only [legal, Ring.DoorbellLegal, ringCount_eq]; rfl
  have hmay : may ↔ s.mayRing f p = true := State.mayRing_iff.symm
  rw [hlegal, hmay]
  refine ⟨fun hl hm => ?_, doorbell_ignored hlive⟩
  have hrings := doorbell_rings hlive hl hm
  rw [State.ringDoorbell, State.modChan, Ring.ring_eq] at hrings
  exact hrings

/-! ### CR_HEAD -/

/-- The ring with its consumer value moved: an episode of R92 ends unless the ring is still full. -/
def CplRing.moveHead (x : CplRing) (c : Nat) : CplRing :=
  { x with head := c, episode := x.episode && ({ x with head := c } : CplRing).full }

theorem CplRing.moveHead_episode {x : CplRing} {c : Nat} (h : (x.moveHead c).episode = true) :
    x.episode = true ∧ (x.moveHead c).full = true := Bool.and_eq_true_iff.1 h

variable {r : Nat}

theorem writeCr_head : s.writeCr f r 0x0C d = ((look {} (s.fn f).rings r).headLegal d).map fun c =>
    s.modRing f r fun _ => (look {} (s.fn f).rings r).moveHead c := rfl

theorem exec_crHeadWrite (h : s.FnLive f) (hr : r < 16) : exec (.crHeadWrite f r d 0b1111) s
    = .next ((s.writeCr f r 0x0C d).getD (s.ignFn f (0x2000 + r * 0x40 + 0x0C) 2)).acked := by
  rw [← apbWrite_cr h hr (.inl rfl)]
  show Host.Outcome.next (s.apbWrite (fnReg f (0x2000 + r % 16 * 0x40 + 0x0C)) d 0b1111 0) = _
  rw [Nat.mod_eq_of_lt hr]

theorem crHeadWrite_moves (h : s.FnLive f) (hr : r < 16) (hl : (look {} (s.fn f).rings r).HeadLegal d) :
    s.Completes (.crHeadWrite f r d 0b1111) (s.modRing f r fun _ =>
      (look {} (s.fn f).rings r).moveHead (idxSpelled (look {} (s.fn f).rings r).order d)) := by
  refine completes_of_acked ?_
  rw [exec_crHeadWrite h hr, writeCr_head, CplRing.headLegal_of_legal hl]
  rfl

theorem crHeadWrite_ignored (h : s.FnLive f) (hr : r < 16) (hl : ¬ (look {} (s.fn f).rings r).HeadLegal d) :
    s.Completes (.crHeadWrite f r d 0b1111) (s.ignFn f (0x2000 + r * 0x40 + 0x0C) 2) := by
  refine completes_of_acked ?_
  rw [exec_crHeadWrite h hr, writeCr_head, CplRing.headLegal_of_not_legal hl]
  rfl

/-! ### Reads of a completion ring -/

/-- Reading a function window outside the mailbox. -/
theorem apbRead_window {a : BitVec 22} {o : Nat} {prot : BitVec 3} (h : s.FnLive f) (ha : wordAddr a = f * 0x20000 + o)
    (ho : o < 0x20000) (hm : o < 0x1000 ∨ 0x2000 ≤ o) (hk : fnKind s.member o ≠ .hole) :
    s.apbRead a prot = { s.readFn f o with apb := { prdata := s.fnValue f o, pslverr := false } } := by
  obtain ⟨⟨hup, -⟩, hf, hpresent, hready, -⟩ := h
  have hlow : f * 0x20000 + o < 0x200000 := by omega
  have hdiv : (f * 0x20000 + o) / 0x20000 = f := by omega
  have hmod : (f * 0x20000 + o) % 0x20000 = o := by omega
  have hopen : s.fnOpen f = true := by rw [State.fnOpen, hready, Bool.true_or]
  have hkind : regKind s.member (f * 0x20000 + o) ≠ .hole := by
    rw [regKind, if_pos hlow, hdiv, hmod, hpresent]; exact hk
  have hmb : mbOf (f * 0x20000 + o) = none := by rw [mbOf, if_pos hlow, hmod, if_neg (by omega)]
  have heffect : s.readEffect (f * 0x20000 + o) = s.readFn f o := by
    rw [State.readEffect, if_pos hlow, hmb, hdiv, hmod, hopen]; rfl
  have hvalue : s.regValue (f * 0x20000 + o) = s.fnValue f o := by
    rw [State.regValue, if_pos hlow, hdiv, hmod]
    dsimp only
    rw [if_neg (by omega), if_pos hopen]
  rw [apbRead_done hup (by rw [ha]; exact hkind) (not_protRefused_of (by rw [ha]; omega)), ha, heffect, hvalue]

theorem fnKind_crHead (m : Member) (hr : r < 16) : fnKind m (0x2000 + r * 0x40 + 0x0C) = .writable := by
  have hoff : (0x2000 + r * 0x40 + 0x0C) % 0x40 = 0x0C := by omega
  rw [fnKind, if_neg (by omega), if_neg (by omega), if_neg (by omega), if_pos (by omega), hoff]
  rfl

theorem fnValue_crHead (hr : r < 16) : s.fnValue f (0x2000 + r * 0x40 + 0x0C)
    = BitVec.ofNat 32 (idxLayout (look {} (s.fn f).rings r).order (look {} (s.fn f).rings r).head) := by
  have hidx : (0x2000 + r * 0x40 + 0x0C - 0x2000) / 0x40 = r := by omega
  have hoff : (0x2000 + r * 0x40 + 0x0C) % 0x40 = 0x0C := by omega
  unfold State.fnValue
  dsimp only
  rw [if_neg (by omega), if_neg (by omega), if_pos (by omega), hidx, hoff]
  rfl

/-- CR_HEAD has no field that a read clears. -/
theorem readFn_crHead (hr : r < 16) : s.readFn f (0x2000 + r * 0x40 + 0x0C) = s := by
  unfold State.readFn
  simp (disch := omega) only [if_neg, if_pos]

theorem exec_registerRead_crHead (h : s.FnLive f) (hr : r < 16) (prot : BitVec 3) :
    exec (.registerRead (fnReg f (0x2000 + r * 0x40 + 0x0C)) prot) s = .next { s with apb := {
      prdata := BitVec.ofNat 32 (idxLayout (look {} (s.fn f).rings r).order (look {} (s.fn f).rings r).head)
      pslverr := false } } := by
  have ⟨_, hf, _⟩ := h
  have haddr : wordAddr (fnReg f (0x2000 + r * 0x40 + 0x0C)) = f * 0x20000 + (0x2000 + r * 0x40 + 0x0C) :=
    fnReg_addr hf (by omega) (by omega)
  have hkind : fnKind s.member (0x2000 + r * 0x40 + 0x0C) ≠ .hole := by rw [fnKind_crHead _ hr]; decide
  rw [exec_registerRead, apbRead_window h haddr (by omega) (by omega) hkind, fnValue_crHead hr, readFn_crHead hr]

/-- Settles O24: the register takes the write exactly under the three conditions of R93, and a read returns the value
held. -/
theorem crHeadMovesToTheConsumer : Obligations.CrHeadMovesToTheConsumer := by
  unfold Obligations.CrHeadMovesToTheConsumer
  intro s f r d hlive hr x n c legal
  have hlegal : legal ↔ x.HeadLegal d := by simp only [legal, CplRing.HeadLegal, ringCount_eq]; rfl
  rw [hlegal]
  exact ⟨fun hl => ⟨x.moveHead c, crHeadWrite_moves hlive hr hl, rfl, CplRing.moveHead_episode⟩,
    crHeadWrite_ignored hlive hr, exec_registerRead_crHead hlive hr⟩

end Sys2Proof.Machine
end

section
/-! Mailboxes at the register port (R339, R340, R362): where a mailbox's registers stand, what a write of each does, and
where a GO enters the Gaffer's order of takes. -/

namespace Sys2Proof.Machine

variable {s : State} {m n : Nat} {d : W32}

/-! ### The block's place in the address map -/

/-- Mailbox `m` is one that the member has, and the register port reaches it. -/
structure State.MbReachable (s : State) (m : Nat) : Prop where
  portUp : s.PortUp
  lt : m < 17
  present : m < 16 → s.member.fnPresent m = true

/-- The register of mailbox `m` at offset `n`, and the PPROT of its party (R40). -/
def mbReg (m n : Nat) : BitVec 22 := BitVec.ofNat 22 (mbBase m + n)
def mbProt (m : Nat) : BitVec 3 := if m = 16 then 1 else 0

theorem mbBase_admin : mbBase 16 = 0x201000 := rfl

theorem mbBase_fn (hm : m < 16) : mbBase m = m * 0x20000 + 0x1000 := if_neg (by omega)

/-- A mailbox is the administrator's or a function's. -/
theorem mb_cases (hm : m < 17) : m = 16 ∨ m < 16 := by omega

theorem mbReg_addr (hm : m < 17) (hn : n < 0x1000) (h4 : n % 4 = 0) : wordAddr (mbReg m n) = mbBase m + n := by
  rcases mb_cases hm with rfl | hf
  · simp only [wordAddr, mbReg, mbBase_admin, BitVec.toNat_ofNat]; omega
  · simp only [wordAddr, mbReg, mbBase_fn hf, BitVec.toNat_ofNat]; omega

theorem mbBase_add_mod (hm : m < 17) (hn : n < 0x1000) : (mbBase m + n) % 0x1000 = n := by
  rcases mb_cases hm with rfl | hf
  · rw [mbBase_admin]; omega
  · rw [mbBase_fn hf]; omega

theorem mbOf_mbBase (hm : m < 17) (hn : n < 0x1000) : mbOf (mbBase m + n) = some m := by
  rcases mb_cases hm with rfl | hf
  · rw [mbBase_admin, mbOf, if_neg (by omega), if_pos (by omega)]
  · rw [mbBase_fn hf, mbOf, if_pos (by omega), if_pos (by omega)]
    congr 1; omega

theorem regKind_mbBase (h : s.MbReachable m) (hn : n < 0x1000) : regKind s.member (mbBase m + n) = mbKind n := by
  rcases mb_cases h.lt with rfl | hf
  · rw [mbBase_admin, regKind, if_neg (by omega), if_neg (by omega), if_pos (by omega), Nat.add_sub_cancel_left]
  · have hdiv : (m * 0x20000 + 0x1000 + n) / 0x20000 = m := by omega
    have hmod : (m * 0x20000 + 0x1000 + n) % 0x20000 = 0x1000 + n := by omega
    rw [mbBase_fn hf, regKind, if_pos (by omega), hdiv, hmod, h.present hf, fnKind, if_neg (by omega),
      if_neg (by omega), if_pos (by omega), Nat.add_sub_cancel_left]
    rfl

theorem mbKind_writable (hn : n < 0x10C) : mbKind n = .writable := if_pos hn

theorem not_protRefused_mb (hm : m < 17) (hn : n < 0x1000) : protRefused (mbBase m + n) (mbProt m) = false := by
  refine not_protRefused_of ?_
  rcases mb_cases hm with rfl | hf
  · exact .inr ⟨rfl, rfl⟩
  · rw [mbBase_fn hf]; exact .inl (by omega)

/-! ### Accesses of a mailbox register -/

/-- A write of a mailbox register takes effect at its own hclk edge (R339). -/
theorem apbWrite_mb (h : s.MbReachable m) (hn : n < 0x10C) (h4 : n % 4 = 0) :
    s.apbWrite (mbReg m n) d 0b1111 (mbProt m) = (s.writeMb m n d).acked := by
  have hn' : n < 0x1000 := by omega
  unfold State.apbWrite
  simp only [mbReg_addr h.lt hn' h4, h.portUp.1, regKind_mbBase h hn', mbKind_writable hn, not_protRefused_mb h.lt hn',
    mbOf_mbBase h.lt hn', mbBase_add_mod h.lt hn', Bool.not_true, Bool.false_eq_true, if_false, reduceCtorEq, ne_eq,
    not_true_eq_false]
  rfl

theorem completes_mbWrite {t : State} (h : s.MbReachable m) (hn : n < 0x10C) (h4 : n % 4 = 0)
    (ht : s.writeMb m n d = t) : s.Completes (.registerWrite (mbReg m n) d 0b1111 (mbProt m)) t :=
  completes_of_acked (outcome_next (ht ▸ apbWrite_mb h hn h4))

/-- No field of a mailbox is cleared by a read. -/
theorem readEffect_mb (hm : m < 17) (hn : n < 0x1000) : s.readEffect (mbBase m + n) = s := by
  rcases mb_cases hm with rfl | hf
  · rw [mbBase_admin, State.readEffect, if_neg (by omega)]
    unfold State.readAdm
    simp (disch := omega) only [if_neg]
  · rw [State.readEffect, mbOf_mbBase hm hn, mbBase_fn hf, if_pos (by omega)]
    rfl

theorem regValue_mb (hm : m < 17) (hn : n < 0x1000) : s.regValue (mbBase m + n) = mbValue (s.mailbox m) n := by
  rcases mb_cases hm with rfl | hf
  · rw [mbBase_admin, State.regValue, if_neg (by omega), if_neg (by omega), if_pos (by omega), Nat.add_sub_cancel_left]
  · have hdiv : (m * 0x20000 + 0x1000 + n) / 0x20000 = m := by omega
    have hmod : (m * 0x20000 + 0x1000 + n) % 0x20000 = 0x1000 + n := by omega
    rw [mbBase_fn hf, State.regValue, if_pos (by omega), hdiv, hmod]
    dsimp only
    rw [if_pos (by omega), Nat.add_sub_cancel_left]

theorem exec_mbRead (h : s.MbReachable m) (hn : n < 0x10C) (h4 : n % 4 = 0) :
    exec (.registerRead (mbReg m n) (mbProt m)) s
      = .next { s with apb := { prdata := mbValue (s.mailbox m) n, pslverr := false } } := by
  have hn' : n < 0x1000 := by omega
  have haddr := mbReg_addr h.lt hn' h4
  have hkind : regKind s.member (mbBase m + n) ≠ .hole := by
    rw [regKind_mbBase h hn', mbKind_writable hn]; decide
  rw [exec_registerRead, apbRead_done h.portUp.1 (by rw [haddr]; exact hkind)
    (by rw [haddr]; exact not_protRefused_mb h.lt hn'), haddr, readEffect_mb h.lt hn', regValue_mb h.lt hn']

theorem mbValue_data (x : Mailbox) {i : Nat} (hi : i < 64) : mbValue x (4 * i) = look 0 x.data i := by
  rw [mbValue, if_pos (by omega), Nat.mul_div_cancel_left i (by decide)]

/-! ### What a write of each register does (R339) -/

/-- With cclk up an ignored write is counted at once (R39, R311). -/
theorem pushEntry_ignored (hc : cclkUp s = true) (a k : Nat) (d : W32) :
    s.pushEntry { addr := a, data := d, ign := some k } = s.ignore a k := if_pos hc

theorem writeMb_data {i : Nat} (hi : i < 64) : s.writeMb m (4 * i) d =
    if (s.mailbox m).busy then s.pushEntry { addr := mbBase m + 4 * i, data := d, ign := some 2 }
    else s.setMailbox m { s.mailbox m with data := put (s.mailbox m).data i d } := by
  rw [State.writeMb, if_pos (by omega), Nat.mul_div_cancel_left i (by decide)]

theorem writeMb_cmd : s.writeMb m 0x100 d =
    if (s.mailbox m).busy then s.pushEntry { addr := mbBase m + 0x100, data := d, ign := some 2 }
    else s.setMailbox m { s.mailbox m with
      code := BitVec.ofNat 16 d.toNat, seq := BitVec.ofNat 16 (d.toNat / 2 ^ 16) } :=
  rfl

theorem writeMb_data_free {i : Nat} (hi : i < 64) (hb : (s.mailbox m).busy = false) :
    s.writeMb m (4 * i) d = s.setMailbox m { s.mailbox m with data := put (s.mailbox m).data i d } := by
  rw [writeMb_data hi, if_neg (ne_true_of_eq_false hb)]

/-- CODE and SEQ are the two halves of the word. -/
theorem ofNat_cmd_code (d : W32) : BitVec.ofNat 16 d.toNat = d.setWidth 16 := by
  apply BitVec.eq_of_toNat_eq; simp

theorem ofNat_cmd_seq (d : W32) : BitVec.ofNat 16 (d.toNat / 2 ^ 16) = (d >>> 16).setWidth 16 := by
  apply BitVec.eq_of_toNat_eq; simp [Nat.shiftRight_eq_div_pow]

theorem writeMb_cmd_free (hb : (s.mailbox m).busy = false) :
    s.writeMb m 0x100 d = s.setMailbox m { s.mailbox m with code := d.setWidth 16, seq := (d >>> 16).setWidth 16 } := by
  rw [writeMb_cmd, if_neg (ne_true_of_eq_false hb), ofNat_cmd_code, ofNat_cmd_seq]

/-- While BUSY is 1 neither MB_DATA nor MB_CMD takes a write. -/
theorem writeMb_request_busy {i : Nat} (hi : i < 65) (hc : cclkUp s = true) (hb : (s.mailbox m).busy = true) :
    s.writeMb m (4 * i) d = s.ignore (mbBase m + 4 * i) 2 := by
  rcases Nat.lt_succ_iff_lt_or_eq.1 hi with hdata | rfl
  · rw [writeMb_data hdata, if_pos hb, pushEntry_ignored hc]
  · rw [writeMb_cmd, if_pos hb, pushEntry_ignored hc]

/-- The mailbox with a request accepted: BUSY sets, and the last reply's flags clear. -/
def Mailbox.accept (x : Mailbox) : Mailbox := { x with busy := true, done := false, applied := false, replay := false }

theorem writeMb_go : s.writeMb m 0x104 1 =
    if (s.mailbox m).busy then s.pushEntry { addr := mbBase m + 0x104, data := 1, ign := some 2 }
    else if s.gaf.down then (s.setMailbox m (s.mailbox m).accept).mbReply m 1 []
    else (s.setMailbox m (s.mailbox m).accept).queueGo m := rfl

theorem writeMb_go_busy (hc : cclkUp s = true) (hb : (s.mailbox m).busy = true) :
    s.writeMb m 0x104 1 = s.ignore (mbBase m + 0x104) 2 := by
  rw [writeMb_go, if_pos hb, pushEntry_ignored hc]

theorem writeMb_go_down (hb : (s.mailbox m).busy = false) (hd : s.gaf.down = true) :
    s.writeMb m 0x104 1 = (s.setMailbox m (s.mailbox m).accept).mbReply m 1 [] := by
  rw [writeMb_go, if_neg (ne_true_of_eq_false hb), if_pos hd]

theorem writeMb_go_free (hb : (s.mailbox m).busy = false) (hd : s.gaf.down = false) :
    s.writeMb m 0x104 1 = (s.setMailbox m (s.mailbox m).accept).queueGo m := by
  rw [writeMb_go, if_neg (ne_true_of_eq_false hb), if_neg (ne_true_of_eq_false hd)]

/-! ### The order of takes (R340) -/

theorem queueGo_alone (h : Config.goTied s.goCount = false) :
    s.queueGo m = { s with goOrder := s.goOrder ++ [m], goTied := [m], goCount := s.goCount + 1 } := by
  simp only [State.queueGo, h, Bool.false_eq_true, if_false]

theorem queueGo_tied (h : Config.goTied s.goCount = true) : s.queueGo m = { s with
    goOrder := s.goOrder.take (s.goOrder.length - s.goTied.length) ++ tieIn m s.goTied
    goTied := tieIn m s.goTied, goCount := s.goCount + 1 } := by
  simp only [State.queueGo, h, if_true]

theorem goFirst_admin (k : Nat) : goFirst 16 k = true := rfl

theorem goFirst_fn (hm : m < 16) (k : Nat) : goFirst m k = true ↔ k ≠ 16 ∧ m < k := by
  have hne : m ≠ 16 := by omega
  simp [goFirst, hne]

/-- The administrative mailbox is taken first. -/
theorem tieIn_admin (l : List Nat) : tieIn 16 l = 16 :: l := by
  cases l with
  | nil => rfl
  | cons k t => exact if_pos (goFirst_admin k)

/-- A function's mailbox stands before the first mailbox of its edge that it precedes. -/
theorem tieIn_splits (m : Nat) (l : List Nat) : ∃ a b, l = a ++ b ∧ tieIn m l = a ++ m :: b
    ∧ (∀ k ∈ a, goFirst m k = false) ∧ ∀ k ∈ b.head?, goFirst m k = true := by
  induction l with
  | nil => exact ⟨[], [], rfl, rfl, by simp, by simp⟩
  | cons k t ih =>
    cases hk : goFirst m k with
    | true => exact ⟨[], k :: t, rfl, if_pos hk, by simp, by simpa using hk⟩
    | false =>
      obtain ⟨a, b, hsplit, htie, hbefore, hafter⟩ := ih
      refine ⟨k :: a, b, by rw [hsplit]; rfl, ?_, by simpa [hk] using hbefore, hafter⟩
      rw [tieIn, if_neg (by simp [hk]), htie]
      rfl

theorem tieIn_fn (hm : m < 16) (l : List Nat) : ∃ a b, l = a ++ b ∧ tieIn m l = a ++ m :: b
    ∧ (∀ k ∈ a, k = 16 ∨ k ≤ m) ∧ ∀ k ∈ b.head?, k ≠ 16 ∧ m < k := by
  obtain ⟨a, b, hsplit, htie, hbefore, hafter⟩ := tieIn_splits m l
  refine ⟨a, b, hsplit, htie, fun k hk => ?_, fun k hk => (goFirst_fn hm k).1 (hafter k hk)⟩
  have hnot : ¬ (k ≠ 16 ∧ m < k) := by rw [← goFirst_fn hm, hbefore k hk]; exact Bool.false_ne_true
  omega

/-- A GO that the Gaffer awaits, with no GO of its edge before it. -/
theorem completes_go_alone (h : s.MbReachable m) (hb : (s.mailbox m).busy = false) (hd : s.gaf.down = false)
    (ht : Config.goTied s.goCount = false) : s.Completes (.registerWrite (mbReg m 0x104) 1 0b1111 (mbProt m))
      { s.setMailbox m (s.mailbox m).accept with
        goOrder := s.goOrder ++ [m], goTied := [m], goCount := s.goCount + 1 } :=
  completes_mbWrite h (by decide) rfl ((writeMb_go_free hb hd).trans (queueGo_alone ht))

/-- A GO that the Gaffer awaits, sorted into the GOs of its edge. -/
theorem completes_go_tied (h : s.MbReachable m) (hb : (s.mailbox m).busy = false) (hd : s.gaf.down = false)
    (ht : Config.goTied s.goCount = true) : s.Completes (.registerWrite (mbReg m 0x104) 1 0b1111 (mbProt m))
      { s.setMailbox m (s.mailbox m).accept with
        goOrder := s.goOrder.take (s.goOrder.length - s.goTied.length) ++ tieIn m s.goTied
        goTied := tieIn m s.goTied, goCount := s.goCount + 1 } :=
  completes_mbWrite h (by decide) rfl ((writeMb_go_free hb hd).trans (queueGo_tied ht))

/-- Settles O30: every clause is a write or a read of one register of a reachable mailbox, and a GO that the Gaffer
awaits stands last or is sorted into the GOs of its edge. -/
theorem mailboxGo : Obligations.MailboxGo := by
  unfold Obligations.MailboxGo
  intro s m hup hm hlive x reg wr
  have h : s.MbReachable m := ⟨hup, hm, fun hf => by obtain ⟨-, -, hpresent, -⟩ := hlive hf; exact hpresent⟩
  refine ⟨fun hb hd => ⟨_, rfl, completes_go_alone h hb hd, fun ht => ⟨_, completes_go_tied h hb hd ht, ?_, ?_⟩⟩,
    fun hb hd => ?_, fun hb => ?_, fun i d hi hb => ?_, fun d hb => ?_, fun i d hi hb => ?_, fun i hi => ?_⟩
  · rintro rfl; exact tieIn_admin s.goTied
  · exact fun hf => tieIn_fn hf s.goTied
  · exact completes_mbWrite h (by decide) rfl (writeMb_go_down hb hd)
  · exact completes_mbWrite h (by decide) rfl (writeMb_go_busy hup.2 hb)
  · exact completes_mbWrite h (by omega) (by omega) (writeMb_data_free hi hb)
  · exact completes_mbWrite h (by decide) rfl (writeMb_cmd_free hb)
  · exact completes_mbWrite h (by omega) (by omega) (writeMb_request_busy hi hup.2 hb)
  · rw [← mbValue_data x hi]; exact exec_mbRead h (by omega) (by omega)

end Sys2Proof.Machine
end

section
/-! Identification and parameters (R367): every row of the table keeps the member, and the six registers read nothing
else of the state. -/

namespace Sys2Proof.Machine

variable {s t : State} {c : Instr}

/-! ### What every row keeps -/

/-- Every command ends in a next state that has the member, the queue and the invariants of `s`. -/
theorem exec_runsSound (s : State) : ∀ c : Instr, RunsSound s (exec c s)
  | .registerWrite .. => (write_runs _ _ _ _).sound
  | .apbHoleAccess .. => (apbHoleAccess_runs _ _).sound
  | .timeSnapshot .. => (read_runs _ _).sound
  | .sCauseClear .. => (write_runs _ _ _ _).sound
  | .haltSeenClear .. => (write_runs _ _ _ _).sound
  | .doorbell .. => (write_runs _ _ _ _).sound
  | .pushAreaWrite .. => (write_runs _ _ _ _).sound
  | .pushCommit .. => (write_runs _ _ _ _).sound
  | .crHeadWrite .. => (write_runs _ _ _ _).sound
  | .sigRaise .. => (write_runs _ _ _ _).sound
  | .spFlush .. => (write_runs _ _ _ _).sound
  | .inboundFlushEdge .. => (inboundFlushEdge_runs _).sound
  | .outboundFlushEdge .. => (outboundFlushEdge_runs _).sound
  | .restart .. => (write_runs _ _ _ _).sound
  | .go .. => (write_runs _ _ _ _).sound
  | .lehr .. => (write_runs _ _ _ _).sound
  | .abort .. => (write_runs _ _ _ _).sound
  | .resume .. => (write_runs _ _ _ _).sound
  | .gobShare .. => (write_runs _ _ _ _).sound
  | .gobRelease .. => (write_runs _ _ _ _).sound
  | .gobFree .. => (write_runs _ _ _ _).sound
  | .gobBadOp .. => (gobBadOp_runs _ _ _).sound
  | .gobOpDone .. => (gobOpDone_runs _).sound
  | .forceFree .. => (write_runs _ _ _ _).sound
  | .forceFreeApply .. => (forceFreeApply_runs _).sound
  | .fetchResult .. => (fetchResult_runs _ _ _).sound
  | .reReadReady .. => (reReadReady_runs _).sound
  | .descriptorStart .. => (descriptorStart_runs _ _).sound
  | .schedulerGrant .. => (schedulerGrant_runs _ _ _ _ _).sound
  | .addressStateScan .. => (addressStateScan_runs _ _).sound
  | .readResponse .. => (readResponse_runs _ _ _ _).sound
  | .writeResponse .. => (writeResponse_runs _ _ _).sound
  | .reheat .. => (reheat_runs _).sound
  | .descriptorComplete .. => (descriptorComplete_runs _).sound
  | .coalTimeExpiry .. => (coalTimeExpiry_runs _).sound
  | .recordAllocate .. => (recordAllocate_runs _).sound
  | .completionWriteResponse .. => (completionWriteResponse_runs _ _ _).sound
  | .msiTimeExpiry .. => (msiTimeExpiry_runs _).sound
  | .trigOutPulse .. => (trigOutPulse_runs _).sound
  | .lehrStopComplete .. => (lehrStopComplete_runs _).sound
  | .abortComplete .. => (abortComplete_runs _).sound
  | .channelHalt .. => (channelHalt_runs _).sound
  | .passStart .. => (passStart_runs _).sound
  | .passComplete .. => (passComplete_runs _).sound
  | .timerFire .. => (timerFire_runs _).sound
  | .trigIn .. => (trigIn_runs _).sound
  | .timeSample .. => (timeSample_runs _ _).sound
  | .timeStall => timeStall_runs.sound
  | .timeStallWithdrawn => timeStallWithdrawn_runs.sound
  | .staleEdge .. => (staleEdge_runs _).sound
  | .packetRelease .. => (packetRelease_runs _).sound
  | .segmentCheck .. => (segmentCheck_runs _ _ _ _ _).sound
  | .stallWatchdogFire .. => (stallWatchdogFire_runs _).sound
  | .clockLoss .. => clockLoss_runs _
  | .refclkLoss => refclkLoss_runs.sound
  | .lockstepMismatch => lockstepMismatch_runs.sound
  | .safeAck .. => (safeAck_runs _).sound
  | .scrubCell .. => (scrubCell_runs _ _).sound
  | .scrubRewrite .. => (scrubRewrite_runs _ _).sound
  | .inboundBeatAccept .. => (inboundBeatAccept_runs _ _).sound
  | .inboundBeatPop .. => (inboundBeatPop_runs _).sound
  | .outboundBeatAccept .. => (outboundBeatAccept_runs _ _).sound
  | .gobGrant => gobGrant_runs.sound
  | .gobWaitExpiry .. => (gobWaitExpiry_runs _).sound
  | .chainCommit .. => (chainCommit_runs _).sound
  | .handleResolve .. => (handleResolve_runs _ _).sound
  | .gobMemberFreed .. => (gobMemberFreed_runs _ _).sound
  | .freeStackSpill => freeStackSpill_runs.sound
  | .freeStackFill => freeStackFill_runs.sound
  | .sweepRecord .. => (sweepRecord_runs _ _).sound
  | .xezanPlaceGrant .. => (xezanPlaceGrant_runs _).sound
  | .xezanFrameSent .. => (xezanFrameSent_runs _).sound
  | .xezanRequestReceive .. => (xezanRequestReceive_runs _ _ _ _).sound
  | .xezanRequestTurn .. => (xezanRequestTurn_runs _ _).sound
  | .xezanHoldTimeout .. => (xezanHoldTimeout_runs _ _).sound
  | .xezanResponseSend .. => (xezanResponseSend_runs _ _ _).sound
  | .xezanResponseArrival .. => (xezanResponseArrival_runs _ _ _).sound
  | .xezanRequestTimeout .. => (xezanRequestTimeout_runs _).sound
  | .coldReset => coldReset_runs
  | .warmResetPin => warmResetPin_runs
  | .debugReset => debugReset_runs
  | .resetRelease => resetRelease_runs.sound
  | .domainRelease .. => (domainRelease_runs _).sound
  | .optWordRead .. => optWordRead_runs _
  | .optAckTimeout => optAckTimeout_runs
  | .crucibleFillDone => crucibleFillDone_runs.sound
  | .gafferBootDone .. => (gafferBootDone_runs _ _ _).sound
  | .gafferWatchdog => gafferWatchdog_runs.sound
  | .resetDone .. => (resetDone_runs _).sound
  | .benchResetDone .. => (benchResetDone_runs _).sound
  | .thermalSample .. => (thermalSample_runs _ _).sound
  | .droopExcursion .. => (droopExcursion_runs _ _).sound
  | .sensorFault .. => (sensorFault_runs _).sound
  | .clockFreqMeasure .. => (clockFreqMeasure_runs _ _).sound
  | .getInfo .. => (getInfo_runs _).sound
  | .unknownCommand .. => (unknownCommand_runs _).sound
  | .funcEnable .. => (funcEnable_runs _).sound
  | .funcDisable .. => (funcDisable_runs _).sound
  | .chanAssign .. => chanAssign_runs _
  | .chanUnassign .. => chanUnassign_runs _
  | .chanConfig .. => (chanConfig_runs _).sound
  | .ringBind .. => (ringBind_runs _).sound
  | .cplRingBind .. => (cplRingBind_runs _).sound
  | .streamConfig .. => (streamConfig_runs _).sound
  | .streamRevoke .. => (streamRevoke_runs _).sound
  | .wmSet .. => (wmSet_runs _).sound
  | .quotaSet .. => (quotaSet_runs _).sound
  | .poolModeFcfs .. => (poolModeFcfs_runs _).sound
  | .poolModeQuota .. => (poolModeQuota_runs _).sound
  | .poolModeInit .. => poolModeInit_runs _
  | .timerSet .. => (timerSet_runs _).sound
  | .timerRead .. => (timerRead_runs _).sound
  | .timerGrant .. => (timerGrant_runs _).sound
  | .timerRevoke .. => (timerRevoke_runs _).sound
  | .trigGrant .. => (trigGrant_runs _).sound
  | .trigRevoke .. => (trigRevoke_runs _).sound
  | .eventRoute .. => (eventRoute_runs _).sound
  | .eventVector .. => (eventVector_runs _).sound
  | .eventGrant .. => (eventGrant_runs _).sound
  | .eventRevoke .. => (eventRevoke_runs _).sound
  | .xezanWindow .. => (xezanWindow_runs _).sound
  | .xezanWindowUnbind .. => (xezanWindowUnbind_runs _).sound
  | .xezanPeer .. => (xezanPeer_runs _).sound
  | .xezanPeerUnbind .. => (xezanPeerUnbind_runs _).sound
  | .freshSet .. => (freshSet_runs _).sound
  | .safetyConfig .. => (safetyConfig_runs _).sound
  | .sensorRead .. => (sensorRead_runs _).sound
  | .sensorSet .. => (sensorSet_runs _).sound
  | .sensorClear .. => (sensorClear_runs _).sound
  | .logRead .. => (logRead_runs _).sound
  | .fwStageBegin .. => (fwStageBegin_runs _).sound
  | .fwStageData .. => (fwStageData_runs _).sound
  | .fwStageEnd .. => (fwStageEnd_runs _).sound
  | .fwStageCancel .. => (fwStageCancel_runs _).sound
  | .flashOperationDone => flashOperationDone_runs.sound
  | .fwActivate .. => (fwActivate_runs _).sound
  | .fwActivateLoadDone .. => (fwActivateLoadDone_runs _).sound
  | .fwActivatePause => fwActivatePause_runs.sound
  | .fwActivateResume .. => (fwActivateResume_runs _).sound
  | .fwActivateTimeout .. => (fwActivateTimeout_runs _).sound
  | .fwActivateRecord => fwActivateRecord_runs.sound
  | .funcReset .. => (funcReset_runs _).sound
  | .benchReset .. => (benchReset_runs _).sound
  | .warmReset .. => warmReset_runs _
  | .addressHandshake .. => (addressHandshake_runs _ _).sound
  | .registerRead .. => (read_runs _ _).sound
  | .droopExcursionEnd .. => (droopExcursionEnd_runs _ _).sound

/-- The parameters of the part are constants (R22, R380). -/
theorem exec_member (h : exec c s = .next t) : t.member = s.member := by
  obtain ⟨u, hu, hsound⟩ := exec_runsSound s c
  rw [hu] at h
  cases h
  exact hsound.member

/-! ### The registers of Table 14-13 -/

/-- The addresses of G_ID, G_VERSION and G_PARAM0 to G_PARAM3. -/
def identityRegs : List Nat := [0x200000, 0x200004, 0x200008, 0x20000C, 0x200010, 0x200014]

theorem regValue_gReg {o : Nat} (s : State) (ho : o < 0x1000) : s.regValue (0x200000 + o) = s.gValue o := by
  rw [State.regValue, if_neg (by omega), if_pos (by omega), Nat.add_sub_cancel_left]

/-- The arms of the six registers read only the member, so any state of a part reads there as its initial state does. -/
theorem regValue_identity (s : State) {a : Nat} (ha : a ∈ identityRegs) :
    s.regValue a = ({ member := s.member } : State).regValue a := by
  have hfields : ∀ o ∈ [0x000, 0x004, 0x008, 0x00C, 0x010, 0x014],
      s.gValue o = ({ member := s.member } : State).gValue o := by simp [State.gValue]
  obtain ⟨o, ho, rfl⟩ : ∃ o ∈ [0x000, 0x004, 0x008, 0x00C, 0x010, 0x014], 0x200000 + o = a := List.mem_map.1 ha
  have hlow : o < 0x1000 := by simp at ho; omega
  rw [regValue_gReg s hlow, regValue_gReg _ hlow, hfields o ho]

theorem identity_vn128 : identityRegs.map ({ member := Member.vn128 } : State).regValue
    = [0x564E0128, 0x00040100, 0x08101008, 0x021B1608, 0xFD008003, 0x00080040] := by
  decide +kernel

/-- Settles O11: the six registers depend on the member only, which every command keeps. -/
theorem identityRegistersAreConstant : Obligations.IdentityRegistersAreConstant := by
  unfold Obligations.IdentityRegistersAreConstant
  intro c s t h
  refine ⟨fun a ha => ?_, fun hm => ?_⟩
  · calc t.regValue a = ({ member := t.member } : State).regValue a := regValue_identity t ha
      _ = ({ member := s.member } : State).regValue a := by rw [exec_member h]
      _ = s.regValue a := (regValue_identity s ha).symm
  · calc identityRegs.map s.regValue
        = identityRegs.map ({ member := s.member } : State).regValue := List.map_congr_left fun _ => regValue_identity s
      _ = _ := by rw [hm, identity_vn128]

end Sys2Proof.Machine
end

section
/-! What every row of the table keeps (R22, R217, R326, R348), and the three invariants that every step keeps: canonical
tables, one channel per slot (R348, R366), and the alarm's rule (R288, R290). -/

namespace Sys2Proof.Machine

variable {s t : State} {c : Instr}

/-! ### Steps that meet an edge of a clock without a row -/

/-- An edge reaches the test ports, the time input and OPT_REQ only, none of which the invariants read. -/
theorem edge_untouched (s : State) (e : PinEdge) : ∃ tap wrapper time rst,
    s.edge e = { s with tap := tap, wrapper := wrapper, time := time, rst := rst } := by
  cases e with
  | tck | trst | wrck | wrst => exact ⟨_, _, _, _, rfl⟩
  | tclk ns valid => unfold State.edge; dsimp only; split <;> exact ⟨_, _, _, _, rfl⟩
  | refclk =>
    unfold State.edge State.optEdge; dsimp only
    split
    · split <;> exact ⟨_, _, _, _, rfl⟩
    · exact ⟨_, _, _, _, rfl⟩

theorem tablesWf_edge (h : s.TablesWf) (e : PinEdge) : (s.edge e).TablesWf := by
  obtain ⟨tap, wrapper, time, rst, hedge⟩ := edge_untouched s e
  rw [hedge]; exact { h with }

theorem ownersDistinct_edge (h : s.OwnersDistinct) (e : PinEdge) : (s.edge e).OwnersDistinct := by
  obtain ⟨tap, wrapper, time, rst, hedge⟩ := edge_untouched s e
  rw [hedge]; exact h

theorem alarmHolds_edge (h : s.AlarmHolds) (e : PinEdge) : (s.edge e).AlarmHolds := by
  obtain ⟨tap, wrapper, time, rst, hedge⟩ := edge_untouched s e
  rw [hedge]; exact h

/-- A property that ignores the two queues, and that every command and every edge keeps, is kept by every step. -/
theorem step_keeps {P : State → Prop} (hpending : ∀ s l, P s → P { s with pending := l })
    (hedges : ∀ s l, P s → P { s with edges := l }) (hedge : ∀ s e, P s → P (s.edge e))
    (hsound : ∀ {s t}, Sound s t → P s → P t) (hs : P s) (h : step s = .next t) : P t := by
  unfold step at h
  split at h
  · cases h
    unfold State.tick
    split
    · exact hs
    · exact hedge _ _ (hedges _ _ hs)
  · rename_i c rest _
    obtain ⟨u, hu, hu'⟩ := exec_runsSound { s with pending := rest } c
    cases hu.symm.trans h
    exact hsound hu' (hpending _ _ hs)

/-- Settles O3: every command keeps the canonical form, and an edge touches no table. -/
theorem everyStepKeepsTablesCanonical : Obligations.EveryStepKeepsTablesCanonical := by
  unfold Obligations.EveryStepKeepsTablesCanonical
  intro s t hs
  exact step_keeps (P := State.TablesWf) (fun _ _ h => { h with }) (fun _ _ h => { h with })
    (fun _ e h => tablesWf_edge h e) Sound.tables hs

/-- Settles O4: CHAN_ASSIGN alone maps a slot, and only one that no channel has. -/
theorem everyStepKeepsOwnersDistinct : Obligations.EveryStepKeepsOwnersDistinct := by
  unfold Obligations.EveryStepKeepsOwnersDistinct
  intro s t hs
  exact step_keeps (P := State.OwnersDistinct) (fun _ _ h => h) (fun _ _ h => h)
    (fun _ e h => ownersDistinct_edge h e) Sound.owners hs

/-- Settles O5: a cause is set together with the alarm, and the alarm is released only when no cause is left. -/
theorem everyStepKeepsAlarmHeld : Obligations.EveryStepKeepsAlarmHeld := by
  unfold Obligations.EveryStepKeepsAlarmHeld
  intro s t hs
  exact step_keeps (P := State.AlarmHolds) (fun _ _ h => h) (fun _ _ h => h)
    (fun _ e h => alarmHolds_edge h e) Sound.alarm hs

/-- Settles O6. -/
theorem resetMeetsInvariants : Obligations.ResetMeetsInvariants := by
  unfold Obligations.ResetMeetsInvariants
  exact ⟨reset_tablesWf, ownersDistinct_nil rfl, fun _ => rfl, fun _ => rfl⟩

/-! ### One step -/

/-- Settles O1: the three cases of the definition of a step. -/
theorem stepTakesFrontCommand : Obligations.StepTakesFrontCommand := by
  unfold Obligations.StepTakesFrontCommand
  refine ⟨fun s c rest => rfl, fun s hp he => ?_, fun s e rest hp he => ?_⟩
  · simp only [step, State.tick, hp, he]
  · simp only [step, State.tick, hp, he]

/-- Settles O7: reset is the state of default values. -/
theorem resetValuesOfRegisters : Obligations.ResetValuesOfRegisters := by
  unfold Obligations.ResetValuesOfRegisters
  decide +kernel

/-- Settles O12: the smaller of the sum and the largest value. -/
theorem saturatingCountersStop : Obligations.SaturatingCountersStop := by
  unfold Obligations.SaturatingCountersStop
  intro width x n
  exact ⟨min_eq_left, min_eq_right, min_eq_right (Nat.le_add_right _ _)⟩

end Sys2Proof.Machine
end

section
/-! What the edge of a command settles (R142, R195, R203, R220, R232, R283, R309) leaves alone, and every command's next
state. -/

namespace Sys2Proof.Machine

variable {s t u : State}

/-! ### The parts that a settled edge leaves -/

/-- A piece of work by its number and its verdict. -/
def Work.core (w : Work) : Nat × Option Status := (w.serial, w.verdict)

/-- A channel without its events, its credit, its watchdog, and the details of its works. -/
def Chan.core (c : Chan) : Chan × List (Nat × Option Status) :=
  ({ owner := c.owner, state := c.state, stopKind := c.stopKind, stopIdx := c.stopIdx, lastStatus := c.lastStatus
     cfg := c.cfg, ring := c.ring, direct := c.direct, halt := c.halt, cpl := c.cpl, fresh := c.fresh },
   c.started.map Work.core)

/-- The state without the data path and what a raise of an event may touch; of the Cullet, its records, free stack and
chains on their way back. -/
def State.outside (s : State) : State :=
  { s with
    chans := [], fns := [], ev := {}, benches := [], txns := [], nextId := 0, ports := [], cru := {}
    cul := { records := s.cul.records, stack := s.cul.stack, freeing := s.cul.freeing } }

/-- `t` differs from `s` only in what a settled edge may change. -/
structure Calm (s t : State) : Prop where
  outside : t.outside = s.outside
  core : ∀ p, (t.chan p).core = (s.chan p).core

theorem Calm.refl (s : State) : Calm s s := ⟨rfl, fun _ => rfl⟩

theorem Calm.trans (a : Calm s t) (b : Calm t u) : Calm s u :=
  ⟨b.outside.trans a.outside, fun p => (b.core p).trans (a.core p)⟩

theorem Calm.ite {c : Prop} [Decidable c] {a b : State} (ha : Calm s a) (hb : Calm s b) :
    Calm s (if c then a else b) := by split <;> assumption

theorem Calm.foldl {α : Type} {f : State → α → State} (l : List α) (h : Calm s t)
    (hf : ∀ u x, Calm s u → Calm s (f u x)) : Calm s (l.foldl f t) := by
  induction l generalizing t with
  | nil => exact h
  | cons a r ih => exact ih (hf t a h)

/-- An update that touches neither a channel nor anything outside the data path. -/
theorem Calm.upd (h : Calm s t) (ho : u.outside = t.outside := by rfl) (hc : u.chans = t.chans := by rfl) :
    Calm s u :=
  ⟨ho.trans h.outside, fun p => by rw [State.chan, hc]; exact h.core p⟩

theorem Calm.modChan (h : Calm s t) {p : Nat} {g : Chan → Chan}
    (hg : (g (t.chan p)).core = (t.chan p).core := by rfl) : Calm s (t.modChan p g) := by
  refine ⟨h.outside, fun q => ?_⟩
  rw [State.modChan_chan]
  split
  · subst q; exact hg.trans (h.core p)
  · exact h.core q

/-- A read through a change of values that keeps a projection of each. -/
theorem look_map_proj {α β : Type} (d : α) (l : Tbl α) (g : Nat → α → α) (proj : α → β)
    (hg : ∀ n v, proj (g n v) = proj v) (n : Nat) :
    proj (look d (l.map fun e => (e.1, g e.1 e.2)) n) = proj (look d l n) := by
  induction l with
  | nil => rfl
  | cons e r ih =>
    simp only [List.map_cons, look_cons]
    split
    · exact hg _ _
    · exact ih

theorem Calm.mapChans (h : Calm s t) {g : Nat → Chan → Chan} (hg : ∀ p c, (g p c).core = c.core) :
    Calm s { t with chans := t.chans.map fun e => (e.1, g e.1 e.2) } :=
  ⟨h.outside, fun p => (look_map_proj ({} : Chan) t.chans g Chan.core hg p).trans (h.core p)⟩

/-! ### Works -/

theorem updWork_core (n : Nat) (g : Work → Work) (hg : ∀ w, (g w).core = w.core) (l : List Work) :
    (updWork n g l).map Work.core = l.map Work.core := by
  induction l with
  | nil => rfl
  | cons w r ih =>
    rw [updWork]
    split
    · simp only [List.map_cons, hg]
    · simp only [List.map_cons, ih]

theorem map_core (g : Work → Work) (hg : ∀ w, (g w).core = w.core) (l : List Work) :
    (l.map g).map Work.core = l.map Work.core := by
  rw [List.map_map]; exact List.map_congr_left fun w _ => hg w

theorem serials_of_core {c d : Chan} (h : c.core = d.core) :
    c.started.map Work.serial = d.started.map Work.serial := by
  have hserials := congrArg (fun x => x.2.map Prod.fst) h
  simp only [Chan.core, List.map_map] at hserials
  exact hserials

theorem verdicts_of_core {c d : Chan} (h : c.core = d.core) :
    c.started.map Work.verdict = d.started.map Work.verdict := by
  have hverdicts := congrArg (fun x => x.2.map Prod.snd) h
  simp only [Chan.core, List.map_map] at hverdicts
  exact hverdicts

/-- A channel whose works alone change, and these by no number and no verdict. -/
theorem Chan.core_started (c : Chan) {l : List Work} (h : l.map Work.core = c.started.map Work.core) :
    ({ c with started := l } : Chan).core = c.core := Prod.ext rfl h

theorem Calm.modWork (h : Calm s t) {p n : Nat} {g : Work → Work} (hg : ∀ w, (g w).core = w.core := by exact fun _ => rfl) :
    Calm s (t.modWork p n g) :=
  h.modChan (Chan.core_started _ (updWork_core n g hg _))

/-! ### Raises -/

theorem Chan.giveSignal_core (o : Nat) (c : Chan) : (c.giveSignal o).core = c.core := by
  unfold Chan.giveSignal
  split
  · rfl
  · exact Chan.core_started c (map_core _ (fun w => by split <;> rfl) _)

theorem Calm.setPending (h : Calm s t) (n : Nat) : Calm s (t.setPending n) :=
  ite h.modChan (ite h.upd (ite h.upd h.upd))

theorem Calm.raiseSignal (h : Calm s t) (f k : Nat) : Calm s (t.raiseSignal f k) := by
  unfold State.raiseSignal
  split
  · exact h.mapChans (g := fun _ c => c.giveSignal _) fun _ c => c.giveSignal_core _
  · exact ite h.upd h.upd

theorem Calm.setVec (h : Calm s t) (v : Nat) (x : Vec) : Calm s (t.setVec v x) := h.upd

theorem Calm.post (h : Calm s t) (x : Txn) : Calm s (t.post x) := h.upd

theorem Calm.decideVec (h : Calm s t) (v : Nat) (force : Bool) : Calm s (t.decideVec v force) :=
  ite ((h.setVec v _).post _) h

theorem Calm.raiseVec (h : Calm s t) (v : Nat) : Calm s (t.raiseVec v) := (h.setVec v _).decideVec _ _

theorem Calm.deliver (h : Calm s t) (r : Route) : Calm s (t.deliver r) := by
  cases r with
  | none => exact h
  | int _ => exact h
  | vector v => exact h.raiseVec v
  | trigOut n => exact h.upd
  | signal f k => exact h.raiseSignal f k

theorem Calm.raise (h : Calm s t) (n : Nat) : Calm s (t.raise n) := (h.setPending n).deliver _

/-! ### The parts of `State.settle` -/

theorem Calm.freeLane (h : Calm s t) (b : Nat) (l : Landing) (n : Nat) : Calm s (t.freeLane b l n) := by
  unfold State.freeLane
  split
  · exact h.upd
  · exact h.upd
  · exact h.upd
  · exact h

theorem Calm.trimWork (h : Calm s t) (p : Nat) (w : Work) : Calm s (t.trimWork p w) := by
  unfold State.trimWork
  split
  · exact ite h (ite h.upd.modWork h.upd)
  · exact (h.foldl _ fun _ _ k => k.freeLane _ _ _).modWork

theorem Calm.trim (h : Calm s t) : Calm s t.trim :=
  h.foldl _ fun _ _ k => k.foldl _ fun _ _ k => k.trimWork _ _

theorem Calm.readRec (h : Calm s t) (x : Purpose) (g q : Nat) : Calm s (t.readRec x g q) := h.post _

theorem Calm.workRecs (h : Calm s t) (p : Nat) (w : Work) : Calm s (t.workRecs p w) := by
  unfold State.workRecs
  refine ite h (ite (ite h (h.readRec _ _ _)) ?_)
  split
  · exact h
  · exact ite (h.readRec _ _ _) h

theorem Calm.freeRecs (h : Calm s t) (e : Freeing) : Calm s (t.freeRecs e) := by
  unfold State.freeRecs
  split
  · exact h
  · exact ite h (h.readRec _ _ _)

theorem Calm.sweepRecs (k : Nat) (h : Calm s t) : Calm s (t.sweepRecs k) := by
  induction k generalizing t with
  | zero => exact h
  | succ k ih => unfold State.sweepRecs; exact ite (ih h.upd) h

theorem Calm.culletReads (h : Calm s t) : Calm s t.culletReads :=
  ((h.foldl _ fun _ _ k => k.foldl _ fun _ _ k => k.workRecs _ _).foldl _ fun _ _ k => k.freeRecs _).sweepRecs 64

theorem Calm.endPins (h : Calm s t) : Calm s t.endPins := by
  unfold State.endPins
  exact h.mapChans (g := fun n c => { c with started := c.started.map fun w =>
      { w with pinned := w.pinned && !t.pinOver n w (w.chain != .unresolved && w.readsDone t.cul.poolBase) } })
    fun _ c => Chan.core_started c (by rw [List.map_map]; rfl)

theorem Calm.setPort (h : Calm s t) (p : Nat) (x : Port) : Calm s (t.setPort p x) := h.upd

theorem Calm.compareWm (h : Calm s t) (p : Nat) : Calm s (t.compareWm p) :=
  ite h (ite ((h.setPort p _).raise _) (ite ((h.setPort p _).raise _) h))

theorem Calm.startWatches (h : Calm s t) : Calm s t.startWatches := by
  unfold State.startWatches
  exact h.mapChans (g := fun n c => { c with watch := if t.watchRuns n then c.watch.or (some t.now.refclk) else none })
    fun _ _ => rfl

theorem Calm.quotaLow (h : Calm s t) (s0 : State) : Calm s (quotaLow s0 t) :=
  h.foldl _ fun _ _ k => ite (k.raise _) k

theorem Calm.clearFull (h : Calm s t) (s0 : State) : Calm s (s0.clearFull t) := h.upd

theorem Calm.endTurns (h : Calm s t) : Calm s t.endTurns := h.upd

theorem Calm.markDrained (h : Calm s t) : Calm s t.markDrained := h.upd

theorem Calm.settle (h : Calm s t) (s0 : State) : Calm s (s0.settle t) := by
  have h1 := h.trim.culletReads.endPins.clearFull s0
  have h2 := h1.foldl ((s0.clearFull t.trim.culletReads.endPins).ports.map Prod.fst) fun u p k => k.compareWm p
  exact ite (h2.startWatches.endTurns.quotaLow s0).markDrained h

theorem settle_of_down (s0 : State) (h : cclkUp s = false) : s0.settle s = s :=
  if_neg (by rw [h]; exact Bool.false_ne_true)

/-- Settles O2: every row of the table runs, and each part of the settling touches only what `Calm` leaves open. -/
theorem everyCommandAnswersANextState : Obligations.EveryCommandAnswersANextState := by
  unfold Obligations.EveryCommandAnswersANextState
  refine ⟨fun c s => ?_, fun s0 s => ⟨settle_of_down s0, ?_⟩⟩
  · obtain ⟨t, ht, hsound⟩ := exec_runsSound s c
    exact ⟨t, ht, hsound.pending, hsound.member⟩
  · have h := (Calm.refl s).settle s0
    refine ⟨congrArg (·.member) h.outside, congrArg (·.pending) h.outside, congrArg (·.now) h.outside,
      congrArg (·.time) h.outside, congrArg (·.opt) h.outside, congrArg (·.rst) h.outside,
      congrArg (·.safety) h.outside, congrArg (·.gaf) h.outside, congrArg (·.glob) h.outside,
      congrArg (·.mailboxes) h.outside, congrArg (·.goOrder) h.outside, congrArg (·.xez) h.outside,
      congrArg (·.apb) h.outside, congrArg (·.regq) h.outside, congrArg (·.cul.records) h.outside,
      congrArg (·.cul.stack) h.outside, congrArg (·.cul.freeing) h.outside, fun p => ?_⟩
    have hc := congrArg Prod.fst (h.core p)
    refine ⟨congrArg (·.owner) hc, congrArg (·.state) hc, congrArg (·.stopKind) hc, congrArg (·.stopIdx) hc,
      congrArg (·.lastStatus) hc, congrArg (·.cfg) hc, congrArg (·.ring) hc, congrArg (·.direct) hc,
      congrArg (·.halt) hc, congrArg (·.cpl) hc, congrArg (·.fresh) hc, serials_of_core (h.core p),
      verdicts_of_core (h.core p)⟩

end Sys2Proof.Machine
end

section
/-! The rows of the table that leave the option shadow, the pool's geometry and the mapping of the channels alone (R217,
R238, R324, R326, R327, R348), and what each of the others changes of these. -/

namespace Sys2Proof.Machine

variable {s t u : State} {c : Instr} {P : State → Prop}

/-! ### The rows that keep all of it -/

/-- The rows that reset the part, load its option map, map a channel or initialise the pool. -/
def Instr.rebuilds : Instr → Bool
  | .coldReset | .warmResetPin | .debugReset | .warmReset _ | .clockLoss _ | .optWordRead _ | .optAckTimeout
  | .chanAssign _ | .chanUnassign _ | .poolModeInit _ => true
  | _ => false

/-- Every other row runs and keeps what `Kept` names. -/
theorem exec_runs (s : State) : ∀ c : Instr, Instr.rebuilds c = false → Runs s (exec c s)
  | .registerWrite .., _ => write_runs _ _ _ _
  | .apbHoleAccess .., _ => apbHoleAccess_runs _ _
  | .timeSnapshot .., _ => read_runs _ _
  | .sCauseClear .., _ => write_runs _ _ _ _
  | .haltSeenClear .., _ => write_runs _ _ _ _
  | .doorbell .., _ => write_runs _ _ _ _
  | .pushAreaWrite .., _ => write_runs _ _ _ _
  | .pushCommit .., _ => write_runs _ _ _ _
  | .crHeadWrite .., _ => write_runs _ _ _ _
  | .sigRaise .., _ => write_runs _ _ _ _
  | .spFlush .., _ => write_runs _ _ _ _
  | .inboundFlushEdge .., _ => inboundFlushEdge_runs _
  | .outboundFlushEdge .., _ => outboundFlushEdge_runs _
  | .restart .., _ => write_runs _ _ _ _
  | .go .., _ => write_runs _ _ _ _
  | .lehr .., _ => write_runs _ _ _ _
  | .abort .., _ => write_runs _ _ _ _
  | .resume .., _ => write_runs _ _ _ _
  | .gobShare .., _ => write_runs _ _ _ _
  | .gobRelease .., _ => write_runs _ _ _ _
  | .gobFree .., _ => write_runs _ _ _ _
  | .gobBadOp .., _ => gobBadOp_runs _ _ _
  | .gobOpDone .., _ => gobOpDone_runs _
  | .forceFree .., _ => write_runs _ _ _ _
  | .forceFreeApply .., _ => forceFreeApply_runs _
  | .fetchResult .., _ => fetchResult_runs _ _ _
  | .reReadReady .., _ => reReadReady_runs _
  | .descriptorStart .., _ => descriptorStart_runs _ _
  | .schedulerGrant .., _ => schedulerGrant_runs _ _ _ _ _
  | .addressStateScan .., _ => addressStateScan_runs _ _
  | .readResponse .., _ => readResponse_runs _ _ _ _
  | .writeResponse .., _ => writeResponse_runs _ _ _
  | .reheat .., _ => reheat_runs _
  | .descriptorComplete .., _ => descriptorComplete_runs _
  | .coalTimeExpiry .., _ => coalTimeExpiry_runs _
  | .recordAllocate .., _ => recordAllocate_runs _
  | .completionWriteResponse .., _ => completionWriteResponse_runs _ _ _
  | .msiTimeExpiry .., _ => msiTimeExpiry_runs _
  | .trigOutPulse .., _ => trigOutPulse_runs _
  | .lehrStopComplete .., _ => lehrStopComplete_runs _
  | .abortComplete .., _ => abortComplete_runs _
  | .channelHalt .., _ => channelHalt_runs _
  | .passStart .., _ => passStart_runs _
  | .passComplete .., _ => passComplete_runs _
  | .timerFire .., _ => timerFire_runs _
  | .trigIn .., _ => trigIn_runs _
  | .timeSample .., _ => timeSample_runs _ _
  | .timeStall, _ => timeStall_runs
  | .timeStallWithdrawn, _ => timeStallWithdrawn_runs
  | .staleEdge .., _ => staleEdge_runs _
  | .packetRelease .., _ => packetRelease_runs _
  | .segmentCheck .., _ => segmentCheck_runs _ _ _ _ _
  | .stallWatchdogFire .., _ => stallWatchdogFire_runs _
  | .refclkLoss, _ => refclkLoss_runs
  | .lockstepMismatch, _ => lockstepMismatch_runs
  | .safeAck .., _ => safeAck_runs _
  | .scrubCell .., _ => scrubCell_runs _ _
  | .scrubRewrite .., _ => scrubRewrite_runs _ _
  | .inboundBeatAccept .., _ => inboundBeatAccept_runs _ _
  | .inboundBeatPop .., _ => inboundBeatPop_runs _
  | .outboundBeatAccept .., _ => outboundBeatAccept_runs _ _
  | .gobGrant, _ => gobGrant_runs
  | .gobWaitExpiry .., _ => gobWaitExpiry_runs _
  | .chainCommit .., _ => chainCommit_runs _
  | .handleResolve .., _ => handleResolve_runs _ _
  | .gobMemberFreed .., _ => gobMemberFreed_runs _ _
  | .freeStackSpill, _ => freeStackSpill_runs
  | .freeStackFill, _ => freeStackFill_runs
  | .sweepRecord .., _ => sweepRecord_runs _ _
  | .xezanPlaceGrant .., _ => xezanPlaceGrant_runs _
  | .xezanFrameSent .., _ => xezanFrameSent_runs _
  | .xezanRequestReceive .., _ => xezanRequestReceive_runs _ _ _ _
  | .xezanRequestTurn .., _ => xezanRequestTurn_runs _ _
  | .xezanHoldTimeout .., _ => xezanHoldTimeout_runs _ _
  | .xezanResponseSend .., _ => xezanResponseSend_runs _ _ _
  | .xezanResponseArrival .., _ => xezanResponseArrival_runs _ _ _
  | .xezanRequestTimeout .., _ => xezanRequestTimeout_runs _
  | .resetRelease, _ => resetRelease_runs
  | .domainRelease .., _ => domainRelease_runs _
  | .crucibleFillDone, _ => crucibleFillDone_runs
  | .gafferBootDone .., _ => gafferBootDone_runs _ _ _
  | .gafferWatchdog, _ => gafferWatchdog_runs
  | .resetDone .., _ => resetDone_runs _
  | .benchResetDone .., _ => benchResetDone_runs _
  | .thermalSample .., _ => thermalSample_runs _ _
  | .droopExcursion .., _ => droopExcursion_runs _ _
  | .sensorFault .., _ => sensorFault_runs _
  | .clockFreqMeasure .., _ => clockFreqMeasure_runs _ _
  | .getInfo .., _ => getInfo_runs _
  | .unknownCommand .., _ => unknownCommand_runs _
  | .funcEnable .., _ => funcEnable_runs _
  | .funcDisable .., _ => funcDisable_runs _
  | .chanConfig .., _ => chanConfig_runs _
  | .ringBind .., _ => ringBind_runs _
  | .cplRingBind .., _ => cplRingBind_runs _
  | .streamConfig .., _ => streamConfig_runs _
  | .streamRevoke .., _ => streamRevoke_runs _
  | .wmSet .., _ => wmSet_runs _
  | .quotaSet .., _ => quotaSet_runs _
  | .poolModeFcfs .., _ => poolModeFcfs_runs _
  | .poolModeQuota .., _ => poolModeQuota_runs _
  | .timerSet .., _ => timerSet_runs _
  | .timerRead .., _ => timerRead_runs _
  | .timerGrant .., _ => timerGrant_runs _
  | .timerRevoke .., _ => timerRevoke_runs _
  | .trigGrant .., _ => trigGrant_runs _
  | .trigRevoke .., _ => trigRevoke_runs _
  | .eventRoute .., _ => eventRoute_runs _
  | .eventVector .., _ => eventVector_runs _
  | .eventGrant .., _ => eventGrant_runs _
  | .eventRevoke .., _ => eventRevoke_runs _
  | .xezanWindow .., _ => xezanWindow_runs _
  | .xezanWindowUnbind .., _ => xezanWindowUnbind_runs _
  | .xezanPeer .., _ => xezanPeer_runs _
  | .xezanPeerUnbind .., _ => xezanPeerUnbind_runs _
  | .freshSet .., _ => freshSet_runs _
  | .safetyConfig .., _ => safetyConfig_runs _
  | .sensorRead .., _ => sensorRead_runs _
  | .sensorSet .., _ => sensorSet_runs _
  | .sensorClear .., _ => sensorClear_runs _
  | .logRead .., _ => logRead_runs _
  | .fwStageBegin .., _ => fwStageBegin_runs _
  | .fwStageData .., _ => fwStageData_runs _
  | .fwStageEnd .., _ => fwStageEnd_runs _
  | .fwStageCancel .., _ => fwStageCancel_runs _
  | .flashOperationDone, _ => flashOperationDone_runs
  | .fwActivate .., _ => fwActivate_runs _
  | .fwActivateLoadDone .., _ => fwActivateLoadDone_runs _
  | .fwActivatePause, _ => fwActivatePause_runs
  | .fwActivateResume .., _ => fwActivateResume_runs _
  | .fwActivateTimeout .., _ => fwActivateTimeout_runs _
  | .fwActivateRecord, _ => fwActivateRecord_runs
  | .funcReset .., _ => funcReset_runs _
  | .benchReset .., _ => benchReset_runs _
  | .addressHandshake .., _ => addressHandshake_runs _ _
  | .registerRead .., _ => read_runs _ _
  | .droopExcursionEnd .., _ => droopExcursionEnd_runs _ _

/-- The rows that are left. -/
theorem rebuilds_cases (h : Instr.rebuilds c = true) :
    c = .coldReset ∨ c = .warmResetPin ∨ c = .debugReset ∨ (∃ mb, c = .warmReset mb) ∨ (∃ d, c = .clockLoss d)
      ∨ (∃ w, c = .optWordRead w) ∨ c = .optAckTimeout ∨ (∃ mb, c = .chanAssign mb) ∨ (∃ mb, c = .chanUnassign mb)
      ∨ ∃ mb, c = .poolModeInit mb := by
  cases c <;> cases h
  case coldReset => exact .inl rfl
  case warmResetPin => exact .inr (.inl rfl)
  all_goals simp

/-- An outcome of a row that is no rebuild keeps. -/
theorem kept_of_exec (hc : Instr.rebuilds c = false) (h : exec c s = .next t) : Kept s t := by
  obtain ⟨u, hu, hkept⟩ := exec_runs s c hc
  cases hu.symm.trans h
  exact hkept

/-! ### Properties that Kept carries on -/

/-- A property of a state that every operation which keeps carries on. -/
def Carried (P : State → Prop) : Prop := ∀ a b, P a → Kept a b → P b

theorem carried_opt (o : Opt) : Carried fun t => t.opt = o := fun _ _ ha k => k.opt.trans ha

theorem carried_geometry (g : Nat × Nat × Nat × Nat) : Carried fun t => t.cul.geometry = g :=
  fun _ _ ha k => k.geometry.trans ha

theorem carried_owners (o : Nat → Option (Nat × Nat)) : Carried fun t => ∀ p, (t.chan p).owner = o p :=
  fun _ _ ha k p => (k.owners p).trans (ha p)

theorem turn_carried (hP : Carried P) (hs : P s) {mb : Nat} {mine : Mailbox → Bool} {served adm : Bool}
    {used : List (Nat × Nat)} {body : State → Mailbox → Verdict} (hb : ∀ t x, P t → (body t x).Holds P)
    (h : (Host.Outcome.next (s.turnOf mb mine served adm used body) : Host.Outcome State Fault Refusal) = .next t) :
    P t := by
  cases h
  exact turnOf_holds (fun ha k => hP _ _ ha k) hs hb

/-! ### Resets and lost clocks -/

/-- A warm reset leaves the option shadow and the pool's geometry (R238, R316). -/
theorem warmAssert_opt (s : State) (l : Nat) : (s.warmAssert l).opt = s.opt :=
  ((Kept.refl _).log 0x02 0xFF _).opt

theorem warmAssert_geometry (s : State) (l : Nat) : (s.warmAssert l).cul.geometry = s.cul.geometry :=
  ((Kept.refl _).log 0x02 0xFF _).geometry

/-- A property that a warm reset establishes holds after each of the three ways into one. -/
theorem warm_carried (hP : Carried P) (hs : P s) (hw : ∀ a l, P a → P (a.warmAssert l))
    (hc : c = .warmResetPin ∨ c = .debugReset ∨ ∃ mb, c = .warmReset mb) (h : exec c s = .next t) : P t := by
  rcases hc with rfl | rfl | ⟨mb, rfl⟩
  · cases h
    split
    · exact hs
    · exact hw s 2 hs
  · cases h
    split
    · exact hs
    · exact hw s 4 hs
  · refine turn_carried hP hs (fun a x ha => Verdict.holds_judge ?_) h
    exact hw _ 3 (hP _ _ ha ((Kept.refl a).trace _ _ _))

/-- A lost cclk leaves the Cullet's registers and the option shadow (R285). -/
theorem clockLoss_carried {d : Nat} (hP : Carried P) (hs : P s) (hl : ∀ a, P a → P a.cclkLost)
    (h : exec (.clockLoss d) s = .next t) : P t := by
  unfold exec execClockLoss at h
  dsimp only at h
  split at h <;> cases h
  · refine hP _ _ ?_ ((Kept.refl _).settle s)
    have k : Kept s { s with
        rst := { s.rst with stable := s.rst.stable &&& ~~~ bit9 d, waiting := s.rst.waiting ||| bit9 d
                            lost := s.rst.lost ||| bit9 d, memLost := s.rst.memLost || decide (d ≤ 1) }
        safety := { s.safety with clkLoss := s.safety.clkLoss ||| BitVec.ofNat 10 (2 ^ d) }
        gaf := { s.gaf with sensors := { s.gaf.sensors with clkKhz := put s.gaf.sensors.clkKhz d 0 } } } :=
      (Kept.refl s).mk' (h10 := fun w => ⟨w.1, sensorsWf_clkKhz w.2 _ _⟩)
    have k' := (k.setCause 6).raiseUp 1415
    generalize State.raiseUp _ 1415 = u at k' ⊢
    unfold State.domainLost
    split
    · exact hl u (hP _ _ hs k')
    · exact hP _ _ hs (.ite (k'.groupLost _) (.ite k'.xclkLost (.ite k'.gclkLost (.ite k'.mk' k'))))
  · exact hs

/-! ### The option load -/

/-- What the option load changes is no part of a property that ignores the shadow, the reset controller and the safety
block. -/
theorem loadFailed_carried (hP : Carried P) (hload : ∀ a o r x, P a → P { a with opt := o, rst := r, safety := x })
    {w : OptReason} (hs : P s) : P (s.loadFailed w) := by
  have h1 : P (s.loadDone (optSafe s.member s.opt w)) := hP _ _ (hload s _ _ _ hs) (Kept.refl _).startRelease
  unfold State.loadFailed
  dsimp only
  generalize s.loadDone (optSafe s.member s.opt w) = u at h1 ⊢
  exact hP _ _ h1 ((((Kept.refl u).mk').setCause _).log _ _ _)

theorem optLoad_carried (hP : Carried P) (hload : ∀ a o r x, P a → P { a with opt := o, rst := r, safety := x })
    (hs : P s) (hc : (∃ w, c = .optWordRead w) ∨ c = .optAckTimeout) (h : exec c s = .next t) : P t := by
  rcases hc with ⟨w, rfl⟩ | rfl
  · unfold exec execOptWordRead at h
    dsimp only at h
    split at h
    · cases h; exact hs
    · have hword := hload s { s.opt with words := put s.opt.words s.rst.optNext w }
        { s.rst with optNext := s.rst.optNext + 1, optReq := false } s.safety hs
      split at h
      · cases h; exact hword
      · split at h
        · cases h; exact loadFailed_carried hP hload hword
        · split at h <;> cases h
          · exact hP _ _ (hload _ _ _ _ hword) (Kept.refl _).startRelease
          · exact loadFailed_carried hP hload hword
  · cases h
    split
    · exact hs
    · exact loadFailed_carried hP hload hs

/-! ### Mapping a channel, initialising the pool -/

/-- CHAN_ASSIGN changes the channel table and the routes only. -/
theorem chanRows_carried (hP : Carried P) (hmap : ∀ a p c, P a → P (a.setChan p c)) (hs : P s)
    (hc : (∃ mb, c = .chanAssign mb) ∨ ∃ mb, c = .chanUnassign mb) (h : exec c s = .next t) : P t := by
  rcases hc with ⟨mb, rfl⟩ | ⟨mb, rfl⟩
  · refine turn_carried hP hs (fun a x ha => Verdict.holds_judge ?_) h
    exact Verdict.holds_ite ha (hmap a _ _ ha)
  · refine turn_carried hP hs (fun a x ha => Verdict.holds_judge ?_) h
    refine Verdict.holds_ite ha ?_
    exact hP _ _ (hmap a _ _ ha) ((Kept.refl _).dropSources _)

/-- POOL_MODE INIT changes the Cullet and the functions' charges only. -/
theorem poolModeInit_carried {mb : Nat} (hP : Carried P) (hpool : ∀ a n p m k, P a → P (a.poolInit n p m k)) (hs : P s)
    (h : exec (.poolModeInit mb) s = .next t) : P t := by
  refine turn_carried hP hs (fun a x ha => Verdict.holds_judge ?_) h
  exact hP _ _ (hpool a _ _ _ _ ha) ((Kept.refl _).settle _)

theorem poolInit_opt (s : State) (n p m k : Nat) : (s.poolInit n p m k).opt = s.opt := ((Kept.refl _).raise _).opt

theorem poolInit_owner (s : State) (n p m k q : Nat) : ((s.poolInit n p m k).chan q).owner = (s.chan q).owner :=
  ((Kept.refl _).raise _).owners q

/-! ### The three frames -/

/-- Settles O8: of the rows that rebuild, only the cold reset and the load's own rows touch the shadow. -/
theorem optionMapChangesOnlyAtItsLoad : Obligations.OptionMapChangesOnlyAtItsLoad := by
  unfold Obligations.OptionMapChangesOnlyAtItsLoad
  intro c s t h hne
  have hP := carried_opt s.opt
  cases hr : Instr.rebuilds c with
  | false => exact (hne (kept_of_exec hr h).opt).elim
  | true =>
    rcases rebuilds_cases hr with rfl | rfl | rfl | hc | ⟨d, rfl⟩ | hc | rfl | hc | hc | ⟨mb, rfl⟩
    · exact .inl rfl
    · exact (hne (warm_carried hP rfl (fun a l ha => (warmAssert_opt a l).trans ha) (.inl rfl) h)).elim
    · exact (hne (warm_carried hP rfl (fun a l ha => (warmAssert_opt a l).trans ha) (.inr (.inl rfl)) h)).elim
    · exact (hne (warm_carried hP rfl (fun a l ha => (warmAssert_opt a l).trans ha) (.inr (.inr hc)) h)).elim
    · exact (hne (clockLoss_carried hP rfl (fun _ ha => ha) h)).elim
    · exact .inr (.inl hc)
    · exact .inr (.inr rfl)
    · exact (hne (chanRows_carried hP (fun _ _ _ ha => ha) rfl (.inl hc) h)).elim
    · exact (hne (chanRows_carried hP (fun _ _ _ ha => ha) rfl (.inr hc) h)).elim
    · exact (hne (poolModeInit_carried hP (fun a _ _ _ _ ha => (poolInit_opt a _ _ _ _).trans ha) rfl h)).elim

/-- Settles O9: the warm reset and a lost cclk keep the pool's registers. -/
theorem poolGeometryChangesOnlyAtInit : Obligations.PoolGeometryChangesOnlyAtInit := by
  unfold Obligations.PoolGeometryChangesOnlyAtInit
  intro c s t h hne
  have hP := carried_geometry s.cul.geometry
  have hsame : t.cul.geometry ≠ s.cul.geometry := by simpa [Cullet.geometry, imp_iff_not_or] using hne
  cases hr : Instr.rebuilds c with
  | false => exact (hsame (kept_of_exec hr h).geometry).elim
  | true =>
    rcases rebuilds_cases hr with rfl | rfl | rfl | hc | ⟨d, rfl⟩ | hc | rfl | hc | hc | hc
    · exact .inl rfl
    · exact (hsame (warm_carried hP rfl (fun a l ha => (warmAssert_geometry a l).trans ha) (.inl rfl) h)).elim
    · exact (hsame (warm_carried hP rfl (fun a l ha => (warmAssert_geometry a l).trans ha) (.inr (.inl rfl)) h)).elim
    · exact (hsame (warm_carried hP rfl (fun a l ha => (warmAssert_geometry a l).trans ha) (.inr (.inr hc)) h)).elim
    · exact (hsame (clockLoss_carried hP rfl (fun _ ha => ha) h)).elim
    · exact (hsame (optLoad_carried hP (fun _ _ _ _ ha => ha) rfl (.inl hc) h)).elim
    · exact (hsame (optLoad_carried hP (fun _ _ _ _ ha => ha) rfl (.inr rfl) h)).elim
    · exact (hsame (chanRows_carried hP (fun _ _ _ ha => ha) rfl (.inl hc) h)).elim
    · exact (hsame (chanRows_carried hP (fun _ _ _ ha => ha) rfl (.inr hc) h)).elim
    · exact .inr hc

/-- Settles O10: the option load and POOL_MODE INIT leave the channel table. -/
theorem channelsChangeHandsOnlyByGrant : Obligations.ChannelsChangeHandsOnlyByGrant := by
  unfold Obligations.ChannelsChangeHandsOnlyByGrant
  intro c s t p h hne
  have hP := carried_owners fun p => (s.chan p).owner
  cases hr : Instr.rebuilds c with
  | false => exact (hne ((kept_of_exec hr h).owners p)).elim
  | true =>
    rcases rebuilds_cases hr with hc | hc | hc | hc | hc | hc | rfl | hc | hc | ⟨mb, rfl⟩
    · exact .inl hc
    · exact .inr (.inl hc)
    · exact .inr (.inr (.inl hc))
    · exact .inr (.inr (.inr (.inl hc)))
    · exact .inr (.inr (.inr (.inr (.inl hc))))
    · exact (hne (optLoad_carried hP (fun _ _ _ _ ha => ha) (fun _ => rfl) (.inl hc) h p)).elim
    · exact (hne (optLoad_carried hP (fun _ _ _ _ ha => ha) (fun _ => rfl) (.inr rfl) h p)).elim
    · exact .inr (.inr (.inr (.inr (.inr (.inl hc)))))
    · exact .inr (.inr (.inr (.inr (.inr (.inr hc)))))
    · exact (hne (poolModeInit_carried hP (fun a _ _ _ _ ha q => (poolInit_owner a _ _ _ _ q).trans (ha q))
        (fun _ => rfl) h p)).elim

end Sys2Proof.Machine
end

section
/-! Raises (R170, R171, R371) and causes (R288, R290): what a raise sets, where the global sources are shown, and what a
cause asserts. -/

namespace Sys2Proof.Machine

variable {s t : State} {n m : Nat}

/-! ### Pending bits -/

theorem getLsbD_or_pow {w : Nat} (x : BitVec w) {i j : Nat} (hj : j < w) :
    (x ||| BitVec.ofNat w (2 ^ i)).getLsbD j = (decide (i = j) || x.getLsbD j) := by
  rw [BitVec.getLsbD_or, BitVec.getLsbD_ofNat, Nat.testBit_two_pow, decide_eq_true hj, Bool.true_and, Bool.or_comm]

/-- The bit that was set. -/
theorem getLsbD_or_pow_same {w : Nat} (x : BitVec w) {i : Nat} (hi : i < w) :
    (x ||| BitVec.ofNat w (2 ^ i)).getLsbD i = true := by
  rw [getLsbD_or_pow x hi, decide_eq_true rfl, Bool.true_or]

/-- Any other bit. -/
theorem getLsbD_or_pow_ne {w : Nat} (x : BitVec w) {i j : Nat} (hj : j < w) (h : i ≠ j) :
    (x ||| BitVec.ofNat w (2 ^ i)).getLsbD j = x.getLsbD j := by
  rw [getLsbD_or_pow x hj, decide_eq_false h, Bool.false_or]

theorem setPending_isPending_self (hn : n < 1476) : (s.setPending n).isPending n = true := by
  unfold State.setPending State.isPending
  split
  · rw [State.modChan_chan, if_pos rfl]; exact getLsbD_or_pow_same _ (by omega)
  · split
    · rw [State.modPort_port, if_pos rfl]; exact getLsbD_or_pow_same _ (by omega)
    · split
      · rw [State.modFn_fn, if_pos rfl]; exact getLsbD_or_pow_same _ (by omega)
      · exact getLsbD_or_pow_same _ (by omega)

/-- The pending bit of `m` lies in the entry of its channel, port or function, or in the global word. -/
theorem isPending_congr (hc : m < 1024 → (t.chan (m / 8)).evt.getLsbD (m % 8) = (s.chan (m / 8)).evt.getLsbD (m % 8))
    (hp : 1024 ≤ m → m < 1280 → (t.port ((m - 1024) / 4)).evt.getLsbD ((m - 1024) % 4)
      = (s.port ((m - 1024) / 4)).evt.getLsbD ((m - 1024) % 4))
    (hf : 1280 ≤ m → m < 1408 → (t.fn ((m - 1280) / 8)).evt.getLsbD ((m - 1280) % 8)
      = (s.fn ((m - 1280) / 8)).evt.getLsbD ((m - 1280) % 8))
    (hg : 1408 ≤ m → t.ev.glob.getLsbD (m - 1408) = s.ev.glob.getLsbD (m - 1408)) : t.isPending m = s.isPending m := by
  unfold State.isPending
  split
  · exact hc ‹_›
  · split
    · exact hp (by omega) ‹_›
    · split
      · exact hf (by omega) ‹_›
      · exact hg (by omega)

theorem setPending_isPending_of_ne (hm : m < 1476) (h : m ≠ n) : (s.setPending n).isPending m = s.isPending m := by
  unfold State.setPending
  split
  · refine isPending_congr (fun _ => ?_) (fun _ _ => rfl) (fun _ _ => rfl) fun _ => rfl
    rw [State.modChan_chan]
    split
    next hq => rw [hq]; exact getLsbD_or_pow_ne _ (by omega) (by omega)
    · rfl
  · split
    · refine isPending_congr (fun _ => rfl) (fun _ _ => ?_) (fun _ _ => rfl) fun _ => rfl
      rw [State.modPort_port]
      split
      next hq => rw [hq]; exact getLsbD_or_pow_ne _ (by omega) (by omega)
      · rfl
    · split
      · refine isPending_congr (fun _ => rfl) (fun _ _ => rfl) (fun _ _ => ?_) fun _ => rfl
        rw [State.modFn_fn]
        split
        next hq => rw [hq]; exact getLsbD_or_pow_ne _ (by omega) (by omega)
        · rfl
      · exact isPending_congr (fun _ => rfl) (fun _ _ => rfl) (fun _ _ => rfl) fun _ =>
          getLsbD_or_pow_ne _ (by omega) (by omega)

/-- Setting the pending bit of `n` sets it and no other (R170). -/
theorem setPending_isPending (hn : n < 1476) (hm : m < 1476) :
    (s.setPending n).isPending m = (decide (m = n) || s.isPending m) := by
  by_cases h : m = n
  · rw [h, setPending_isPending_self hn, decide_eq_true rfl, Bool.true_or]
  · rw [setPending_isPending_of_ne hm h, decide_eq_false h, Bool.false_or]

/-! ### Deliveries set no pending bit -/

theorem Chan.giveSignal_evt (o : Nat) (c : Chan) : (c.giveSignal o).evt = c.evt := by
  unfold Chan.giveSignal; split <;> rfl

theorem raiseSignal_isPending (f k : Nat) : (s.raiseSignal f k).isPending m = s.isPending m := by
  unfold State.raiseSignal
  split
  · refine isPending_congr (fun _ => ?_) (fun _ _ => rfl) (fun _ _ => rfl) fun _ => rfl
    exact congrArg (BitVec.getLsbD · _)
      (look_map_proj ({} : Chan) s.chans (fun _ c => c.giveSignal _) Chan.evt (fun _ c => c.giveSignal_evt _) _)
  · split <;>
    · refine isPending_congr (fun _ => rfl) (fun _ _ => rfl) (fun _ _ => ?_) fun _ => rfl
      rw [State.modFn_fn]
      split
      next hq => rw [hq]
      · rfl

theorem decideVec_isPending (v : Nat) (force : Bool) : (s.decideVec v force).isPending m = s.isPending m := by
  unfold State.decideVec
  dsimp only
  split
  · exact isPending_congr (fun _ => rfl) (fun _ _ => rfl) (fun _ _ => rfl) fun _ => rfl
  · rfl

theorem raiseVec_isPending (v : Nat) : (s.raiseVec v).isPending m = s.isPending m :=
  (decideVec_isPending v false).trans (isPending_congr (fun _ => rfl) (fun _ _ => rfl) (fun _ _ => rfl) fun _ => rfl)

theorem deliver_isPending (r : Route) : (s.deliver r).isPending m = s.isPending m := by
  cases r with
  | none => rfl
  | int _ => rfl
  | vector v => exact raiseVec_isPending v
  | trigOut k => exact isPending_congr (fun _ => rfl) (fun _ _ => rfl) (fun _ _ => rfl) fun _ => rfl
  | signal f k => exact raiseSignal_isPending f k

theorem raise_isPending (hn : n < 1476) (hm : m < 1476) :
    (s.raise n).isPending m = (decide (m = n) || s.isPending m) := by
  rw [State.raise, deliver_isPending, setPending_isPending hn hm]

theorem raise_of_route {r : Route} (h : s.route n = r) : s.raise n = (s.setPending n).deliver r := by
  rw [State.raise, h]

/-- A pending bit is no part of a trigger output. -/
theorem setPending_tout (k : Nat) : (s.setPending n).tout k = s.tout k := by
  unfold State.setPending
  split
  · rfl
  · split
    · rfl
    · split <;> rfl

/-- Settles O13: the bit is set first, and a delivery touches no pending bit. -/
theorem raiseSetsItsPendingBit : Obligations.RaiseSetsItsPendingBit := by
  unfold Obligations.RaiseSetsItsPendingBit
  intro s n m hn hm
  refine ⟨raise_isPending hn hm, ?_, fun v hr => raise_of_route hr, fun k hr => ?_, fun f k hr => raise_of_route hr⟩
  · rintro (hr | ⟨w, hr⟩)
    · exact raise_of_route hr
    · exact raise_of_route hr
  · rw [raise_of_route hr, State.deliver, setPending_tout]

/-! ### G_EVT0 to G_EVT2 -/

theorem gValue_evt {i : Nat} (hi : i < 3) :
    s.gValue (0x140 + 4 * i) = BitVec.ofNat 32 (s.ev.glob.toNat / 2 ^ (32 * i)) := by
  obtain rfl | rfl | rfl : i = 0 ∨ i = 1 ∨ i = 2 := by omega
  all_goals simp [State.gValue]

theorem isPending_glob (h : 1408 ≤ n) : s.isPending n = s.ev.glob.getLsbD (n - 1408) := by
  rw [State.isPending, if_neg (by omega), if_neg (by omega), if_neg (by omega)]

/-- Bit `j` of the word `i` of a longer number. -/
theorem getLsbD_word {w : Nat} (x : BitVec w) (i : Nat) {j : Nat} (hj : j < 32) :
    (BitVec.ofNat 32 (x.toNat / 2 ^ (32 * i))).getLsbD j = x.getLsbD (32 * i + j) := by
  rw [BitVec.getLsbD_ofNat, decide_eq_true hj, Bool.true_and, Nat.testBit_div_two_pow, BitVec.testBit_toNat, Nat.add_comm]

/-- Settles O14: the three words are the 68 bits of the global sources, and zero above them. -/
theorem globalSourcesShowInTheirRegisters : Obligations.GlobalSourcesShowInTheirRegisters := by
  unfold Obligations.GlobalSourcesShowInTheirRegisters
  intro s n hlow hhigh
  have hbit : 32 * ((n - 1408) / 32) + (n - 1408) % 32 = n - 1408 := Nat.div_add_mod _ _
  have haddr : 0x200140 + 4 * ((n - 1408) / 32) = 0x200000 + (0x140 + 4 * ((n - 1408) / 32)) := by omega
  rw [haddr, regValue_gReg s (by omega), gValue_evt (by omega), getLsbD_word _ _ (by omega), hbit, isPending_glob hlow]
  by_cases h : n < 1476
  · rw [decide_eq_true h, Bool.true_and]
  · rw [decide_eq_false h, Bool.false_and, BitVec.getLsbD_of_ge _ _ (by omega)]

/-! ### Causes -/

/-- A log record touches the Gaffer, and what a raise touches. -/
theorem log_aside (s : State) (k src : Nat) (d : List Byte) : ∃ g, Aside { s with gaf := g } (s.log k src d) := by
  unfold State.log
  split
  · exact ⟨_, Aside.refl _⟩
  · split
    · exact ⟨_, Aside.refl _⟩
    · exact ⟨_, (Aside.refl _).raise 1455⟩

theorem log_safety (s : State) (k src : Nat) (d : List Byte) : (s.log k src d).safety = s.safety := by
  obtain ⟨g, h⟩ := log_aside s k src d
  exact h.safety

/-- A cause that finds the alarm asserted only sets its bit. -/
theorem setCause_of_asserted (h : s.safety.asserted = true) (b : Nat) :
    s.setCause b = { s with safety := { s.safety with cause := s.safety.cause ||| BitVec.ofNat 16 (2 ^ b) } } :=
  if_pos h

/-- A cause that finds the alarm released asserts it. -/
theorem setCause_safety_of_released (h : s.safety.asserted = false) (b : Nat) :
    (s.setCause b).safety = { s.safety with
      cause := s.safety.cause ||| BitVec.ofNat 16 (2 ^ b), asserted := true, alarmP := false, alarmN := true } := by
  unfold State.setCause
  dsimp only
  rw [if_neg (by rw [h]; exact Bool.false_ne_true), log_safety]
  exact (Aside.raiseUp (Aside.refl _) 1416).safety

/-- Settles O15: whether or not the alarm stands, the bit is set and the alarm stands after it. -/
theorem causesAssertTheAlarm : Obligations.CausesAssertTheAlarm := by
  unfold Obligations.CausesAssertTheAlarm
  intro s p b _
  have hchan : ∀ f, s.fnOfChan p = some f →
      s.chanCause p b = if s.safety.alarmEn.getLsbD f then s.setCause b else s := by
    intro f hf; rw [State.chanCause, hf]
  cases h : s.safety.asserted with
  | true =>
    rw [setCause_of_asserted h] at *
    exact ⟨rfl, h, nofun, hchan⟩
  | false =>
    rw [setCause_safety_of_released h]
    exact ⟨rfl, rfl, fun _ => ⟨rfl, rfl⟩, hchan⟩

end Sys2Proof.Machine
end

section
/-! The register port, refused accesses and reads (R10, R39, R40, R311, R368): what a refused access counts, and what a
read of each kind of register returns and clears. -/

namespace Sys2Proof.Machine

variable {s : State} {f sl p n : Nat} {a : BitVec 22} {d : W32} {strb : BitVec 4} {prot : BitVec 3}

/-! ### What a raise leaves of a function -/

/-- A function without its event bits and its signals. -/
def Fn.core (x : Fn) : Fn := { x with evt := 0, sigCnt := [], sigOvf := 0 }

theorem modFn_core {g : Fn → Fn} (q : Nat) (hg : ∀ x, (g x).core = x.core := by exact fun _ => rfl) :
    ((s.modFn f g).fn q).core = (s.fn q).core := by
  rw [State.modFn_fn]
  split
  · subst q; exact hg _
  · rfl

theorem setPending_fn_core (n q : Nat) : ((s.setPending n).fn q).core = (s.fn q).core := by
  unfold State.setPending
  split
  · rfl
  · split
    · rfl
    · split
      · exact modFn_core q
      · rfl

theorem raiseSignal_fn_core (f k q : Nat) : ((s.raiseSignal f k).fn q).core = (s.fn q).core := by
  unfold State.raiseSignal
  split
  · rfl
  · split <;> exact modFn_core q

theorem raiseVec_fn (v q : Nat) : (s.raiseVec v).fn q = s.fn q := by
  unfold State.raiseVec State.decideVec
  dsimp only
  split <;> rfl

theorem raise_fn_core (n q : Nat) : ((s.raise n).fn q).core = (s.fn q).core := by
  rw [← setPending_fn_core (s := s) n q, State.raise]
  generalize s.setPending n = t
  cases s.route n with
  | none => rfl
  | int _ => rfl
  | vector v => exact congrArg Fn.core (raiseVec_fn v q)
  | trigOut k => rfl
  | signal g k => exact raiseSignal_fn_core g k q

/-! ### Refused accesses -/

theorem pushEntry_now (hc : cclkUp s = true) (e : RegEntry) : s.pushEntry e = s.applyEntry e := if_pos hc

theorem ignore_adm {o : Nat} (h : 0x200000 ≤ o) (k : Nat) : s.ignore o k = s.ignAdm o k := if_neg (by omega)

theorem ignore_fn {o : Nat} (h : o < 0x200000) (k : Nat) : s.ignore o k = s.ignFn (o / 0x20000) (o % 0x20000) k :=
  if_pos h

/-- A write that PPROT refuses is counted with kind 3, whatever its strobes. -/
theorem apbWrite_refused (hp : s.PortUp) (hk : regKind s.member (wordAddr a) ≠ .hole)
    (hr : protRefused (wordAddr a) prot = true) : s.apbWrite a d strb prot = (s.ignore (wordAddr a) 3).acked := by
  unfold State.apbWrite
  dsimp only
  rw [hp.1, if_neg (by decide), if_neg hk, if_pos hr, pushEntry_ignored hp.2]
  rfl

/-- A partial strobe is counted with kind 1. -/
theorem apbWrite_partial (hp : s.PortUp) (hk : regKind s.member (wordAddr a) ≠ .hole)
    (hr : protRefused (wordAddr a) prot = false) (hs : strb ≠ 0b1111) :
    s.apbWrite a d strb prot = (s.ignore (wordAddr a) 1).acked := by
  unfold State.apbWrite
  dsimp only
  rw [hp.1, if_neg (by decide), if_neg hk, if_neg (by rw [hr]; decide), if_pos hs, pushEntry_ignored hp.2]
  rfl

theorem apbRead_refused (hp : s.PortUp) (hk : regKind s.member (wordAddr a) ≠ .hole)
    (hr : protRefused (wordAddr a) prot = true) :
    s.apbRead a prot = { s.ignore (wordAddr a) 3 with apb := { prdata := 0, pslverr := false } } := by
  unfold State.apbRead
  dsimp only
  rw [hp.1, if_neg (by decide), if_neg hk, if_pos hr, State.pushRefusedRead, if_pos (.inl hp.2), pushEntry_now hp.2]
  rfl

/-- What an ignored access of a function window leaves in the function (R311). -/
theorem ignFn_counts (s : State) (f o k : Nat) : ((s.ignFn f o k).fn f).core
    = ({ s.fn f with ignored := satAdd 32 (s.fn f).ignored 1, ignOffset := o, ignKind := k } : Fn).core := by
  rw [State.ignFn, raise_fn_core, State.modFn_fn, if_pos rfl]

theorem ignFn_raises (hf : f < 16) (o k : Nat) : (s.ignFn f o k).isPending (fnEvent f 5) = true := by
  have hn : fnEvent f 5 < 1476 := by unfold fnEvent; omega
  rw [State.ignFn, raise_isPending hn hn, decide_eq_true rfl, Bool.true_or]

/-- Settles O17: PPROT is decided before the strobes, and each refusal is counted by the half of the map it lies in. -/
theorem refusedAccessesAreCounted : Obligations.RefusedAccessesAreCounted := by
  unfold Obligations.RefusedAccessesAreCounted
  intro s a d strb prot hp hk
  refine ⟨fun ha hprot => ?_, fun hs ha hprot => ?_, fun hs ha => ?_⟩
  · have hr := protRefused_of ha hprot
    rw [exec_registerWrite, exec_registerRead, apbWrite_refused hp hk hr, apbRead_refused hp hk hr,
      ignore_adm (by omega)]
    exact ⟨rfl, rfl⟩
  · rw [exec_registerWrite, apbWrite_partial hp hk (not_protRefused_of hprot) hs, ignore_adm ha]
    rfl
  · intro f
    have hf : f < 16 := by simp only [f]; omega
    have hcounts := ignFn_counts s f (wordAddr a % 0x20000) 1
    refine ⟨?_, congrArg Fn.ignored hcounts, congrArg Fn.ignOffset hcounts, congrArg Fn.ignKind hcounts,
      ignFn_raises hf _ _⟩
    rw [exec_registerWrite, apbWrite_partial hp hk (not_protRefused_of (.inl (by omega))) hs, ignore_fn ha]

/-! ### Reads that are carried out -/

/-- A read of the administrative area by a privileged secure access. -/
theorem exec_read_adm (hp : s.PortUp) (ha : wordAddr a = n) (hn : 0x200000 ≤ n) (hpr : protRefused n prot = false)
    (hk : regKind s.member n ≠ .hole) : exec (.registerRead a prot) s
      = .next { s.readAdm n with apb := { prdata := s.regValue n, pslverr := false } } := by
  have heffect : s.readEffect n = s.readAdm n := if_neg (by omega)
  rw [exec_registerRead, apbRead_done hp.1 (by rw [ha]; exact hk) (by rw [ha]; exact hpr), ha, heffect]

/-- A read of a live function's register outside its mailbox. -/
theorem exec_read_fn (h : s.FnLive f) (hn : n < 0x20000) (h4 : n % 4 = 0) (hm : n < 0x1000 ∨ 0x2000 ≤ n)
    (hk : fnKind s.member n ≠ .hole) : exec (.registerRead (fnReg f n) prot) s
      = .next { s.readFn f n with apb := { prdata := s.fnValue f n, pslverr := false } } := by
  have ⟨_, hf, _⟩ := h
  rw [exec_registerRead, apbRead_window h (fnReg_addr hf hn h4) hn hm hk]

/-! ### Where a slot's registers stand in the window -/

theorem slot_div (sl : Nat) (hn : n < 0x200) : (0x10000 + sl * 0x200 + n - 0x10000) / 0x200 = sl := by omega

theorem slot_mod (sl : Nat) (hn : n < 0x200) : (0x10000 + sl * 0x200 + n) % 0x200 = n := by omega

theorem fnKind_slot (h : s.SlotLive f sl p) (hn : n < 0x200) :
    fnKind s.member (0x10000 + sl * 0x200 + n) = slotKind s.member n := by
  obtain ⟨-, -, hpresent, -⟩ := h
  rw [fnKind, if_neg (by omega), if_neg (by omega), if_neg (by omega), if_neg (by omega), if_neg (by omega),
    slot_div sl hn, slot_mod sl hn, hpresent]
  rfl

theorem fnValue_slot (h : s.SlotLive f sl p) (hn : n < 0x200) :
    s.fnValue f (0x10000 + sl * 0x200 + n) = slotValue (s.chan p) (s.gateWait p) n := by
  obtain ⟨-, -, -, hpch⟩ := h
  unfold State.fnValue
  dsimp only
  rw [if_neg (by omega), if_neg (by omega), if_neg (by omega), slot_div sl hn, slot_mod sl hn, hpch]

theorem readFn_slot (h : s.SlotLive f sl p) (hn : n < 0x200) :
    s.readFn f (0x10000 + sl * 0x200 + n) = s.modChan p fun c => c.readClear n := by
  obtain ⟨-, -, -, hpch⟩ := h
  unfold State.readFn
  rw [if_neg (by omega), if_neg (by omega), if_neg (by omega), if_neg (by omega), if_neg (by omega), if_neg (by omega),
    if_neg (by omega), if_pos (by omega), slot_div sl hn, slot_mod sl hn, hpch]

/-- A read of a slot register returns the channel's value and clears its RC fields. -/
theorem exec_read_slot (h : s.SlotLive f sl p) (hn : n < 0x200) (h4 : n % 4 = 0) (hk : slotKind s.member n ≠ .hole) :
    exec (.registerRead (slotReg f sl n) prot) s = .next { s.modChan p fun c => c.readClear n with
      apb := { prdata := slotValue (s.chan p) (s.gateWait p) n, pslverr := false } } := by
  have ⟨hlive, hsl, _⟩ := h
  have ⟨_, hf, _⟩ := hlive
  have haddr : wordAddr (slotReg f sl n) = f * 0x20000 + (0x10000 + sl * 0x200 + n) := by
    rw [slotReg_addr hf hsl hn h4]; omega
  rw [exec_registerRead, apbRead_window hlive haddr (by omega) (by omega) (by rw [fnKind_slot h hn]; exact hk),
    fnValue_slot h hn, readFn_slot h hn]

/-! ### Completion rings and stream-port views -/

theorem exec_read_crStat (h : s.FnLive f) {r : Nat} (hr : r < 16) : exec (.registerRead (fnReg f (0x2000 + r * 0x40 + 0x14)) prot) s
    = .next { s.modRing f r fun y => { y with waitCount := 0 } with
      apb := { prdata := crValue (look {} (s.fn f).rings r) 0x14, pslverr := false } } := by
  have hidx : (0x2000 + r * 0x40 + 0x14 - 0x2000) / 0x40 = r := by omega
  have hoff : (0x2000 + r * 0x40 + 0x14) % 0x40 = 0x14 := by omega
  have hkind : fnKind s.member (0x2000 + r * 0x40 + 0x14) = .writable := by
    rw [fnKind, if_neg (by omega), if_neg (by omega), if_neg (by omega), if_pos (by omega), hoff]; rfl
  have hvalue : s.fnValue f (0x2000 + r * 0x40 + 0x14) = crValue (look {} (s.fn f).rings r) 0x14 := by
    unfold State.fnValue
    dsimp only
    rw [if_neg (by omega), if_neg (by omega), if_pos (by omega), hidx, hoff]
  have heffect : s.readFn f (0x2000 + r * 0x40 + 0x14) = s.modRing f r fun y => { y with waitCount := 0 } := by
    unfold State.readFn
    rw [if_neg (by omega), if_neg (by omega), if_neg (by omega), if_neg (by omega), if_neg (by omega),
      if_neg (by omega), if_pos (by omega), hidx, hoff, if_pos rfl]
  rw [exec_read_fn h (by omega) (by omega) (by omega) (by rw [hkind]; decide), hvalue, heffect]

/-- The view of a port in its holder's window stands from SP_LEVEL on (Table 14-9). -/
theorem exec_read_portView (h : s.FnLive f) {q : Nat} (hq : q < 64) (hn : n < 0x20) (h4 : n % 4 = 0)
    (hpresent : s.member.portPresent q = true) (hheld : (s.port q).holder = some f) :
    exec (.registerRead (fnReg f (0x800 + q * 0x20 + n)) prot) s = .next { s.modPort q fun y => y.readClear (0x10 + n) with
      apb := { prdata := s.spValue q (0x10 + n), pslverr := false } } := by
  have hidx : (0x800 + q * 0x20 + n - 0x800) / 0x20 = q := by omega
  have hoff : (0x800 + q * 0x20 + n) % 0x20 = n := by omega
  have hkind : fnKind s.member (0x800 + q * 0x20 + n) ≠ .hole := by
    rw [fnKind, if_neg (by omega), if_pos (by omega), hidx, hoff, hpresent]
    unfold RegKind.when spKind
    split
    · split
      · nofun
      · rw [if_pos (by omega)]; nofun
    · contradiction
  have hvalue : s.fnValue f (0x800 + q * 0x20 + n) = s.spValue q (0x10 + n) := by
    unfold State.fnValue
    dsimp only
    rw [if_neg (by omega), if_pos (by omega), hidx, hoff, if_pos hheld]
  have heffect : s.readFn f (0x800 + q * 0x20 + n) = s.modPort q fun y => y.readClear (0x10 + n) := by
    unfold State.readFn
    rw [if_neg (by omega), if_neg (by omega), if_neg (by omega), if_neg (by omega), if_neg (by omega),
      if_pos (by omega), hidx, hoff, if_pos hheld]
  rw [exec_read_fn h (by omega) (by omega) (by omega) hkind, hvalue, heffect]

theorem spReg_addr {q : Nat} (hq : q < 64) (hn : n < 0x100) (h4 : n % 4 = 0) :
    wordAddr (BitVec.ofNat 22 (0x210000 + q * 0x100 + n)) = 0x210000 + q * 0x100 + n := by
  simp only [wordAddr, BitVec.toNat_ofNat]; omega

theorem regKind_sp {q : Nat} (m : Member) (hq : q < 64) (hn : n < 0x100) (hpresent : m.portPresent q = true) :
    regKind m (0x210000 + q * 0x100 + n) = spKind n := by
  have hidx : (0x210000 + q * 0x100 + n - 0x210000) / 0x100 = q := by omega
  have hoff : (0x210000 + q * 0x100 + n) % 0x100 = n := by omega
  rw [regKind, if_neg (by omega), if_neg (by omega), if_neg (by omega), if_neg (by omega), if_pos (by omega), hidx, hoff,
    hpresent]
  rfl

/-- A read of a port's administrative block. -/
theorem exec_read_sp (hp : s.PortUp) {q : Nat} (hq : q < 64) (hn : n < 0x30) (h4 : n % 4 = 0)
    (hpresent : s.member.portPresent q = true) :
    exec (.registerRead (BitVec.ofNat 22 (0x210000 + q * 0x100 + n)) 1) s = .next { s.modPort q fun y => y.readClear n with
      apb := { prdata := s.spValue q n, pslverr := false } } := by
  have hidx : (0x210000 + q * 0x100 + n - 0x210000) / 0x100 = q := by omega
  have hoff : (0x210000 + q * 0x100 + n) % 0x100 = n := by omega
  have hkind : regKind s.member (0x210000 + q * 0x100 + n) ≠ .hole := by
    rw [regKind_sp _ hq (by omega) hpresent, spKind]
    split <;> nofun
  have hvalue : s.regValue (0x210000 + q * 0x100 + n) = s.spValue q n := by
    rw [State.regValue, if_neg (by omega), if_neg (by omega), if_neg (by omega), if_pos (by omega), hidx, hoff]
  have heffect : s.readAdm (0x210000 + q * 0x100 + n) = s.modPort q fun y => y.readClear n := by
    unfold State.readAdm
    dsimp only
    rw [if_neg (by omega), if_pos (by omega), hidx, hoff]
  rw [exec_read_adm hp (spReg_addr hq (by omega) h4) (by omega) (not_protRefused_of (.inr ⟨rfl, rfl⟩)) hkind, hvalue, heffect]

/-! ### The reads of each block that clear or load -/

/-- A register read that returns `v` and leaves `t`. -/
def State.Reads (s : State) (a : BitVec 22) (prot : BitVec 3) (v : W32) (t : State) : Prop :=
  exec (.registerRead a prot) s = .next { t with apb := { prdata := v, pslverr := false } }

theorem reads_value (hp : s.PortUp) (hk : regKind s.member (wordAddr a) ≠ .hole)
    (hpr : wordAddr a < 0x200018 ∨ (prot.getLsbD 0 = true ∧ prot.getLsbD 1 = false)) :
    ∃ t, exec (.registerRead a prot) s = .next t ∧ t.apb = { prdata := s.regValue (wordAddr a), pslverr := false } :=
  ⟨_, by rw [exec_registerRead, apbRead_done hp.1 hk (not_protRefused_of hpr)], rfl⟩

/-- Privileged secure reads of registers outside the functions' windows. -/
theorem reads_adm (hp : s.PortUp) (n : Nat) (hn : 0x200000 ≤ n) (hlt : n < 0x400000) (h4 : n % 4 = 0)
    (hk : regKind s.member n ≠ .hole) : s.Reads (BitVec.ofNat 22 n) 1 (s.regValue n) (s.readAdm n) := by
  have haddr : wordAddr (BitVec.ofNat 22 n) = n := by simp only [wordAddr, BitVec.toNat_ofNat]; omega
  exact exec_read_adm hp haddr hn (not_protRefused_of (.inr ⟨rfl, rfl⟩)) hk

/-- The registers of the safety block that a member of the FULL set alone has. -/
theorem safetyKind_full {m : Member} (h : m.safetyFull = true) {o : Nat} (ho : o = 0x010 ∨ o = 0x014 ∨ o = 0x024) :
    regKind m (0x230000 + o) ≠ .hole := by
  rcases ho with rfl | rfl | rfl <;> simp [regKind, safetyKind, h, RegKind.when]

/-- A snapshot of a function's window is the read of its F_TNOW_LO. -/
theorem exec_timeSnapshot_fn (h : s.FnLive f) (prot : BitVec 3) :
    exec (.timeSnapshot f prot) s = exec (.registerRead (fnReg f 0x008) prot) s := by
  obtain ⟨-, hf, -⟩ := h
  have hne : f ≠ 16 := by omega
  exact congrArg (fun a => Host.Outcome.next (s.apbRead a prot)) (if_neg hne)

/-- Settles O18: each read is the value of its register and the RC fields of its block; the two snapshot registers load
their window's snapshot. -/
theorem readsReturnRegisterValues : Obligations.ReadsReturnRegisterValues := by
  unfold Obligations.ReadsReturnRegisterValues
  intro s hp reads
  refine ⟨fun a prot hk hpr => reads_value hp hk hpr, fun f sl p prot h => ?_, fun f prot h => ?_, fun q hpresent hq => ?_,
    reads_adm hp 0x200264 (by decide) (by decide) rfl nofun, fun hfull => ?_,
    reads_adm hp 0x230018 (by decide) (by decide) rfl nofun, reads_adm hp 0x23001C (by decide) (by decide) rfl nofun,
    reads_adm hp 0x230028 (by decide) (by decide) rfl nofun, reads_adm hp 0x200020 (by decide) (by decide) rfl nofun,
    reads_adm hp 0x200024 (by decide) (by decide) rfl nofun, fun f prot h => ?_⟩
  · exact ⟨exec_read_slot h (by decide) rfl nofun, exec_read_slot h (by decide) rfl nofun,
      exec_read_slot h (by decide) rfl nofun, exec_read_slot h (by decide) rfl nofun,
      exec_read_slot h (by decide) rfl nofun,
      fun hfull => exec_read_slot h (by decide) rfl (by simp [slotKind, RegKind.when, hfull])⟩
  · exact ⟨exec_read_fn h (by decide) rfl (by decide) nofun, exec_read_fn h (by decide) rfl (by decide) nofun,
      exec_read_fn h (by decide) rfl (by decide) nofun, fun r hr => exec_read_crStat h hr,
      fun q hpresent hheld hq => ⟨exec_read_portView h hq (by decide) rfl hpresent hheld,
        exec_read_portView h hq (by decide) rfl hpresent hheld⟩⟩
  · exact ⟨exec_read_sp hp hq (by decide) rfl hpresent, exec_read_sp hp hq (by decide) rfl hpresent,
      exec_read_sp hp hq (by decide) rfl hpresent, exec_read_sp hp hq (by decide) rfl hpresent⟩
  · exact ⟨reads_adm hp 0x230010 (by decide) (by decide) rfl (safetyKind_full hfull (.inl rfl)),
      reads_adm hp 0x230014 (by decide) (by decide) rfl (safetyKind_full hfull (.inr (.inl rfl))),
      reads_adm hp 0x230024 (by decide) (by decide) rfl (safetyKind_full hfull (.inr (.inr rfl)))⟩
  · exact ⟨(exec_timeSnapshot_fn h prot).trans (exec_read_fn h (by decide) rfl (by decide) nofun),
      exec_read_fn h (by decide) rfl (by decide) nofun⟩

end Sys2Proof.Machine
end

section
/-! The administrative registers (R191, R237, R291, R311; Tables 5-8, 7-7, 9-8, 11-8, 12-8): what a privileged secure
write of a whole word leaves. -/

namespace Sys2Proof.Machine

variable {s : State} {n : Nat} {a : BitVec 22} {d : W32}

/-! ### Writes that reach their register -/

/-- A privileged secure write of a word of the administrative area that has a writable field. -/
theorem exec_write_adm (hp : s.PortUp) (ha : wordAddr a = n) (hn : 0x200000 ≤ n) (hm : n < 0x201000 ∨ 0x202000 ≤ n)
    (hk : regKind s.member n = .writable) :
    exec (.registerWrite a d 0b1111 1) s = .next (s.writeAdm n d).acked := by
  rw [exec_registerWrite, apbWrite_adm hp ha hn hm (not_protRefused_of (.inr ⟨rfl, rfl⟩)) hk]

/-- A register with no writable field: the write is counted with kind 0 (R311). -/
theorem exec_write_adm_readOnly (hp : s.PortUp) (ha : wordAddr a = n) (hn : 0x202000 ≤ n ∨ (0x200000 ≤ n ∧ n < 0x201000))
    (hk : regKind s.member n = .readOnly) :
    exec (.registerWrite a d 0b1111 1) s = .next (s.ignAdm n 0).acked := by
  have hmb : mbOf n = none := by unfold mbOf; rw [if_neg (by omega), if_neg (by omega)]
  have happly : s.applyEntry { addr := n, data := d } = s.ignAdm n 0 := by
    unfold State.applyEntry State.writeAdm
    dsimp only
    rw [if_neg (by omega), if_pos hk]
  rw [exec_registerWrite]
  unfold State.apbWrite
  dsimp only
  rw [ha, hp.1, if_neg (by decide), if_neg (by rw [hk]; decide),
    if_neg (by rw [not_protRefused_of (.inr ⟨rfl, rfl⟩)]; decide), if_neg (by decide), hmb, pushEntry_now hp.2, happly]
  rfl

theorem wordAddr_ofNat (hn : n < 2 ^ 22) (h4 : n % 4 = 0) : wordAddr (BitVec.ofNat 22 n) = n := by
  simp only [wordAddr, BitVec.toNat_ofNat]; omega

theorem writeAdm_g (hn : n < 0x201000) (hk : regKind s.member n = .writable) :
    s.writeAdm n d = (s.writeG (n - 0x200000) d).getD (s.ignAdm n 2) := by
  rw [State.writeAdm, if_neg (by rw [hk]; decide), if_pos hn]

theorem regKind_g (h : 0x200000 ≤ n) (hn : n < 0x201000) : regKind s.member n = gKind s.member (n - 0x200000) := by
  rw [regKind, if_neg (by omega), if_pos hn]

/-- A write of a G_ register that has a writable field. -/
theorem exec_write_g {o : Nat} (hp : s.PortUp) (ho : o < 0x1000) (h4 : o % 4 = 0) (hk : gKind s.member o = .writable) :
    exec (.registerWrite (BitVec.ofNat 22 (0x200000 + o)) d 0b1111 1) s
      = .next ((s.writeG o d).getD (s.ignAdm (0x200000 + o) 2)).acked := by
  have hk' : regKind s.member (0x200000 + o) = .writable := by
    rw [regKind_g (by omega) (by omega), show 0x200000 + o - 0x200000 = o by omega, hk]
  rw [exec_write_adm hp (wordAddr_ofNat (by omega) (by omega)) (by omega) (by omega) hk', writeAdm_g (by omega) hk',
    show 0x200000 + o - 0x200000 = o by omega]

/-! ### The bench registers -/

theorem gKind_cap {o : Nat} (h : 0x100 ≤ o) (h' : o < 0x140) (hb : (o - 0x100) / 8 < s.member.benches) :
    gKind s.member o = .writable := by
  have hlist : [0x020, 0x024, 0x028, 0x02C, 0x040, 0x044, 0x048, 0x050].contains o = false := by
    simp; omega
  unfold gKind
  rw [if_neg (by omega), hlist, if_neg (by decide), if_neg (by omega), if_neg (by omega), if_pos ⟨h, h'⟩,
    decide_eq_true hb]
  rfl

theorem gKind_lane {o : Nat} (h : 0x180 ≤ o) (h' : o < 0x1C0) (h8 : o % 8 = 0)
    (hb : (o - 0x180) / 8 < s.member.benches) : gKind s.member o = .writable := by
  have hlist : [0x020, 0x024, 0x028, 0x02C, 0x040, 0x044, 0x048, 0x050].contains o = false := by
    simp; omega
  unfold gKind
  rw [if_neg (by omega), hlist, if_neg (by decide), if_neg (by omega), if_neg (by omega), if_neg (by omega),
    if_neg (by omega), if_pos ⟨h, h'⟩, decide_eq_true h8, decide_eq_true hb]
  rfl

theorem writeG_cap {o : Nat} (h : 0x100 ≤ o) (h' : o < 0x140) : s.writeG o d
    = some (s.modBench ((o - 0x100) / 8) fun x => if o % 8 = 0 then { x with capRd := d } else { x with capWr := d }) := by
  rw [State.writeG, if_neg (by omega), if_pos ⟨h, h'⟩]

theorem writeG_lane {o : Nat} (h : 0x180 ≤ o) (h' : o < 0x1C0) : s.writeG o d = s.writeLane ((o - 0x180) / 8) d := by
  rw [State.writeG, if_neg (by omega), if_neg (by omega), if_neg (by omega), if_pos ⟨h, h'⟩]

theorem writeLane_getD (b : Nat) (t : State) : (s.writeLane b d).getD t
    = if field32 d 15 0 ≤ field32 d 31 16
          ∧ s.cruReserved - (s.bench b).laneRes + field32 d 15 0 ≤ s.member.reservable then
        s.modBench b fun x => { x with laneRes := field32 d 15 0, laneLim := field32 d 31 16 }
      else t := by
  unfold State.writeLane
  dsimp only
  split
  · next h => rw [if_neg (by omega)]; rfl
  · next h => rw [if_pos (by omega)]; rfl

section
variable {b : Nat} (hp : s.PortUp) (hb : b < s.member.benches) (h8 : b < 8)
include hp hb h8

theorem exec_write_capRd : exec (.registerWrite (BitVec.ofNat 22 (0x200100 + 8 * b)) d 0b1111 1) s
    = .next (s.modBench b fun x => { x with capRd := d }).acked := by
  have hdiv : (0x100 + 8 * b - 0x100) / 8 = b := by omega
  have hmod : (0x100 + 8 * b) % 8 = 0 := by omega
  have h := exec_write_g (d := d) (o := 0x100 + 8 * b) hp (by omega) (by omega)
    (gKind_cap (by omega) (by omega) (by rw [hdiv]; exact hb))
  rw [writeG_cap (by omega) (by omega), hdiv] at h
  simp only [hmod, if_true, ← Nat.add_assoc] at h
  exact h

theorem exec_write_capWr : exec (.registerWrite (BitVec.ofNat 22 (0x200104 + 8 * b)) d 0b1111 1) s
    = .next (s.modBench b fun x => { x with capWr := d }).acked := by
  have hdiv : (0x104 + 8 * b - 0x100) / 8 = b := by omega
  have hmod : (0x104 + 8 * b) % 8 ≠ 0 := by omega
  have h := exec_write_g (d := d) (o := 0x104 + 8 * b) hp (by omega) (by omega)
    (gKind_cap (by omega) (by omega) (by rw [hdiv]; exact hb))
  rw [writeG_cap (by omega) (by omega), hdiv] at h
  simp only [hmod, if_false, ← Nat.add_assoc] at h
  exact h

theorem exec_write_lane : exec (.registerWrite (BitVec.ofNat 22 (0x200180 + 8 * b)) d 0b1111 1) s
    = .next (if field32 d 15 0 ≤ field32 d 31 16
          ∧ s.cruReserved - (s.bench b).laneRes + field32 d 15 0 ≤ s.member.reservable then
        s.modBench b fun x => { x with laneRes := field32 d 15 0, laneLim := field32 d 31 16 }
      else s.ignAdm (0x200180 + 8 * b) 2).acked := by
  have hdiv : (0x180 + 8 * b - 0x180) / 8 = b := by omega
  have h := exec_write_g (d := d) (o := 0x180 + 8 * b) hp (by omega) (by omega)
    (gKind_lane (by omega) (by omega) (by omega) (by rw [hdiv]; exact hb))
  rw [writeG_lane (by omega) (by omega), hdiv, writeLane_getD] at h
  simp only [← Nat.add_assoc] at h
  exact h

end

/-! ### Event bits, stream ports, the Xezan ports and the Cullet -/

theorem exec_write_gEvt {i : Nat} (hp : s.PortUp) (hi : i < 3) :
    exec (.registerWrite (BitVec.ofNat 22 (0x200140 + 4 * i)) d 0b1111 1) s = .next { s with ev := { s.ev with
      glob := s.ev.glob &&& ~~~ BitVec.ofNat 68 (d.toNat * 2 ^ (32 * i)) } }.acked := by
  have hmul : 8 * (0x140 + 4 * i - 0x140) = 32 * i := by omega
  have hkind : gKind s.member (0x140 + 4 * i) = .writable := by
    obtain rfl | rfl | rfl : i = 0 ∨ i = 1 ∨ i = 2 := by omega
    all_goals rfl
  have h := exec_write_g (d := d) (o := 0x140 + 4 * i) hp (by omega) (by omega) hkind
  rw [State.writeG, if_neg (by omega), if_neg (by omega), if_pos (by omega), hmul] at h
  simp only [← Nat.add_assoc] at h
  exact h

theorem exec_write_spStat {p : Nat} (hp : s.PortUp) (h64 : p < 64) (hpresent : s.member.portPresent p = true) :
    exec (.registerWrite (BitVec.ofNat 22 (0x210014 + 0x100 * p)) d 0b1111 1) s
      = .next (s.modPort p fun x => x.clearStat d).acked := by
  have hmod : (0x210014 + 0x100 * p) % 0x100 = 0x14 := by omega
  have hdiv : (0x210014 + 0x100 * p - 0x210000) / 0x100 = p := by omega
  have hkind : regKind s.member (0x210014 + 0x100 * p) = .writable := by
    unfold regKind
    rw [if_neg (by omega), if_neg (by omega), if_neg (by omega), if_neg (by omega), if_pos (by omega), hmod, hdiv,
      hpresent]
    rfl
  rw [exec_write_adm hp (wordAddr_ofNat (by omega) (by omega)) (by omega) (by omega) hkind, State.writeAdm,
    if_neg (by rw [hkind]; decide), if_neg (by omega), if_pos (by omega), hdiv]
  rfl

theorem xKind_timers (hx : s.member.hasXezan = true) :
    regKind s.member 0x260004 = .writable ∧ regKind s.member 0x260008 = .writable := by
  constructor
  all_goals
    show RegKind.when .writable s.member.hasXezan = .writable
    rw [hx]
    rfl

theorem writeX_getD (o : Nat) (t : State) : (s.writeX o d).getD t
    = if 20 ≤ field32 d 22 0 ∧ field32 d 22 0 ≤ 5000000 then
        (if o = 0x004 then { s with xez := { s.xez with tmo := field32 d 22 0 } }
         else { s with xez := { s.xez with hold := field32 d 22 0 } })
      else t := by
  unfold State.writeX
  dsimp only
  by_cases h : field32 d 22 0 < 20 ∨ 5000000 < field32 d 22 0
  · rw [if_pos h, if_neg (by rintro ⟨h1, h2⟩; omega)]; rfl
  · rw [if_neg h, if_pos (show _ ∧ _ by omega)]
    by_cases ho : o = 0x004
    · rw [if_pos ho, if_pos ho]; rfl
    · rw [if_neg ho, if_neg ho]; rfl

/-- A write of X_TMO or X_HOLD. -/
theorem exec_write_x {o : Nat} (hp : s.PortUp) (ha : wordAddr a = 0x260000 + o) (ho : o < 0x1000)
    (hk : regKind s.member (0x260000 + o) = .writable) : exec (.registerWrite a d 0b1111 1) s
      = .next ((s.writeX o d).getD (s.ignAdm (0x260000 + o) 2)).acked := by
  rw [exec_write_adm hp ha (by omega) (by omega) hk, State.writeAdm, if_neg (by rw [hk]; decide), if_neg (by omega),
    if_neg (by omega), if_neg (by omega), if_neg (by omega), show 0x260000 + o - 0x260000 = o by omega]

theorem cuKind_force (hc : s.member.hasCullet = true) : regKind s.member 0x22002C = .writable := by
  show RegKind.when .writable s.member.hasCullet = .writable
  rw [hc]
  rfl

theorem cuKind_count (hc : s.member.hasCullet = true) : regKind s.member 0x220018 = .readOnly := by
  show RegKind.when .readOnly s.member.hasCullet = .readOnly
  rw [hc]
  rfl

theorem forceFree_getD (t : State) : (s.forceFree d).getD t = if s.stale d.toNat = true then t
    else { s with cul := { s.cul with forced := s.cul.forced ++ [handleGob d.toNat] } } := by
  unfold State.forceFree
  split <;> rfl

/-- A write of CU_FORCE. -/
theorem writeAdm_force (hc : s.member.hasCullet = true) : s.writeAdm 0x22002C d
    = if s.stale d.toNat = true then s.ignAdm 0x22002C 2
      else { s with cul := { s.cul with forced := s.cul.forced ++ [handleGob d.toNat] } } := by
  rw [State.writeAdm, if_neg (by rw [cuKind_force hc]; decide), if_neg (by decide), if_neg (by decide), if_pos (by decide),
    forceFree_getD]

/-- Settles O19: each register by its place in the map, its refusals by the check that its write makes. -/
theorem administrativeRegistersTakeWrites : Obligations.AdministrativeRegistersTakeWrites := by
  unfold Obligations.AdministrativeRegistersTakeWrites
  intro s d hp
  refine ⟨exec_write_g (o := 0x240) hp (by decide) rfl rfl, exec_write_g (o := 0x244) hp (by decide) rfl rfl,
    exec_write_g (o := 0x260) hp (by decide) rfl rfl, exec_write_g (o := 0x04C) hp (by decide) rfl rfl,
    fun b hb h8 => ⟨exec_write_capRd hp hb h8, exec_write_capWr hp hb h8, exec_write_lane hp hb h8⟩,
    fun hx => ?_, fun hc => ?_, fun i hi => exec_write_gEvt hp hi, fun p h64 hpr => exec_write_spStat hp h64 hpr,
    exec_write_adm_readOnly hp rfl (by decide) rfl, fun _ _ => rfl⟩
  · obtain ⟨htmo, hhold⟩ := xKind_timers hx
    have h1 := exec_write_x (a := 0x260004) (d := d) (o := 4) hp rfl (by decide) htmo
    have h2 := exec_write_x (a := 0x260008) (d := d) (o := 8) hp rfl (by decide) hhold
    rw [writeX_getD] at h1 h2
    exact ⟨h1, h2⟩
  · refine ⟨?_, exec_write_adm_readOnly hp rfl (by decide) (cuKind_count hc), ?_⟩
    · rw [← writeAdm_force hc]
      exact exec_write_adm hp rfl (by decide) (by decide) (cuKind_force hc)
    · exact exec_read_adm (n := 0x22002C) hp rfl (by decide) rfl (by rw [cuKind_force hc]; decide)

end Sys2Proof.Machine
end

section
/-! The alarm's cause bits and the acknowledge pin (R12, R291). -/

namespace Sys2Proof.Machine

variable {s : State} {b : Nat}

/-- A W1C field with bits that stay: a 1 clears its bit unless the bit is held. -/
theorem clearUnless_bit {n : Nat} (x y held : BitVec n) (h : b < n) :
    (x &&& ~~~ (y &&& ~~~ held)).getLsbD b = (x.getLsbD b && (!y.getLsbD b || held.getLsbD b)) := by
  simp [h]

theorem causeBits : ∀ stale clock lockstep : Bool, ∀ b, b < 16 →
    (BitVec.ofNat 16 (b2n stale + b2n clock * 2 ^ 6 + b2n lockstep * 2 ^ 7)).getLsbD b
      = (decide (b = 6) && clock || decide (b = 7) && lockstep || decide (b = 0) && stale) := by decide

/-- The bits of S_CAUSE whose condition holds. -/
theorem causeHolds_bit (s : State) (h : b < 16) : s.causeHolds.getLsbD b
    = (decide (b = 6) && (s.rst.lost != 0 || s.rst.refLost) || decide (b = 7) && s.gaf.state == .booting
        || decide (b = 0) && !s.time.valid && s.chans.any fun e => e.2.started.any fun w => w.desc.fresh && w.live) := by
  rw [State.causeHolds, causeBits _ _ _ b h, Bool.and_assoc]

/-- The bits of S_CLK_LOSS whose clock is still lost. -/
theorem lossHeld_bit (lost : BitVec 9) (ref : Bool) (h : b < 10) :
    (BitVec.ofNat 10 (lost.toNat + b2n ref * 2 ^ 9)).getLsbD b = if b = 9 then ref else lost.getLsbD b := by
  rw [BitVec.getLsbD_ofNat, decide_eq_true h, Bool.true_and, Nat.add_comm, Nat.mul_comm,
    Nat.testBit_two_pow_mul_add _ lost.isLt]
  by_cases h9 : b = 9
  · subst h9
    cases ref <;> rfl
  · rw [if_neg h9, if_pos (by omega)]
    rfl

/-- What SAFE_ACK does where neither a reset nor the loss of refclk holds the safety block. -/
theorem exec_safeAck (hc : s.rst.coldHeld = false) (hw : s.rst.warmHeld = false) (hr : s.rst.refLost = false)
    (level : Bool) : exec (.safeAck level) s
      = .next (if level && !s.safety.ackLevel then
          ({ s with safety := { s.safety with ackLevel := level } } : State).safeAck
        else { s with safety := { s.safety with ackLevel := level } }) := by
  show execSafeAck level s = _
  unfold execSafeAck
  rw [hc, hw, hr]
  rfl

theorem safeAck_accepted (hc : s.safety.cause = 0) (ha : s.safety.asserted = true) : s.safeAck
    = (({ s with safety := { s.safety with
        asserted := false, alarmP := true, alarmN := false, ackAccepted := satAdd 16 s.safety.ackAccepted 1 } } :
      State).raiseUp 1417).log 0x11 0xFF (leBytes 4 (satAdd 16 s.safety.ackAccepted 1)) := by
  rw [State.safeAck, if_neg (not_not_intro hc), if_pos ha]

theorem safeAck_refused (hc : s.safety.cause ≠ 0) : s.safeAck
    = ({ s with safety := { s.safety with ackRefused := satAdd 16 s.safety.ackRefused 1 } } : State).raiseUp 1418 :=
  if_pos hc

/-- Settles O20: what still holds keeps its bit, and SAFE_ACK acts only when it rises. -/
theorem alarmIsClearedAndAcknowledged : Obligations.AlarmIsClearedAndAcknowledged := by
  unfold Obligations.AlarmIsClearedAndAcknowledged
  intro s
  refine ⟨fun d hp => ⟨_, exec_write_adm (a := 0x230000) (n := 0x230000) hp rfl (by decide) (by decide) rfl, rfl,
      fun b hb => ?_⟩,
    fun d hp => ⟨_, exec_write_adm (a := 0x230020) (n := 0x230020) hp rfl (by decide) (by decide) rfl, rfl,
      fun b hb => ?_⟩,
    fun hc hw hr => ⟨fun hlevel hcause hasserted => ⟨_, ?_, rfl⟩, fun hlevel hcause => ⟨_, ?_, rfl⟩,
      fun hlevel => ?_, exec_safeAck hc hw hr false⟩⟩
  · have hbit : (BitVec.ofNat 16 d.toNat).getLsbD b = d.getLsbD b := by
      rw [BitVec.getLsbD_ofNat, decide_eq_true hb]; rfl
    show (s.safety.cause &&& ~~~ (BitVec.ofNat 16 d.toNat &&& ~~~ s.causeHolds)).getLsbD b = _
    rw [clearUnless_bit _ _ _ hb, hbit, causeHolds_bit s hb, Bool.or_assoc, Bool.or_assoc, Bool.or_assoc]
  · have hbit : (BitVec.ofNat 10 d.toNat).getLsbD b = d.getLsbD b := by
      rw [BitVec.getLsbD_ofNat, decide_eq_true hb]; rfl
    show (s.safety.clkLoss &&& ~~~ (BitVec.ofNat 10 d.toNat
      &&& ~~~ BitVec.ofNat 10 (s.rst.lost.toNat + b2n s.rst.refLost * 2 ^ 9))).getLsbD b = _
    rw [clearUnless_bit _ _ _ hb, hbit, lossHeld_bit _ _ hb]
  · rw [exec_safeAck hc hw hr, hlevel, if_pos (by decide)]
    exact outcome_next (safeAck_accepted hcause hasserted)
  · rw [exec_safeAck hc hw hr, hlevel, if_pos (by decide)]
    exact outcome_next (safeAck_refused hcause)
  · have hsame : ({ s with safety := { s.safety with ackLevel := true } } : State) = s := by rw [← hlevel]
    rw [exec_safeAck hc hw hr, hlevel, if_neg (by decide), hsame]

end Sys2Proof.Machine
end

section
/-! Slot registers and the inline push (R12, R82 to R84, R158, R314): what a whole word written to a slot leaves of its
channel, and when a push's copy is used. -/

namespace Sys2Proof.Machine

variable {s : State} {f sl p n : Nat} {d : W32} {strb : BitVec 4} {prot : BitVec 3}

/-! ### Writing back what stands in a table -/

theorem put_look_of_mem {α : Type} {l : Tbl α} (hwf : Tbl.wf l = true) (dflt : α) {n : Nat} (hn : n ∈ l.map Prod.fst) :
    put l n (look dflt l n) = l := by
  induction l with
  | nil => simp at hn
  | cons e t ih =>
    obtain ⟨k, v⟩ := e
    by_cases hk : n = k
    · subst hk
      simp [put, look]
    · have ht : n ∈ t.map Prod.fst := by simpa [hk] using hn
      obtain ⟨e, he, rfl⟩ := List.mem_map.1 ht
      have hlt := wf_lt _ _ hwf e he
      rw [look, if_neg hk, put, if_neg (by simp only at hlt; omega), if_neg hk, ih ((wf_cons _ _).1 hwf).2 ht]

theorem findOwner_mem {l : Tbl Chan} (h : findOwner f sl l = some p) : p ∈ l.map Prod.fst := by
  induction l with
  | nil => cases h
  | cons e t ih =>
    rw [findOwner] at h
    split at h
    · cases h
      exact List.mem_cons_self
    · exact List.mem_cons_of_mem _ (ih h)

/-- A change that leaves a mapped channel as it is leaves the state. -/
theorem modChan_unchanged (hw : s.TablesWf) (hp : s.pchOf f sl = some p) : (s.modChan p fun c => c) = s := by
  show { s with chans := put s.chans p (look {} s.chans p) } = s
  rw [put_look_of_mem hw.chans.1 _ (findOwner_mem hp)]

theorem modChan_congr {g g' : Chan → Chan} (h : g (s.chan p) = g' (s.chan p)) : s.modChan p g = s.modChan p g' :=
  congrArg (s.setChan p) h

/-! ### Slot registers -/

theorem exec_write_slot (h : s.SlotLive f sl p) (hn : n < 0x200) (h4 : n % 4 = 0) (hk : slotKind s.member n = .writable) :
    exec (.registerWrite (slotReg f sl n) d 0b1111 0) s
      = .next ((s.writeSlot f p n d).getD (s.ignFn f (0x10000 + sl * 0x200 + n) 2)).acked :=
  outcome_next (apbWrite_slot h hn h4 hk)

theorem slotKind_push (m : Member) (hn : 0x100 ≤ n) : slotKind m n = .writable := if_pos hn

theorem writeSlot_push (hn : 0x100 ≤ n) : s.writeSlot f p n d
    = some (s.modChan p fun c => { c with push := put c.push ((n - 0x100) / 4) d }) := if_pos hn

theorem exec_pushAreaWrite (w : Nat) (hw : w < 64) : exec (.pushAreaWrite f sl w d strb) s
    = .next (s.apbWrite (slotReg f sl (0x100 + 4 * w)) d strb 0) := by
  show Host.Outcome.next (s.apbWrite (slotReg f sl (0x100 + 4 * (w % 64))) d strb 0) = _
  rw [Nat.mod_eq_of_lt hw]

theorem slotValue_push (c : Chan) (gate : Bool) (hn : 0x100 ≤ n) : slotValue c gate n = 0 := by
  unfold slotValue
  simp (disch := omega) only [if_neg]

theorem readClear_push (c : Chan) (hn : 0x100 ≤ n) : c.readClear n = c := by
  unfold Chan.readClear
  simp (disch := omega) only [if_neg]

/-- A partial strobe of a slot register is counted and writes nothing. -/
theorem apbWrite_slot_partial (h : s.SlotLive f sl p) (hn : n < 0x200) (h4 : n % 4 = 0)
    (hk : slotKind s.member n ≠ .hole) (hs : strb ≠ 0b1111) : s.apbWrite (slotReg f sl n) d strb 0
      = (s.ignFn f (0x10000 + sl * 0x200 + n) 1).acked := by
  have ⟨⟨hp, hf, hpresent, _⟩, hsl, _⟩ := h
  have haddr := slotReg_addr hf hsl hn h4
  have hdiv : (f * 0x20000 + 0x10000 + sl * 0x200 + n) / 0x20000 = f := by omega
  have hmod : (f * 0x20000 + 0x10000 + sl * 0x200 + n) % 0x20000 = 0x10000 + sl * 0x200 + n := by omega
  have hkind : regKind s.member (wordAddr (slotReg f sl n)) ≠ .hole := by
    rw [haddr, regKind, if_pos (by omega), hdiv, hmod, hpresent, fnKind_slot h hn]
    exact hk
  rw [apbWrite_partial hp hkind (not_protRefused_of (.inl (by rw [haddr]; omega))) hs, haddr, ignore_fn (by omega), hdiv,
    hmod]

/-- HALT_SEEN and STOP_SEEN written 1 (R314). -/
theorem writeSlot_halt : s.writeSlot f p 0x02C d = some (s.modChan p fun c => { c with
    state := if d.getLsbD 1 = true ∧ c.halt.haltSeen = true ∧ c.cfg.ringMode = false ∧ c.state = .halted then .idle
             else c.state
    halt := { c.halt with haltSeen := c.halt.haltSeen && !d.getLsbD 1
                          stopSeen := c.halt.stopSeen && !d.getLsbD 2 } }) := by
  refine congrArg some (modChan_congr ?_)
  simp only [Bool.and_eq_true, Bool.not_eq_true', beq_iff_eq, and_assoc]

theorem exec_haltSeenClear (h : s.SlotLive f sl p) : exec (.haltSeenClear f sl 0b1111) s
    = .next (s.modChan p fun c => { c with
        state := if c.halt.haltSeen = true ∧ c.cfg.ringMode = false ∧ c.state = .halted then .idle else c.state
        halt := { c.halt with haltSeen := false } }).acked := by
  have hwrite : exec (.haltSeenClear f sl 0b1111) s = .next ((s.writeSlot f p 0x02C 2).getD _).acked :=
    outcome_next (apbWrite_slot h (by omega) rfl rfl)
  rw [hwrite, writeSlot_halt, Option.getD_some]
  refine congrArg (fun t : State => Host.Outcome.next t.acked) (modChan_congr ?_)
  have h1 : (2 : W32).getLsbD 1 = true := rfl
  have h2 : (2 : W32).getLsbD 2 = false := rfl
  simp only [h1, h2, true_and, Bool.not_true, Bool.and_false, Bool.not_false, Bool.and_true]

theorem slotKind_freshStat {m : Member} (h : m.safetyFull = true) : slotKind m 0x088 = .writable := by
  show RegKind.when .writable m.safetyFull = .writable
  rw [h]
  rfl

/-- Settles O21: the push area by R82, and every other register of the slot by its own row of `writeSlot`. -/
theorem slotRegistersTakeWrites : Obligations.SlotRegistersTakeWrites := by
  unfold Obligations.SlotRegistersTakeWrites
  intro s f sl p h
  have ⟨_, _, _, hpch⟩ := h
  refine ⟨fun w d hw => ?_, fun w d strb hw hs => ?_, fun w prot hw hwf => ?_, fun d => ⟨?_, ?_, ?_, ?_, ?_, ?_, ?_, ?_,
    fun hsafe => ?_, ?_⟩, exec_haltSeenClear h⟩
  · have hword : (0x100 + 4 * w - 0x100) / 4 = w := by omega
    rw [exec_pushAreaWrite w hw, apbWrite_slot h (by omega) (by omega) (slotKind_push _ (by omega)),
      writeSlot_push (by omega), hword]
    rfl
  · rw [exec_pushAreaWrite w hw, apbWrite_slot_partial h (by omega) (by omega)
      (by rw [slotKind_push _ (by omega)]; decide) hs, ← Nat.add_assoc]
  · rw [exec_read_slot h (by omega) (by omega) (by rw [slotKind_push _ (by omega)]; decide), slotValue_push _ _ (by omega)]
    simp only [readClear_push _ (show 0x100 ≤ 0x100 + 4 * w by omega)]
    rw [modChan_unchanged hwf hpch]
  · exact exec_write_slot h (n := 0x008) (by decide) rfl rfl
  · exact exec_write_slot h (n := 0x00C) (by decide) rfl rfl
  · exact exec_write_slot h (n := 0x010) (by decide) rfl rfl
  · exact exec_write_slot h (n := 0x014) (by decide) rfl rfl
  · exact exec_write_slot h (n := 0x018) (by decide) rfl rfl
  · exact exec_write_slot h (n := 0x01C) (by decide) rfl rfl
  · exact exec_write_slot h (n := 0x028) (by decide) rfl rfl
  · exact exec_write_slot h (n := 0x060) (by decide) rfl rfl
  · exact exec_write_slot h (n := 0x088) (by decide) rfl (slotKind_freshStat hsafe)
  · have hwrite := exec_write_slot (d := d) h (n := 0x02C) (by decide) rfl rfl
    rw [writeSlot_halt] at hwrite
    exact hwrite

/-! ### PUSH_COMMIT -/

theorem Ring.ring_order (r : Machine.Ring) (t : Nat) (b : Bool) : (r.ring t b).order = r.order := by
  rw [Ring.ring_eq]; split_ifs <;> rfl

theorem Ring.ring_f (r : Machine.Ring) (t : Nat) (b : Bool) : (r.ring t b).f = r.f := by
  rw [Ring.ring_eq]; split_ifs <;> rfl

/-- The channel after the doorbell of a push. -/
theorem ringDoorbell_chan (t : Nat) : (s.ringDoorbell p t).chan p
    = { s.chan p with ring := (s.chan p).ring.ring t (s.fetching p) } := by
  rw [State.ringDoorbell, State.modChan_chan, if_pos rfl]

theorem exec_pushCommit (h : s.SlotLive f sl p) (hm : s.mayRing f p = true) : exec (.pushCommit f sl d 0b1111) s
    = .next ((((s.chan p).ring.pushLegal d).map fun t => s.pushCommit p t (pushCount d)).getD
        (s.ignFn f (0x10000 + sl * 0x200 + 0x044) 2)).acked := by
  have hwrite : s.writeSlot f p 0x044 d = ((s.chan p).ring.pushLegal d).map fun t => s.pushCommit p t (pushCount d) :=
    (show s.writeSlot f p 0x044 d = if s.mayRing f p then _ else none from rfl).trans (if_pos hm)
  rw [← hwrite]
  exact outcome_next (apbWrite_slot h (by omega) rfl rfl)

theorem Ring.pushLegal_some {r : Machine.Ring} {t : Nat} (ht : r.newTail d = some t) (h1 : 1 ≤ pushCount d)
    (h4 : pushCount d ≤ 4) (hc : pushCount d ≤ ringCount r.order r.t t) : r.pushLegal d = some t := by
  rw [Ring.pushLegal, ht]
  exact if_pos ⟨h1, h4, hc⟩

theorem Ring.pushLegal_none {r : Machine.Ring} {t : Nat} (ht : r.newTail d = some t)
    (h : pushCount d = 0 ∨ 4 < pushCount d ∨ ringCount r.order r.t t < pushCount d) : r.pushLegal d = none := by
  rw [Ring.pushLegal, ht]
  exact if_neg (by omega)

theorem Chan.pushUsable_iff {c : Chan} {t n : Nat} : c.pushUsable t n = true
    ↔ c.state = .running ∧ c.ring.parked = false ∧ ringAdd c.ring.order c.ring.f n = t := by
  simp [Chan.pushUsable, and_assoc]

/-- A used push accepts its visible run after the doorbell's edge (R84). -/
theorem pushCommit_used {t : Nat} (h : (s.chan p).pushUsable t n = true) : s.pushCommit p t n
    = s.setChan p { (s.ringDoorbell p t).chan p with
        ring := (acceptEntries ((s.ringDoorbell p t).chan p).ring ((List.range n).map (descOfPush (s.chan p).push))).1
        pushUsed := satAdd 16 ((s.ringDoorbell p t).chan p).pushUsed 1 } := by
  rw [State.pushCommit]
  dsimp only
  rw [h]
  exact State.setChan_setChan _ _ _ _

theorem pushCommit_missed {t : Nat} (h : (s.chan p).pushUsable t n = false) : s.pushCommit p t n
    = s.setChan p { (s.ringDoorbell p t).chan p with
        pushMissed := satAdd 16 ((s.ringDoorbell p t).chan p).pushMissed 1 } := by
  rw [State.pushCommit]
  dsimp only
  rw [h]
  exact State.setChan_setChan _ _ _ _

/-- The ring after the visible run of the `n` pushed entries, its first `k`. -/
theorem acceptEntries_push {r : Machine.Ring} {x : Tbl W32} {k : Nat} (hk : k ≤ n) (hn : n < 2 ^ (r.order + 1))
    (hf : r.f < 2 ^ (r.order + 1))
    (hrun : ∀ j, j < k → (((List.range n).map (descOfPush x))[j]?.map Desc.phase)
      = some (expectedPhase r.order (ringAdd r.order r.f j)))
    (hstop : k < n → (((List.range n).map (descOfPush x))[k]?.map Desc.phase)
      ≠ some (expectedPhase r.order (ringAdd r.order r.f k))) :
    (acceptEntries r ((List.range n).map (descOfPush x))).1 = { r with
      f := ringAdd r.order r.f k
      accepted := r.accepted ++ (List.range k).map fun j =>
        { idx := ringAdd r.order r.f j, desc := descOfPush x j } } := by
  have hlen : ((List.range n).map (descOfPush x)).length = n := by simp
  have hentries : ((List.range k).map fun j =>
        ({ idx := ringAdd r.order r.f j, desc := ((List.range n).map (descOfPush x))[j]?.getD {} } : Entry))
      = (List.range k).map fun j => { idx := ringAdd r.order r.f j, desc := descOfPush x j } := by
    refine List.map_congr_left fun j hj => ?_
    have hj' : j < n := lt_of_lt_of_le (List.mem_range.1 hj) hk
    rw [List.getElem?_map, List.getElem?_range hj']
    rfl
  rw [acceptEntries_run _ k r (by omega) hf (by rw [hlen]; exact hk) hrun
    (by rw [hlen]; rcases Nat.lt_or_ge k n with h | h
        · exact .inr (hstop h)
        · exact .inl (by omega)), hentries]

theorem ringCount_lt (k a b : Nat) : ringCount k a b < 2 ^ (k + 1) := Nat.mod_lt _ (by positivity)

/-- Settles O23: the doorbell's edge first, then the copy on the ring that it leaves; the doorbell moves neither F nor
the ring's order. -/
theorem pushesAreUsedOrMissed : Obligations.PushesAreUsedOrMissed := by
  unfold Obligations.PushesAreUsedOrMissed
  intro s f sl p t n d hlive hmay hcount htail
  subst hcount
  refine ⟨fun h1 h4 hc => ?_, fun hbad => ?_⟩
  · have hcommit : exec (.pushCommit f sl d 0b1111) s = .next (s.pushCommit p t (pushCount d)).acked := by
      rw [exec_pushCommit hlive hmay, Ring.pushLegal_some htail h1 h4 hc]
      rfl
    rw [hcommit, ringDoorbell_chan]
    intro c r ds
    have horder : c.ring.order = r.order := Ring.ring_order _ _ _
    have hf : c.ring.f = r.f := Ring.ring_f _ _ _
    refine ⟨fun hrun hpark hat hlt k hk hvis hstop => ?_, fun hmiss => ?_⟩
    · have hn : pushCount d < 2 ^ (c.ring.order + 1) := by
        rw [horder]
        exact lt_of_le_of_lt hc (ringCount_lt _ _ _)
      rw [pushCommit_used (Chan.pushUsable_iff.2 ⟨hrun, hpark, by rw [horder, hf] at hat; exact hat⟩), ringDoorbell_chan]
      have hring := acceptEntries_push hk hn hlt hvis hstop
      exact congrArg (fun r' : Machine.Ring => Host.Outcome.next (s.setChan p { c with
        ring := r', pushUsed := satAdd 16 c.pushUsed 1 }).acked) hring
    · have hunused : (s.chan p).pushUsable t (pushCount d) = false := by
        rw [Bool.eq_false_iff, ne_eq, Chan.pushUsable_iff]
        rintro ⟨hrun, hpark, hat⟩
        rw [horder, hf] at hmiss
        rcases hmiss with h | h | h
        · exact h hrun
        · rw [hpark] at h
          cases h
        · exact h hat
      rw [pushCommit_missed hunused, ringDoorbell_chan]
  · rw [exec_pushCommit hlive hmay, Ring.pushLegal_none htail hbad]
    rfl

end Sys2Proof.Machine
end

section
/-! C_CTL (R159, R161, R162, R164, R314): which actions a channel takes, the first pass of a GO, and that what an abort
cuts leaves every channel's mode. -/

namespace Sys2Proof.Machine

variable {s t u : State} {f sl p n : Nat} {d : W32}

/-! ### What cutting a piece of work leaves of the channels -/

/-- Each channel of `t` has the mode, the registers and the numbered works of the same channel of `s`. -/
def SameCore (s t : State) : Prop := ∀ p, (t.chan p).core = (s.chan p).core

theorem SameCore.refl (s : State) : SameCore s s := fun _ => rfl

theorem SameCore.trans (a : SameCore s t) (b : SameCore t u) : SameCore s u := fun p => (b p).trans (a p)

theorem SameCore.ite {c : Prop} [Decidable c] {a b : State} (ha : SameCore s a) (hb : SameCore s b) :
    SameCore s (if c then a else b) := by split <;> assumption

theorem SameCore.foldl {α : Type} {f : State → α → State} (l : List α) (h : SameCore s t)
    (hf : ∀ u x, SameCore s u → SameCore s (f u x)) : SameCore s (l.foldl f t) := by
  induction l generalizing t with
  | nil => exact h
  | cons a r ih => exact ih (hf t a h)

theorem SameCore.calm (h : SameCore s t) (c : Calm t u) : SameCore s u := h.trans c.core

/-- An update that touches no channel. -/
theorem SameCore.upd (h : SameCore s t) (hc : u.chans = t.chans := by rfl) : SameCore s u :=
  fun p => by rw [State.chan, hc]; exact h p

theorem SameCore.raise (h : SameCore s t) (n : Nat) : SameCore s (t.raise n) := h.calm ((Calm.refl t).raise n)

theorem SameCore.freeLane (h : SameCore s t) (b : Nat) (l : Landing) (n : Nat) : SameCore s (t.freeLane b l n) :=
  h.calm ((Calm.refl t).freeLane b l n)

theorem SameCore.modChan (h : SameCore s t) {g : Chan → Chan} (hg : (g (t.chan p)).core = (t.chan p).core := by rfl) :
    SameCore s (t.modChan p g) := by
  intro q
  rw [State.modChan_chan]
  split
  · subst q; exact hg.trans (h p)
  · exact h q

theorem SameCore.modWork (h : SameCore s t) {g : Work → Work} (hg : ∀ w, (g w).core = w.core := by exact fun _ => rfl) :
    SameCore s (t.modWork p n g) := h.modChan (Chan.core_started _ (updWork_core n g hg _))

/-- A found piece of work replaced by one with its number and verdict. -/
theorem updWork_core_found {l : List Work} {g : Work → Work} {w : Work}
    (hw : l.find? (fun x => x.serial == n) = some w) (hg : (g w).core = w.core) :
    (updWork n g l).map Work.core = l.map Work.core := by
  induction l with
  | nil => rfl
  | cons x r ih =>
    rw [List.find?_cons] at hw
    rw [updWork]
    by_cases hx : x.serial = n
    · rw [beq_iff_eq.2 hx] at hw
      cases hw
      rw [if_pos hx, List.map_cons, List.map_cons, hg]
    · rw [beq_eq_false_iff_ne.2 hx] at hw
      rw [if_neg hx, List.map_cons, List.map_cons, ih hw]

theorem SameCore.modFound (h : SameCore s t) {g : Work → Work} {w : Work} (hw : t.work? p n = some w)
    (hg : (g w).core = w.core) : SameCore s (t.modWork p n g) :=
  h.modChan (Chan.core_started _ (updWork_core_found hw hg))

theorem SameCore.freeTxn (h : SameCore s t) (x : Txn) : SameCore s (t.freeTxn x) := by
  unfold State.freeTxn
  split
  · exact h.freeLane _ _ _
  · exact h.freeLane _ _ _
  · exact h.freeLane _ _ _
  · exact h

theorem SameCore.dropWhere (h : SameCore s t) (m : Txn → Bool) : SameCore s (t.dropWhere m) :=
  (h.foldl _ fun _ x k => k.freeTxn x).upd

theorem SameCore.dropFetch (h : SameCore s t) (p : Nat) : SameCore s (t.dropFetch p) := h.dropWhere _

theorem SameCore.dropTxns (h : SameCore s t) (p n : Nat) : SameCore s (t.dropTxns p n) := h.dropWhere _

theorem SameCore.abandonReqs (h : SameCore s t) (m : XReq → Bool) : SameCore s (t.abandonReqs m) :=
  (h.foldl (f := State.freeReq) (t.xez.reqs.filter m) fun _ q k => k.freeLane _ _ q.space).upd

theorem SameCore.dropReqs (h : SameCore s t) (p n : Nat) : SameCore s (t.dropReqs p n) := h.abandonReqs _

theorem SameCore.leaveQueue (h : SameCore s t) (p : Nat) (w : Work) : SameCore s (t.leaveQueue p w) := ite h.upd h

theorem SameCore.freeMembers (h : SameCore s t) (g : Nat) (l : Option (List Nat)) : SameCore s (t.freeMembers g l) := by
  unfold State.freeMembers
  dsimp only
  exact (ite (c := t.cul.quarantined.contains g = true) h (h.upd (u := t.writeRec g _))).upd

theorem SameCore.dropChain (h : SameCore s t) (w : Work) : SameCore s (t.dropChain w) := by
  unfold State.dropChain
  split
  · split
    · exact h
    · exact h.freeMembers _ _
  · split
    · exact h
    · exact h.freeMembers _ _
  · split
    · exact h
    · exact h.freeMembers _ _
  · exact h

/-- The write CRC takes in bits and leaves everything else of the work. -/
theorem Work.takeCrc_eq (w : Work) (hi : Nat) : ∃ n c g, w.takeCrc hi = { w with crcBits := n, crcReg := c, segWrite := g } := by
  unfold Work.takeCrc
  split
  · exact ⟨_, _, _, rfl⟩
  · split
    · exact ⟨_, _, _, rfl⟩
    · exact ⟨_, _, _, rfl⟩

theorem Work.takeCrc_core (w : Work) (hi k : Nat) : ({ w.takeCrc hi with outWords := k } : Work).core = w.core := by
  obtain ⟨_, _, _, h⟩ := w.takeCrc_eq hi
  rw [h]
  rfl

theorem SameCore.pumpPort (k : Nat) (h : SameCore s t) (q : Nat) : SameCore s (t.pumpPort k q) := by
  induction k generalizing t with
  | zero => exact h
  | succ k ih =>
    unfold State.pumpPort
    dsimp only
    split
    · exact h
    · split
      · exact h
      · next hw =>
        split
        · exact h
        · split
          · exact h
          · exact ih ((h.modFound hw (Work.takeCrc_core _ _ _)).upd)

theorem SameCore.pump (h : SameCore s t) (q : Nat) : SameCore s (t.pump q) := h.pumpPort _ q

theorem SameCore.cutWork (h : SameCore s t) (p : Nat) (w : Work) : SameCore s (t.cutWork p w) := by
  have hdrop := (h.dropTxns p w.serial).leaveQueue p w
  exact ((ite ((hdrop.upd (u := State.killPort _ _ p w)).pump _) hdrop).dropChain w).modWork

theorem SameCore.abandonWork (h : SameCore s t) (p : Nat) (r : Bool) (w : Work) : SameCore s (t.abandonWork p r w) :=
  (ite ((h.cutWork p w).dropReqs p _) (h.cutWork p w)).modWork

theorem SameCore.state (h : SameCore s t) (p : Nat) : (t.chan p).state = (s.chan p).state :=
  congrArg (fun x => x.1.state) (h p)

/-! ### The actions of C_CTL -/

theorem exec_ctl {bit : Nat} {circ : Bool} (h : s.SlotLive f sl p) :
    (Host.Outcome.next (s.apbWrite (slotReg f sl 0) (ctlWord bit circ) 0b1111 0) : Host.Outcome State Fault Refusal)
      = .next (((s.writeCtl f p (ctlWord bit circ)).map s.settle).getD (s.ignFn f (0x10000 + sl * 0x200) 2)).acked :=
  outcome_next (apbWrite_slot h (by omega) rfl rfl)

theorem ctlWord_bits (circ : Bool) : ∀ bit ∈ [0, 2, 3, 4], (ctlWord bit circ).getLsbD 1 = circ
    ∧ (ctlWord bit circ).getLsbD 0 = decide (bit = 0) ∧ (ctlWord bit circ).getLsbD 2 = decide (bit = 2)
    ∧ (ctlWord bit circ).getLsbD 3 = decide (bit = 3) ∧ (ctlWord bit circ).getLsbD 4 = decide (bit = 4) := by
  cases circ <;> decide

section
variable (circ : Bool)

theorem writeCtl_go : s.writeCtl f p (ctlWord 0 circ)
    = if (!(s.chan p).cfg.ringMode && (s.chan p).state == .idle && !(s.fn f).halted) = true then s.goPass p circ
      else none := by
  obtain ⟨hcirc, h0, h2, h3, h4⟩ := ctlWord_bits circ 0 (by decide)
  unfold State.writeCtl
  rw [hcirc, h0, h2, h3, h4]
  rfl

theorem writeCtl_lehr : s.writeCtl f p (ctlWord 2 circ)
    = if ((s.chan p).state == .running && !(s.chan p).halt.pending) = true then
        some ((s.modChan p fun x => { x with direct := { x.direct with circ := circ } }).startLehr p)
      else none := by
  obtain ⟨hcirc, h0, h2, h3, h4⟩ := ctlWord_bits circ 2 (by decide)
  unfold State.writeCtl
  rw [hcirc, h0, h2, h3, h4]
  rfl

theorem writeCtl_abort : s.writeCtl f p (ctlWord 3 circ)
    = if (((s.chan p).state == .running || (s.chan p).state == .stopping) && !(s.chan p).halt.pending) = true then
        some ((s.modChan p fun x => { x with direct := { x.direct with circ := circ } }).startAbort p false)
      else none := by
  obtain ⟨hcirc, h0, h2, h3, h4⟩ := ctlWord_bits circ 3 (by decide)
  unfold State.writeCtl
  rw [hcirc, h0, h2, h3, h4]
  rfl

theorem writeCtl_resume : s.writeCtl f p (ctlWord 4 circ)
    = if ((s.chan p).cfg.ringMode && !(s.fn f).halted && ((s.chan p).state == .stopped
          || ((s.chan p).state == .halted && !(s.chan p).halt.pending && !(s.chan p).halt.haltSeen))) = true then
        some ((s.modChan p fun x => { x with direct := { x.direct with circ := circ } }).resume p)
      else none := by
  obtain ⟨hcirc, h0, h2, h3, h4⟩ := ctlWord_bits circ 4 (by decide)
  unfold State.writeCtl
  rw [hcirc, h0, h2, h3, h4]
  rfl

end

/-! ### Starting a piece of work -/

theorem modChan_modChan (s : State) (p : Nat) (g h : Chan → Chan) :
    (s.modChan p g).modChan p h = s.setChan p (h (g (s.chan p))) := by
  show (s.setChan p _).setChan p (h ((s.modChan p g).chan p)) = _
  rw [State.setChan_setChan, State.modChan_chan, if_pos rfl]

/-- The state with a piece of work started on a channel. -/
def State.withWork (s : State) (p : Nat) (w : Work) : State :=
  { s.modChan p (fun c => { c with started := c.started ++ [w] }) with nextId := s.nextId + 1 }

theorem withWork_work? {w : Work} (hfree : s.work? p w.serial = none) : (s.withWork p w).work? p w.serial = some w := by
  show ((s.modChan p fun c => { c with started := c.started ++ [w] }).chan p).started.find? (fun x => x.serial == w.serial)
    = some w
  rw [State.modChan_chan, if_pos rfl, List.find?_append, show List.find? _ (s.chan p).started = none from hfree,
    List.find?_cons, beq_self_eq_true]
  rfl

theorem startWork_eq (s : State) (p idx : Nat) (desc : Desc) (pass : Bool) (ctx : List CtxFault) :
    s.startWork p idx desc pass ctx
      = let w : Work := { serial := s.nextId, idx := idx, desc := desc, pass := pass }
        let t := (s.withWork p w).ctxFaults ctx
        let u := if t.isStale p w then t.staleEdge p w else t
        if (u.work? p w.serial).any Work.live then u.beginWork p w else u := rfl

/-- A start that meets no stale edge goes on to what its opcode begins. -/
theorem startWork_begins {idx : Nat} {desc : Desc} {pass : Bool} {w : Work}
    (hw : w = { serial := s.nextId, idx := idx, desc := desc, pass := pass }) (hfree : s.work? p s.nextId = none)
    (hstale : (s.withWork p w).isStale p w = false) :
    s.startWork p idx desc pass [] = (s.withWork p w).beginWork p w := by
  subst hw
  rw [startWork_eq]
  dsimp only [State.ctxFaults, List.foldl_nil]
  simp only [hstale, Bool.false_eq_true, if_false]
  exact if_pos (by rw [withWork_work? hfree]; rfl)

/-- A pass has no freshness guard (R157). -/
theorem isStale_pass {w : Work} (h : w.pass = true) : s.isStale p w = false := by
  have hnone : s.staleCause p w = none := if_pos (by rw [h, Bool.or_true])
  rw [State.isStale, hnone, Option.isSome_none, Bool.and_false]

/-! ### The pass of direct mode -/

theorem passDesc_opcode (c : Chan) : c.passDesc.opcode
    = if spaceOf c.direct.src = 1 then 0x11 else if spaceOf c.direct.dst = 1 then 0x10 else 0x01 := by
  show (BitVec.ofNat 64 (_ + c.cfg.ceiling * 2 ^ 16 + c.direct.len.toNat * 2 ^ 32)).toNat / 2 ^ 0 % 2 ^ (7 + 1 - 0) = _
  rw [BitVec.toNat_ofNat]
  split
  · omega
  · split <;> omega

theorem passDesc_op_memory {c : Chan} (h : spaceOf c.direct.src = 0) :
    c.passDesc.op = some .copy ∨ c.passDesc.op = some .streamOut := by
  rw [Desc.op, passDesc_opcode, if_neg (by omega)]
  split
  · exact .inr rfl
  · exact .inl rfl

/-- A pass from memory reads no chain, so nothing more happens at its start. -/
theorem beginWork_passFromMemory {c : Chan} {w : Work} (hw : w.desc = c.passDesc) (h : spaceOf c.direct.src = 0) :
    s.beginWork p w = s := by
  have hchain : c.passDesc.fromChain = false := by
    have hspace : c.passDesc.srcSpace = 0 := h
    rw [Desc.fromChain, hspace]
    exact Bool.and_false _
  unfold State.beginWork
  rw [hw]
  rcases passDesc_op_memory h with hop | hop
  · rw [hop]
    exact if_neg (by rw [hchain]; decide)
  · rw [hop]
    exact if_neg (by rw [hchain]; decide)

theorem takeCredit_free (h : (s.chan p).cfg.paceSrc = 0) : s.takeCredit p = (true, s) := if_pos h

/-- The due pass from memory, with its credit in hand. -/
theorem passBegin_fromMemory (hsrc : spaceOf (s.chan p).direct.src = 0) (hnone : (s.chan p).started = []) :
    s.passBegin p = { s.setChan p { s.chan p with
        direct := { (s.chan p).direct with due := false, first := false }
        started := [{ serial := s.nextId, idx := 0, desc := (s.chan p).passDesc, pass := true }] } with
      nextId := s.nextId + 1 } := by
  have hfree : (s.modChan p fun c => { c with direct := { c.direct with due := false, first := false } }).work? p s.nextId
      = none := by
    rw [State.work?, State.modChan_chan, if_pos rfl, hnone]
    rfl
  rw [State.passBegin, startWork_begins rfl hfree (isStale_pass rfl), beginWork_passFromMemory rfl hsrc, State.withWork,
    modChan_modChan, hnone]
  rfl

/-! ### GO -/

/-- The checks of a GO that has its credit. -/
theorem goPass_ungated {circ : Bool} (h : (s.chan p).cfg.paceSrc = 0) : s.goPass p circ
    = if s.passRefused p = true then none else some (((s.modChan p fun x => { x with
        state := .running, direct := { x.direct with circ := circ, due := true, first := true } }).takeCredit p).2.passBegin
          p) := by
  unfold State.goPass
  dsimp only
  rw [decide_eq_true h, Bool.true_or, Bool.true_or, if_pos rfl]

theorem goPass_fromMemory {circ : Bool} (hpace : (s.chan p).cfg.paceSrc = 0) (hok : s.passRefused p = false)
    (hsrc : spaceOf (s.chan p).direct.src = 0) (hnone : (s.chan p).started = []) :
    s.goPass p circ = some { s.setChan p { s.chan p with
        state := .running
        direct := { (s.chan p).direct with circ := circ, due := false, first := false }
        started := [{ serial := s.nextId, idx := 0, desc := (s.chan p).passDesc, pass := true }] } with
      nextId := s.nextId + 1 } := by
  have hchan : ∀ g : Chan → Chan, (s.modChan p g).chan p = g (s.chan p) := fun g => by rw [State.modChan_chan, if_pos rfl]
  rw [goPass_ungated hpace, if_neg (by rw [hok]; decide), takeCredit_free (by rw [hchan]; exact hpace),
    passBegin_fromMemory (by rw [hchan]; exact hsrc) (by rw [hchan]; exact hnone), hchan]
  refine congrArg (fun t : State => some { t with nextId := s.nextId + 1 }) ?_
  exact State.setChan_setChan _ _ _ _

theorem goPass_waits {circ : Bool} (hpace : (s.chan p).cfg.paceSrc = 1) (hcredit : (s.chan p).credit = 0) :
    s.goPass p circ = some (s.modChan p fun x => { x with
      state := .running, direct := { x.direct with circ := circ, due := true, first := true } }) := by
  unfold State.goPass State.takeCredit
  simp [hpace, hcredit]

/-! ### ABORT -/

/-- A due index write takes over the channel's report queue and nothing else of the channel. -/
theorem kickIndex_chan (s : State) (p : Nat) : ∃ y, (s.kickIndex p).chan p = { s.chan p with cpl := y } := by
  unfold State.kickIndex
  dsimp only
  split
  · exact ⟨_, by rw [State.chan, State.post]; exact look_put_same _ _ _ _⟩
  · exact ⟨_, rfl⟩

theorem flushIndex_chan (s : State) (p : Nat) (r : Report) : ∃ y, (s.flushIndex p r).chan p = { s.chan p with cpl := y } := by
  unfold State.flushIndex
  split
  · obtain ⟨y, hy⟩ := kickIndex_chan (s.modChan p fun c => { c with cpl := { c.cpl with
      due := true, queue := c.cpl.queue ++ [r] } }) p
    exact ⟨y, by rw [hy, State.modChan_chan, if_pos rfl]⟩
  · exact ⟨_, rfl⟩

theorem abortEnd_of_core {c d : Chan} (h : d.core = c.core) : d.abortEnd = c.abortEnd := by
  have hhalt := congrArg (fun x => x.1.halt) h
  have hcfg := congrArg (fun x => x.1.cfg) h
  simp only [Chan.core] at hhalt hcfg
  rw [Chan.abortEnd, Chan.abortEnd, hhalt, hcfg]

/-- An abort of a channel without started work ends at once. -/
theorem finishAbort_state (h : (s.chan p).started = []) : ((s.finishAbort p).chan p).state = (s.chan p).abortEnd := by
  unfold State.finishAbort
  dsimp only
  rw [h, List.head?_nil]
  dsimp only
  rw [((SameCore.refl _).raise _).state]
  obtain ⟨y, hy⟩ := flushIndex_chan ((s.dropEntries p).modChan p fun x =>
      if (s.chan p).halt.byFunction = true then _ else _) p (stopReport (s.chan p).ring.h .aborted 0 0)
  rw [hy, State.modChan_chan, if_pos rfl]
  split <;> rfl

/-- The channel of an abort, as the abort's first edge leaves it. -/
def Chan.aborting (c : Chan) (byFn : Bool) : Chan :=
  { c with
    state := .aborting
    wantsSignal := none
    gobWait := none
    direct := { c.direct with due := false }
    halt := { c.halt with byFunction := c.halt.byFunction || byFn } }

theorem startAbort_eq (s : State) (p : Nat) (byFn : Bool) : s.startAbort p byFn
    = let t := (s.modChan p fun c => c.aborting byFn).dropFetch p
      match (s.chan p).started with
      | [] => t.finishAbort p
      | w :: later => ((later.foldl (fun t x => t.abandonWork p false x) t).cutWork p w).modWork p w.serial fun x =>
          { x with armed := false } := rfl

theorem startAbort_state_idle {byFn : Bool} (h : (s.chan p).started = []) :
    ((s.startAbort p byFn).chan p).state = ((s.chan p).aborting byFn).abortEnd := by
  have hcore := ((SameCore.refl (s.modChan p fun c => c.aborting byFn)).dropFetch p) p
  rw [State.modChan_chan, if_pos rfl] at hcore
  have hnone : (((s.modChan p fun c => c.aborting byFn).dropFetch p).chan p).started = [] := by
    have hworks : ((((s.modChan p fun c => c.aborting byFn).dropFetch p).chan p).started).map Work.core
        = (s.chan p).started.map Work.core := congrArg Prod.snd hcore
    rw [h] at hworks
    exact List.map_eq_nil_iff.1 hworks
  rw [startAbort_eq, h]
  exact (finishAbort_state hnone).trans (abortEnd_of_core hcore)

theorem startAbort_state_working {byFn : Bool} (h : (s.chan p).started ≠ []) :
    ((s.startAbort p byFn).chan p).state = .aborting := by
  obtain ⟨w, later, hstarted⟩ := List.exists_cons_of_ne_nil h
  rw [startAbort_eq, hstarted]
  have hsame := ((((SameCore.refl (s.modChan p fun c => c.aborting byFn)).dropFetch p).foldl later
    fun _ x k => k.abandonWork p false x).cutWork p w).modWork (p := p) (n := w.serial)
      (g := fun x => { x with armed := false })
  rw [hsame.state, State.modChan_chan, if_pos rfl]
  rfl

/-! ### The statement -/

theorem settle_acked_state (s u : State) (p : Nat) : (((s.settle u).acked).chan p).state = (u.chan p).state :=
  congrArg (fun x => x.1.state) (((Calm.refl u).settle s).core p)

theorem b2n_eq_toNat (b : Bool) : b2n b = b.toNat := by cases b <;> rfl

theorem startLehr_eq (s : State) (p : Nat) : s.startLehr p
    = let u := s.modChan p fun c => { c with state := .stopping, wantsSignal := none, direct := { c.direct with due := false } }
      if (u.chan p).lehrReady = true then u.lehrEnd p else u := rfl

/-- Settles O25: each action by its row of R161, an abort by what it leaves when nothing is started and when something
is. -/
theorem controlActsOnlyWhereLegal : Obligations.ControlActsOnlyWhereLegal := by
  unfold Obligations.ControlActsOnlyWhereLegal
  intro s f sl p circ h c off after
  have hgo := exec_ctl (bit := 0) (circ := circ) h
  have hlehr := exec_ctl (bit := 2) (circ := circ) h
  have habort := exec_ctl (bit := 3) (circ := circ) h
  have hresume := exec_ctl (bit := 4) (circ := circ) h
  rw [writeCtl_go] at hgo
  rw [writeCtl_lehr] at hlehr
  rw [writeCtl_abort] at habort
  rw [writeCtl_resume] at hresume
  refine ⟨fun hring hidle hhalt hnone hpace hok hsrc => ?_, fun hring hidle hhalt hnone hpace hcredit => ?_, fun hbad => ?_,
    fun hrun hpend => ⟨_, rfl, ?_⟩, fun hbad => ?_, fun hrun hpend => ⟨_, ?_, rfl, fun hwork => ?_, fun hnone => ?_⟩,
    fun hbad => ?_, fun hring hhalt hstate => ?_, fun hbad => ?_, fun d => ?_⟩
  · refine hgo.trans ?_
    rw [if_pos (by simp [c, hring, hidle, hhalt]), goPass_fromMemory hpace hok hsrc hnone]
    rfl
  · refine hgo.trans ?_
    rw [if_pos (by simp [c, hring, hidle, hhalt]), goPass_waits hpace hcredit]
    rfl
  · refine hgo.trans ?_
    by_cases hmay : (!c.cfg.ringMode && c.state == .idle && !(s.fn f).halted) = true
    · simp only [Bool.and_eq_true, Bool.not_eq_true', beq_iff_eq, and_assoc] at hmay
      obtain ⟨hring, hidle, hhalt⟩ := hmay
      rcases hbad with hbad | hbad | hbad | ⟨hpace, hrefused⟩
      · simp [hring] at hbad
      · exact absurd hidle hbad
      · simp [hhalt] at hbad
      · rw [goPass_ungated hpace, if_pos hrefused, ite_self]
        rfl
    · rw [if_neg hmay]
      rfl
  · refine hlehr.trans ?_
    rw [if_pos (by simp [c, hrun, hpend]), startLehr_eq, modChan_modChan]
    rfl
  · refine hlehr.trans ?_
    rw [if_neg (by rcases hbad with hbad | hbad <;> simp [c, hbad])]
    rfl
  · refine habort.trans ?_
    rw [if_pos (by rcases hrun with hrun | hrun <;> simp [c, hrun, hpend])]
    rfl
  · show (((s.settle _).acked).chan p).state = _
    rw [settle_acked_state, startAbort_state_working (by rw [State.modChan_chan, if_pos rfl]; exact hwork)]
  · show (((s.settle _).acked).chan p).state = _
    rw [settle_acked_state, startAbort_state_idle (by rw [State.modChan_chan, if_pos rfl]; exact hnone),
      State.modChan_chan, if_pos rfl]
    show (if (c.halt.byFunction || false) = true then _ else _) = _
    rw [Bool.or_false]
    rfl
  · refine habort.trans ?_
    rw [if_neg (by rcases hbad with ⟨h1, h2⟩ | hbad <;> simp [c, *])]
    rfl
  · refine hresume.trans ?_
    rw [if_pos (by rcases hstate with hs | ⟨h1, h2, h3⟩ <;> simp [c, *]), State.resume, modChan_modChan]
    rfl
  · refine hresume.trans ?_
    rw [if_neg (by rcases hbad with hb | hb | ⟨h1, h2⟩ | ⟨h1, h2 | h2⟩ <;> simp [c, *])]
    rfl
  · intro acts
    have hwrite : exec (.registerWrite (slotReg f sl 0) d 0b1111 0) s
        = .next (((s.writeCtl f p d).map s.settle).getD (s.ignFn f off 2)).acked :=
      exec_write_slot h (by decide) rfl rfl
    rw [hwrite]
    unfold State.writeCtl
    dsimp only
    rw [b2n_eq_toNat, b2n_eq_toNat, b2n_eq_toNat, b2n_eq_toNat]
    refine ⟨fun hmany => ?_, fun hzero => ?_⟩
    · rw [if_pos hmany]
      rfl
    · rw [if_neg (by omega), if_pos hzero]
      rfl

end Sys2Proof.Machine
end

section
/-! DRAINED (R309): what the edge of a command settles leaves a function's halt and its channels' transactions alone, so
that the condition is judged on the state before the edge. -/

namespace Sys2Proof.Machine

variable {s t u : State} {f sl p n : Nat} {d : W32}

/-! ### What settling leaves of functions and transactions -/

/-- The functions, but for events and signals, and the number of transactions of each channel are the same. -/
structure Steady (s t : State) : Prop where
  fn : ∀ q, (t.fn q).core = (s.fn q).core
  load : ∀ p, t.chanLoad p = s.chanLoad p

theorem Steady.halted (h : Steady s t) (q : Nat) : (t.fn q).halted = (s.fn q).halted := by
  have hcore := congrArg Fn.halted (h.fn q)
  exact hcore

theorem Steady.drained (h : Steady s t) (q : Nat) : (t.fn q).drained = (s.fn q).drained := by
  have hcore := congrArg Fn.drained (h.fn q)
  exact hcore

theorem Steady.refl (s : State) : Steady s s := ⟨fun _ => rfl, fun _ => rfl⟩

theorem Steady.ite {c : Prop} [Decidable c] {a b : State} (ha : Steady s a) (hb : Steady s b) :
    Steady s (if c then a else b) := by split <;> assumption

theorem Steady.foldl {α : Type} {f : State → α → State} (l : List α) (h : Steady s t)
    (hf : ∀ u x, Steady s u → Steady s (f u x)) : Steady s (l.foldl f t) := by
  induction l generalizing t with
  | nil => exact h
  | cons a r ih => exact ih (hf t a h)

/-- An update of other parts of the state. -/
theorem Steady.upd (h : Steady s t) (hf : u.fns = t.fns := by rfl) (hl : u.txns = t.txns := by rfl) : Steady s u :=
  ⟨fun q => by rw [State.fn, hf]; exact h.fn q, fun p => by rw [State.chanLoad, hl]; exact h.load p⟩

/-- A transaction of no channel. -/
theorem Steady.post (h : Steady s t) {x : Txn} (hx : x.purpose.pch? = none := by rfl) : Steady s (t.post x) := by
  refine ⟨h.fn, fun p => ?_⟩
  rw [← h.load p]
  show ((t.txns ++ [{ x with id := t.nextId }]).filter fun (y : Txn) => y.purpose.pch? == some p).length = _
  rw [List.filter_append, List.filter_cons, hx]
  exact congrArg List.length (List.append_nil _)

theorem setPending_txns (s : State) (n : Nat) : (s.setPending n).txns = s.txns := by
  unfold State.setPending
  split
  · rfl
  · split
    · rfl
    · split <;> rfl

theorem Steady.setPending (h : Steady s t) (n : Nat) : Steady s (t.setPending n) :=
  ⟨fun q => (setPending_fn_core n q).trans (h.fn q), fun p => by rw [State.chanLoad, setPending_txns]; exact h.load p⟩

theorem raiseSignal_txns (s : State) (f k : Nat) : (s.raiseSignal f k).txns = s.txns := by
  unfold State.raiseSignal
  split
  · rfl
  · split <;> rfl

theorem Steady.raiseSignal (h : Steady s t) (f k : Nat) : Steady s (t.raiseSignal f k) :=
  ⟨fun q => (raiseSignal_fn_core f k q).trans (h.fn q), fun p => by rw [State.chanLoad, raiseSignal_txns]; exact h.load p⟩

theorem Steady.decideVec (h : Steady s t) (v : Nat) (force : Bool) : Steady s (t.decideVec v force) :=
  ite ((h.upd (u := t.setVec v _)).post) h

theorem Steady.raiseVec (h : Steady s t) (v : Nat) : Steady s (t.raiseVec v) :=
  (h.upd (u := t.setVec v _)).decideVec v false

theorem Steady.raise (h : Steady s t) (n : Nat) : Steady s (t.raise n) := by
  unfold State.raise
  cases t.route n with
  | none => exact h.setPending n
  | int _ => exact h.setPending n
  | vector v => exact (h.setPending n).raiseVec v
  | trigOut k => exact (h.setPending n).upd
  | signal g k => exact (h.setPending n).raiseSignal g k

theorem Steady.freeLane (h : Steady s t) (b : Nat) (l : Landing) (n : Nat) : Steady s (t.freeLane b l n) := by
  unfold State.freeLane
  split
  · exact h.upd
  · exact h.upd
  · exact h.upd
  · exact h

theorem Steady.trimWork (h : Steady s t) (p : Nat) (w : Work) : Steady s (t.trimWork p w) := by
  unfold State.trimWork
  split
  · exact ite h (ite h.upd h.upd)
  · exact (h.foldl _ fun _ _ k => k.freeLane _ _ _).upd

theorem Steady.trim (h : Steady s t) : Steady s t.trim :=
  h.foldl _ fun _ _ k => k.foldl _ fun _ _ k => k.trimWork _ _

theorem Steady.workRecs (h : Steady s t) (p : Nat) (w : Work) : Steady s (t.workRecs p w) := by
  unfold State.workRecs
  refine ite h (ite (ite h (h.post (x := deviceRead t _ _ _ _ _ _))) ?_)
  split
  · exact h
  · exact ite (h.post (x := deviceRead t _ _ _ _ _ _)) h

theorem Steady.freeRecs (h : Steady s t) (e : Freeing) : Steady s (t.freeRecs e) := by
  unfold State.freeRecs
  split
  · exact h
  · exact ite h (h.post (x := deviceRead t _ _ _ _ _ _))

theorem Steady.sweepRecs (k : Nat) (h : Steady s t) : Steady s (t.sweepRecs k) := by
  induction k generalizing t with
  | zero => exact h
  | succ k ih =>
    unfold State.sweepRecs
    exact ite (ih ((h.upd (u := { t with cul := { t.cul with sweepNext := t.cul.sweepNext + 64 } })).post)) h

theorem Steady.culletReads (h : Steady s t) : Steady s t.culletReads :=
  ((h.foldl _ fun _ _ k => k.foldl _ fun _ _ k => k.workRecs _ _).foldl _ fun _ _ k => k.freeRecs _).sweepRecs 64

theorem Steady.compareWm (h : Steady s t) (p : Nat) : Steady s (t.compareWm p) :=
  ite h (ite ((h.upd (u := t.setPort p _)).raise _) (ite ((h.upd (u := t.setPort p _)).raise _) h))

theorem Steady.quotaLow (h : Steady s t) (s0 : State) : Steady s (quotaLow s0 t) :=
  h.foldl _ fun _ _ k => ite (k.raise _) k

/-! ### The edge before DRAINED is marked -/

/-- Everything that `State.settle` does at an edge of cclk before it marks DRAINED. -/
def State.settleRest (s0 s : State) : State :=
  let t := s0.clearFull s.trim.culletReads.endPins
  quotaLow s0 (((t.ports.map Prod.fst).foldl State.compareWm t).startWatches.endTurns)

theorem settle_of_up (s0 : State) (h : cclkUp s = true) : s0.settle s = (s0.settleRest s).markDrained := if_pos h

theorem settleRest_calm (s0 s : State) : Calm s (s0.settleRest s) := by
  have h := ((Calm.refl s).trim.culletReads.endPins.clearFull s0).foldl
    ((s0.clearFull s.trim.culletReads.endPins).ports.map Prod.fst) fun u p k => k.compareWm p
  exact h.startWatches.endTurns.quotaLow s0

theorem settleRest_kept (s0 s : State) : Kept s (s0.settleRest s) := by
  have h := ((Kept.refl s).trim.culletReads.endPins.clearFull s0).foldl
    ((s0.clearFull s.trim.culletReads.endPins).ports.map Prod.fst) fun u p k => k.compareWm p
  exact h.startWatches.endTurns.quotaLow

theorem settleRest_steady (s0 s : State) : Steady s (s0.settleRest s) := by
  have h := ((Steady.refl s).trim.culletReads.upd (u := s0.clearFull s.trim.culletReads.endPins)).foldl
    ((s0.clearFull s.trim.culletReads.endPins).ports.map Prod.fst) fun u p k => k.compareWm p
  exact ((h.upd (u := State.startWatches _)).upd (u := State.endTurns _)).quotaLow s0

/-! ### The condition of DRAINED, channel by channel -/

/-- A present key reads as its own value. -/
theorem look_of_mem {α : Type} (dflt : α) {l : Tbl α} (hw : Tbl.wf l = true) {e : Nat × α} (he : e ∈ l) :
    look dflt l e.1 = e.2 := by
  induction l with
  | nil => cases he
  | cons a r ih =>
    rw [look_cons]
    rcases List.mem_cons.1 he with rfl | hr
    · exact if_pos rfl
    · rw [if_neg (Nat.ne_of_gt (wf_lt a r hw e hr)), ih ((wf_cons _ _).1 hw).2 hr]

/-- A key reads as the default value or as an entry's. -/
theorem look_mem_or {α : Type} (dflt : α) (l : Tbl α) (n : Nat) : look dflt l n = dflt ∨ (n, look dflt l n) ∈ l := by
  induction l with
  | nil => exact .inl rfl
  | cons a r ih =>
    rw [look_cons]
    split
    · next h =>
      subst h
      exact .inr List.mem_cons_self
    · exact ih.imp id (List.mem_cons_of_mem _)

/-- A property of every channel, by the entries of the table. -/
theorem all_chans_iff (hw : s.TablesWf) {P : Nat → Chan → Bool} (hd : ∀ q, P q {} = true) :
    (s.chans.all fun e => P e.1 e.2) = true ↔ ∀ q, P q (s.chan q) = true := by
  rw [List.all_eq_true]
  constructor
  · intro h q
    rcases look_mem_or ({} : Chan) s.chans q with hq | hq
    · rw [State.chan, hq]
      exact hd q
    · exact h _ hq
  · intro h e he
    rw [← look_of_mem {} hw.chans.1 he]
    exact h e.1

/-- A channel of function `f` that stands still, or a channel of another function. -/
def State.chanDrained (s : State) (f q : Nat) (c : Chan) : Bool :=
  !(c.owner.map Prod.fst == some f) || ((c.state == .halted || c.state == .idle || c.state == .stopped)
    && s.chanLoad q == 0 && !c.cpl.outstanding)

theorem fnDrained_iff (hw : s.TablesWf) (f : Nat) : s.fnDrained f = true
    ↔ (s.fn f).halted = true ∧ ∀ q, s.chanDrained f q (s.chan q) = true := by
  rw [← all_chans_iff hw (P := s.chanDrained f) fun _ => rfl, ← Bool.and_eq_true]
  rfl

theorem chanDrained_of_calm (h : Calm s t) (hl : Steady s t) (f q : Nat) :
    t.chanDrained f q (t.chan q) = s.chanDrained f q (s.chan q) := by
  have howner := congrArg (fun x => x.1.owner) (h.core q)
  have hstate := congrArg (fun x => x.1.state) (h.core q)
  have hcpl := congrArg (fun x => x.1.cpl) (h.core q)
  simp only [Chan.core] at howner hstate hcpl
  rw [State.chanDrained, State.chanDrained, howner, hstate, hcpl, hl.load]

theorem fnDrained_settleRest (s0 : State) (hw : s.TablesWf) (f : Nat) : (s0.settleRest s).fnDrained f = s.fnDrained f := by
  rw [Bool.eq_iff_iff, fnDrained_iff hw, fnDrained_iff ((settleRest_kept s0 s).tablesWf hw),
    (settleRest_steady s0 s).halted]
  simp only [chanDrained_of_calm (settleRest_calm s0 s) (settleRest_steady s0 s)]

/-- A read through a change of values: the changed value, or no entry. -/
theorem look_map_or {α : Type} (dflt : α) (l : Tbl α) (g : Nat → α → α) (n : Nat) :
    look dflt (l.map fun e => (e.1, g e.1 e.2)) n = g n (look dflt l n)
      ∨ (look dflt (l.map fun e => (e.1, g e.1 e.2)) n = dflt ∧ look dflt l n = dflt) := by
  induction l with
  | nil => exact .inr ⟨rfl, rfl⟩
  | cons a r ih =>
    rw [List.map_cons, look_cons, look_cons]
    split
    · next h =>
      subst h
      exact .inl rfl
    · exact ih

/-- A function that is not in the table is not halted, so it is never DRAINED. -/
theorem markDrained_drained (t : State) (q : Nat) :
    (t.markDrained.fn q).drained = ((t.fn q).drained || t.fnDrained q) := by
  rcases look_map_or ({} : Fn) t.fns (fun k x => { x with drained := x.drained || t.fnDrained k }) q with h | ⟨h, habsent⟩
  · exact congrArg Fn.drained h
  · have hno : t.fnDrained q = false := by
      have hhalt : (t.fn q).halted = false := congrArg Fn.halted habsent
      rw [State.fnDrained, hhalt, Bool.false_and]
    rw [hno, Bool.or_false]
    exact congrArg Fn.drained (h.trans habsent.symm)

/-- DRAINED sets at the edge at which its condition holds, and stays (R309). -/
theorem settle_drained (s0 : State) (hup : cclkUp s = true) (hw : s.TablesWf) (f : Nat) :
    ((s0.settle s).fn f).drained = ((s.fn f).drained || s.fnDrained f) := by
  rw [settle_of_up s0 hup, markDrained_drained, fnDrained_settleRest s0 hw, (settleRest_steady s0 s).drained]

end Sys2Proof.Machine
end

section
/-! The registers of a function's window (R12, R152, R172, R211, R212, R309, R310): signals, flush requests, RESTART, the
masks of message vectors, and the W1C fields. -/

namespace Sys2Proof.Machine

variable {s t : State} {f n : Nat} {d : W32}

/-! ### Writes below the views of ports, and of a view -/

theorem exec_write_fn (h : s.FnLive f) {o : Nat} (ho : o < 0x800) (h4 : o % 4 = 0) (hk : fRegKind s.member o = .writable) :
    exec (.registerWrite (fnReg f o) d 0b1111 0) s = .next ((s.writeF f o d).getD (s.ignFn f o 2)).acked :=
  outcome_next (apbWrite_fn h ho h4 hk)

/-- The sticky bits of a port, written through its holder's view. -/
theorem exec_write_portView (h : s.FnLive f) {q : Nat} (hq : q < 64) (hpresent : s.member.portPresent q = true)
    (hheld : (s.port q).holder = some f) : exec (.registerWrite (fnReg f (0x800 + q * 0x20 + 0x04)) d 0b1111 0) s
      = .next (s.modPort q fun x => x.clearStat d).acked := by
  obtain ⟨hp, hf, hm, hr, hz⟩ := h
  have hidx : (0x800 + q * 0x20 + 0x04 - 0x800) / 0x20 = q := by omega
  have hoff : (0x800 + q * 0x20 + 0x04) % 0x20 = 0x04 := by omega
  have hkind : fnKind s.member (0x800 + q * 0x20 + 0x04) = .writable := by
    rw [fnKind, if_neg (by omega), if_pos (by omega), hidx, hoff, hpresent]
    rfl
  have hshut : s.windowShut f (0x800 + q * 0x20 + 0x04) = false := by
    unfold State.windowShut State.fnOpen
    rw [hr, hz, hidx, hheld, decide_eq_false (by omega : ¬ 0x10000 ≤ 0x800 + q * 0x20 + 0x04)]
    simp
  rw [exec_registerWrite, apbWrite_window hp (fnReg_addr hf (by omega) (by omega)) hf (by omega) (by omega) hm
    (by rw [hkind]; decide)]
  unfold State.writeFn
  rw [hshut, hkind, if_neg (by decide), if_neg (by decide), if_neg (by omega), if_pos (by omega), hidx]
  rfl

/-! ### Signals -/

theorem field32_setWidth (k : BitVec 8) : field32 (k.setWidth 32) 7 0 = k.toNat := by
  have hk := k.isLt
  simp only [field32, BitVec.toNat_setWidth]
  omega

theorem exec_sigRaise (h : s.FnLive f) (k : BitVec 8) :
    exec (.sigRaise f k 0b1111) s = .next (s.raiseSignal f k.toNat).acked := by
  have hwrite : exec (.sigRaise f k 0b1111) s = .next (s.raiseSignal f (field32 (k.setWidth 32) 7 0)).acked :=
    outcome_next (apbWrite_fn h (o := 0x130) (by decide) rfl rfl)
  rw [hwrite, field32_setWidth]

theorem raiseSignal_counts {k : Nat} (hw : s.firstWait f k = none) (hc : s.sigCount f k < 65535) :
    s.raiseSignal f k = s.modFn f fun x => { x with sigCnt := put x.sigCnt k (s.sigCount f k + 1) } := by
  rw [State.raiseSignal, hw]
  exact if_pos hc

theorem raiseSignal_overflows {k : Nat} (hw : s.firstWait f k = none) (hc : 65535 ≤ s.sigCount f k) :
    s.raiseSignal f k = s.modFn f fun x => { x with sigOvf := satAdd 16 x.sigOvf 1 } := by
  rw [State.raiseSignal, hw]
  exact if_neg (by omega)

theorem raiseSignal_gives {k o : Nat} (hw : s.firstWait f k = some o) :
    s.raiseSignal f k = { s with chans := s.chans.map fun e => (e.1, e.2.giveSignal o) } := by
  rw [State.raiseSignal, hw]

/-! ### Flush requests -/

theorem flushWord (q : BitVec 6) : field32 (q.setWidth 32 ||| 0x100) 5 0 = q.toNat
    ∧ (q.setWidth 32 ||| 0x100).getLsbD 8 = true := by
  revert q
  decide

theorem exec_spFlush (h : s.FnLive f) (q : BitVec 6) : exec (.spFlush f q 0b1111) s
    = .next ((if (s.port q.toNat).holder ≠ some f ∨ ((s.port q.toNat).dirOut ∧ s.portNamed q.toNat) then none
        else some (s.modPort q.toNat fun x => { x with flushWait := true, flushFor := s.takingPort q.toNat })).getD
          (s.ignFn f 0x170 2)).acked := by
  obtain ⟨hport, hflush⟩ := flushWord q
  have hwrite : exec (.spFlush f q 0b1111) s
      = .next ((s.flushPort f (q.setWidth 32 ||| 0x100)).getD (s.ignFn f 0x170 2)).acked :=
    outcome_next (apbWrite_fn h (o := 0x170) (by decide) rfl rfl)
  rw [hwrite]
  unfold State.flushPort
  rw [hport, hflush]
  rfl

/-! ### RESTART -/

theorem exec_restart (h : s.FnLive f) : exec (.restart f 0b1111) s
    = .next ((if ((s.fn f).halted && (s.fn f).drained && !(s.fn f).haltSeen) = true then
          some (s.modFn f fun y => { y with halted := false, drained := false }) else none).getD (s.ignFn f 0x034 2)).acked :=
  outcome_next (apbWrite_fn h (o := 0x034) (d := 1) (by decide) rfl rfl)

/-! ### The mask of message vectors -/

theorem testBit_sum_pow (g : Nat → Bool) (n k : Nat) :
    (((List.range n).map fun j => b2n (g j) * 2 ^ j).sum).testBit k = (decide (k < n) && g k)
      ∧ ((List.range n).map fun j => b2n (g j) * 2 ^ j).sum < 2 ^ n := by
  induction n generalizing k with
  | zero => simp
  | succ n ih =>
    obtain ⟨_, hlt⟩ := ih 0
    have hle : b2n (g n) ≤ 1 := by unfold b2n; split <;> omega
    rw [List.range_succ, List.map_append, List.sum_append, List.map_singleton, List.sum_singleton, Nat.add_comm,
      Nat.mul_comm]
    refine ⟨?_, ?_⟩
    · rw [Nat.testBit_two_pow_mul_add _ hlt, (ih k).1]
      by_cases hk : k < n
      · rw [if_pos hk, decide_eq_true hk, decide_eq_true (by omega)]
      · rw [if_neg hk]
        by_cases hkn : k = n
        · subst hkn
          rw [Nat.sub_self, decide_eq_true (by omega)]
          cases hg : g k <;> rfl
        · have hge : 1 ≤ k - n := by omega
          rw [decide_eq_false (by omega), Bool.false_and]
          exact Nat.testBit_lt_two_pow (lt_of_le_of_lt hle (Nat.one_lt_two_pow (by omega)))
    · calc 2 ^ n * b2n (g n) + _ < 2 ^ n * 1 + 2 ^ n := by
            have := Nat.mul_le_mul_left (2 ^ n) hle
            omega
        _ = 2 ^ (n + 1) := by ring

/-- The mask bits that read 1: those of vectors that the administrator holds. -/
theorem adminVecs_bit (f : Nat) {j : Nat} (hj : j < 128) :
    (BitVec.ofNat 128 (s.adminVecs f)).getLsbD j = (s.vec (128 * f + j)).admin := by
  rw [BitVec.getLsbD_ofNat, decide_eq_true hj, Bool.true_and, State.adminVecs,
    (testBit_sum_pow (fun j => (s.vec (128 * f + j)).admin) 128 j).1, decide_eq_true hj, Bool.true_and]

/-- One word of a 128-bit register replaced. -/
theorem setWord_bit (old : BitVec 128) (i : Nat) {j : Nat} (hj : j < 128) :
    (BitVec.ofNat 128 ((old &&& ~~~ (BitVec.ofNat 128 0xFFFFFFFF <<< (32 * i))).toNat + d.toNat * 2 ^ (32 * i))).getLsbD j
      = if 32 * i ≤ j ∧ j < 32 * i + 32 then d.getLsbD (j - 32 * i) else old.getLsbD j := by
  have hones : ∀ k, (BitVec.ofNat 128 0xFFFFFFFF).getLsbD k = decide (k < 32) := by
    intro k
    rw [BitVec.getLsbD_ofNat, show 0xFFFFFFFF = 2 ^ 32 - 1 from rfl, Nat.testBit_two_pow_sub_one, ← Bool.decide_and]
    exact decide_eq_decide.2 (by omega)
  have hword : ∀ k, k < 128 → (BitVec.ofNat 128 (d.toNat * 2 ^ (32 * i))).getLsbD k
      = (decide (32 * i ≤ k) && d.getLsbD (k - 32 * i)) := by
    intro k hk
    rw [BitVec.getLsbD_ofNat, decide_eq_true hk, Bool.true_and, Nat.testBit_mul_two_pow, BitVec.testBit_toNat]
  have hkeep : ∀ k, k < 128 → (old &&& ~~~ (BitVec.ofNat 128 0xFFFFFFFF <<< (32 * i))).getLsbD k
      = (old.getLsbD k && !(decide (32 * i ≤ k) && decide (k < 32 * i + 32))) := by
    intro k hk
    rw [BitVec.getLsbD_and, BitVec.getLsbD_not, BitVec.getLsbD_shiftLeft, decide_eq_true hk, hones, Bool.true_and,
      Bool.true_and]
    by_cases h1 : k < 32 * i
    · simp [h1, Nat.not_le.2 h1]
    · have h2 : decide (k - 32 * i < 32) = decide (k < 32 * i + 32) := decide_eq_decide.2 (by omega)
      simp [h1, Nat.not_lt.1 h1, h2]
  have hdisjoint : (old &&& ~~~ (BitVec.ofNat 128 0xFFFFFFFF <<< (32 * i))) &&& BitVec.ofNat 128 (d.toNat * 2 ^ (32 * i))
      = 0#128 := by
    apply BitVec.eq_of_getLsbD_eq
    intro k hk
    rw [BitVec.getLsbD_and, hkeep k hk, hword k hk, BitVec.getLsbD_zero]
    by_cases h1 : 32 * i ≤ k ∧ k < 32 * i + 32
    · rw [decide_eq_true h1.1, decide_eq_true h1.2]
      simp
    · by_cases h2 : 32 * i ≤ k
      · have h3 : d.getLsbD (k - 32 * i) = false := BitVec.getLsbD_of_ge _ _ (by omega)
        rw [h3, Bool.and_false, Bool.and_false]
      · rw [decide_eq_false h2]
        simp
  have hor : BitVec.ofNat 128 ((old &&& ~~~ (BitVec.ofNat 128 0xFFFFFFFF <<< (32 * i))).toNat + d.toNat * 2 ^ (32 * i))
      = (old &&& ~~~ (BitVec.ofNat 128 0xFFFFFFFF <<< (32 * i))) ||| BitVec.ofNat 128 (d.toNat * 2 ^ (32 * i)) := by
    rw [← BitVec.add_eq_or_of_and_eq_zero _ _ hdisjoint, BitVec.ofNat_add, BitVec.ofNat_toNat, BitVec.setWidth_eq]
  rw [hor, BitVec.getLsbD_or, hkeep j hj, hword j hj]
  by_cases h1 : 32 * i ≤ j ∧ j < 32 * i + 32
  · rw [if_pos h1, decide_eq_true h1.1, decide_eq_true h1.2]
    simp
  · rw [if_neg h1, ← Bool.decide_and, decide_eq_false h1, Bool.not_false, Bool.and_true]
    by_cases h2 : 32 * i ≤ j
    · have h3 : d.getLsbD (j - 32 * i) = false := BitVec.getLsbD_of_ge _ _ (by omega)
      rw [h3, Bool.and_false, Bool.or_false]
    · rw [decide_eq_false h2, Bool.false_and, Bool.or_false]

/-- The mask register after a write of one of its words. -/
def State.newMask (s : State) (f i : Nat) (d : W32) : BitVec 128 :=
  BitVec.ofNat 128 (((s.fn f).msiMask &&& ~~~ (BitVec.ofNat 128 0xFFFFFFFF <<< (32 * i))).toNat + d.toNat * 2 ^ (32 * i))
    ||| BitVec.ofNat 128 (s.adminVecs f)

theorem newMask_bit {i j : Nat} (hj : j < 128) : (s.newMask f i d).getLsbD j
    = ((if 32 * i ≤ j ∧ j < 32 * i + 32 then d.getLsbD (j - 32 * i) else (s.fn f).msiMask.getLsbD j)
        || (s.vec (128 * f + j)).admin) := by
  rw [State.newMask, BitVec.getLsbD_or, setWord_bit _ _ hj, adminVecs_bit f hj]

/-- One vector's decision at a change of the mask (R172). -/
def State.unmask (f i : Nat) (old new : BitVec 128) (t : State) (j : Nat) : State :=
  if old.getLsbD (32 * i + j) && !new.getLsbD (32 * i + j) then t.decideVec (128 * f + 32 * i + j) true else t

theorem writeMask_eq (s : State) (f i : Nat) (d : W32) : s.writeMask f i d
    = (List.range 32).foldl (State.unmask f i (s.fn f).msiMask (s.newMask f i d))
        (s.modFn f fun x => { x with msiMask := s.newMask f i d }) := rfl

theorem decideVec_fns (v : Nat) (force : Bool) : (t.decideVec v force).fns = t.fns := by
  unfold State.decideVec
  dsimp only
  split <;> rfl

theorem writeVec_vec (v q : Nat) : (t.writeVec v).vec q = if q = v then
    { t.vec v with covered := (t.vec v).raises, raises := 0, since := none, outstanding := true } else t.vec q :=
  look_put _ _ _ _ _

theorem decideVec_vec_ne {v q : Nat} (h : q ≠ v) (force : Bool) : (t.decideVec v force).vec q = t.vec q := by
  unfold State.decideVec
  dsimp only
  split
  · rw [writeVec_vec, if_neg h]
  · rfl

theorem decideVec_txns (v : Nat) (force : Bool) : ∃ l, (t.decideVec v force).txns = t.txns ++ l := by
  unfold State.decideVec
  dsimp only
  split
  · exact ⟨_, rfl⟩
  · exact ⟨[], (List.append_nil _).symm⟩

/-- An unmasked vector with uncovered raises and no write outstanding writes at once. -/
theorem decideVec_forced {v : Nat} (hm : t.vecMasked v = false) (ho : (t.vec v).outstanding = false)
    (hr : 0 < (t.vec v).raises) : t.decideVec v true = t.writeVec v := by
  unfold State.decideVec
  dsimp only
  rw [hm, ho, decide_eq_true hr]
  rfl

theorem decideVec_quiet {v : Nat} (h : (t.vec v).outstanding = true ∨ (t.vec v).raises = 0) (force : Bool) :
    t.decideVec v force = t := by
  unfold State.decideVec
  dsimp only
  refine if_neg ?_
  rcases h with h | h
  · rw [h]; simp
  · rw [h]; simp

section
variable {i : Nat} {old new : BitVec 128}

theorem unmask_fns (j : Nat) : (State.unmask f i old new t j).fns = t.fns := by
  unfold State.unmask
  split
  · exact decideVec_fns _ _
  · rfl

theorem unmask_vec_ne {j k : Nat} (h : k ≠ j) :
    (State.unmask f i old new t j).vec (128 * f + 32 * i + k) = t.vec (128 * f + 32 * i + k) := by
  unfold State.unmask
  split
  · exact decideVec_vec_ne (by omega) _
  · rfl

theorem unmask_txns (j : Nat) : ∃ l, (State.unmask f i old new t j).txns = t.txns ++ l := by
  unfold State.unmask
  split
  · exact decideVec_txns _ _
  · exact ⟨[], (List.append_nil _).symm⟩

theorem unmasks_fns (l : List Nat) : (l.foldl (State.unmask f i old new) t).fns = t.fns := by
  induction l generalizing t with
  | nil => rfl
  | cons a r ih => rw [List.foldl_cons, ih, unmask_fns]

theorem unmasks_vec_ne {k : Nat} (l : List Nat) (h : k ∉ l) :
    (l.foldl (State.unmask f i old new) t).vec (128 * f + 32 * i + k) = t.vec (128 * f + 32 * i + k) := by
  induction l generalizing t with
  | nil => rfl
  | cons a r ih =>
    obtain ⟨hka, hkr⟩ := not_or.1 (fun hk => h (List.mem_cons.2 hk))
    rw [List.foldl_cons, ih hkr, unmask_vec_ne hka]

theorem unmasks_txns (l : List Nat) : ∃ m, (l.foldl (State.unmask f i old new) t).txns = t.txns ++ m := by
  induction l generalizing t with
  | nil => exact ⟨[], (List.append_nil _).symm⟩
  | cons a r ih =>
    obtain ⟨m, hm⟩ := ih (t := State.unmask f i old new t a)
    obtain ⟨x, hx⟩ := unmask_txns (f := f) (i := i) (old := old) (new := new) (t := t) a
    exact ⟨x ++ m, by rw [List.foldl_cons, hm, hx, List.append_assoc]⟩

/-- What becomes of one vector: the decision of its own step, taken on the vector as it stood. -/
theorem unmasks_at {j : Nat} (hj : j < 32) : ∃ u : State, u.fns = t.fns
    ∧ u.vec (128 * f + 32 * i + j) = t.vec (128 * f + 32 * i + j)
    ∧ ((List.range 32).foldl (State.unmask f i old new) t).vec (128 * f + 32 * i + j)
        = (State.unmask f i old new u j).vec (128 * f + 32 * i + j)
    ∧ ∃ m, ((List.range 32).foldl (State.unmask f i old new) t).txns = (State.unmask f i old new u j).txns ++ m := by
  obtain ⟨l, r, hsplit⟩ := List.append_of_mem (List.mem_range.2 hj)
  have hnodup : (l ++ j :: r).Nodup := hsplit ▸ List.nodup_range
  obtain ⟨_, hjr, hdisj⟩ := List.nodup_append.1 hnodup
  have hl : j ∉ l := fun h => hdisj j h j List.mem_cons_self rfl
  have hr : j ∉ r := (List.nodup_cons.1 hjr).1
  rw [hsplit, List.foldl_append, List.foldl_cons]
  exact ⟨l.foldl (State.unmask f i old new) t, unmasks_fns l, unmasks_vec_ne l hl, unmasks_vec_ne r hr, unmasks_txns r⟩

end

/-- What unmasking does to one vector: its write falls when it alone was hidden by the mask, else nothing. -/
theorem writeMask_vec {i j : Nat} (hi : i < 4) (hj : j < 32) :
    ((s.fn f).msiMask.getLsbD (32 * i + j) = true → d.getLsbD j = false → (s.vec (128 * f + 32 * i + j)).admin = false →
      (s.vec (128 * f + 32 * i + j)).outstanding = false → 0 < (s.vec (128 * f + 32 * i + j)).raises →
      (s.writeMask f i d).vec (128 * f + 32 * i + j) = { s.vec (128 * f + 32 * i + j) with
        covered := (s.vec (128 * f + 32 * i + j)).raises, raises := 0, since := none, outstanding := true }
      ∧ ∃ x ∈ (s.writeMask f i d).txns, x.purpose = .msi (128 * f + 32 * i + j)
          ∧ x.wlo = (s.vec (128 * f + 32 * i + j)).addr ∧ x.wdata = leBytes 4 (s.vec (128 * f + 32 * i + j)).data.toNat)
    ∧ (((s.fn f).msiMask.getLsbD (32 * i + j) = false ∨ d.getLsbD j = true ∨ (s.vec (128 * f + 32 * i + j)).admin = true
        ∨ (s.vec (128 * f + 32 * i + j)).outstanding = true ∨ (s.vec (128 * f + 32 * i + j)).raises = 0) →
      (s.writeMask f i d).vec (128 * f + 32 * i + j) = s.vec (128 * f + 32 * i + j)) := by
  have hnew := newMask_bit (s := s) (f := f) (d := d) (i := i) (show 32 * i + j < 128 by omega)
  rw [if_pos (by omega), show 32 * i + j - 32 * i = j by omega, ← Nat.add_assoc] at hnew
  obtain ⟨u, hufns, huvec, hvec, m, htxns⟩ := unmasks_at (f := f) (i := i) (old := (s.fn f).msiMask)
    (new := s.newMask f i d) (t := s.modFn f fun x => { x with msiMask := s.newMask f i d }) hj
  have huv : u.vec (128 * f + 32 * i + j) = s.vec (128 * f + 32 * i + j) := huvec
  rw [← writeMask_eq] at hvec htxns
  refine ⟨fun hold hd hadmin hout hraises => ?_, fun hquiet => ?_⟩
  · have hbit : (s.newMask f i d).getLsbD (32 * i + j) = false := by rw [hnew, hd, hadmin]; rfl
    have hmask : u.vecMasked (128 * f + 32 * i + j) = false := by
      have hdiv : (128 * f + 32 * i + j) / 128 = f := by omega
      have hmod : (128 * f + 32 * i + j) % 128 = 32 * i + j := by omega
      have hfn : u.fn f = { s.fn f with msiMask := s.newMask f i d } := by
        rw [State.fn, hufns]
        exact look_put_same _ _ _ _
      rw [State.vecMasked, huv, hadmin, if_neg (by decide), hdiv, hmod, hfn]
      exact hbit
    have hstep : State.unmask f i (s.fn f).msiMask (s.newMask f i d) u j = u.writeVec (128 * f + 32 * i + j) := by
      rw [State.unmask, hold, hbit, if_pos (by decide),
        decideVec_forced hmask (by rw [huv]; exact hout) (by rw [huv]; exact hraises)]
    rw [hstep] at hvec htxns
    refine ⟨by rw [hvec, writeVec_vec, if_pos rfl, huv],
      { deviceWrite u (.msi (128 * f + 32 * i + j)) 0 (u.vec (128 * f + 32 * i + j)).addr 3 false
          (leBytes 4 (u.vec (128 * f + 32 * i + j)).data.toNat) with id := u.nextId }, ?_, rfl, ?_, ?_⟩
    · rw [htxns]
      exact List.mem_append_left _ (List.mem_append_right _ List.mem_cons_self)
    · rw [← huv]; rfl
    · rw [← huv]; rfl
  · rw [hvec, ← huv]
    unfold State.unmask
    split
    · next h =>
      rw [Bool.and_eq_true, Bool.not_eq_true', hnew, Bool.or_eq_false_iff] at h
      obtain ⟨hold, hd, hadmin⟩ := h
      rw [hold, hd, hadmin] at hquiet
      rw [decideVec_quiet (by rw [huv]; simpa using hquiet)]
    · rfl

theorem writeMask_mask {i j : Nat} (hj : j < 128) : ((s.writeMask f i d).fn f).msiMask.getLsbD j
    = ((if 32 * i ≤ j ∧ j < 32 * i + 32 then d.getLsbD (j - 32 * i) else (s.fn f).msiMask.getLsbD j)
        || (s.vec (128 * f + j)).admin) := by
  have hfn : (s.writeMask f i d).fn f = { s.fn f with msiMask := s.newMask f i d } := by
    rw [writeMask_eq, State.fn, unmasks_fns]
    exact look_put_same _ _ _ _
  rw [hfn, ← newMask_bit hj]

theorem exec_write_mask (h : s.FnLive f) {i : Nat} (hi : i < 4) :
    exec (.registerWrite (fnReg f (0x140 + 4 * i)) d 0b1111 0) s = .next (s.writeMask f i d).acked := by
  have hidx : (0x140 + 4 * i - 0x140) / 4 = i := by omega
  have hkind : fRegKind s.member (0x140 + 4 * i) = .writable := by
    obtain rfl | rfl | rfl | rfl : i = 0 ∨ i = 1 ∨ i = 2 ∨ i = 3 := by omega
    all_goals rfl
  rw [exec_write_fn h (by omega) (by omega) hkind]
  unfold State.writeF
  dsimp only
  rw [if_neg (by omega), if_neg (by omega), if_neg (by omega), if_neg (by omega), if_neg (by omega), if_pos (by omega),
    hidx]
  rfl

/-- Settles O26: each register by its row of `writeF`, DRAINED by the edge that marks it, a mask by the decision of each
of its vectors. -/
theorem functionRegistersAct : Obligations.FunctionRegistersAct := by
  unfold Obligations.FunctionRegistersAct
  intro s f h
  have ⟨hup, _⟩ := h
  refine ⟨fun k => ⟨exec_sigRaise h k, raiseSignal_counts, raiseSignal_overflows, fun o => raiseSignal_gives⟩,
    fun q => ⟨fun hheld hfree => ?_, fun hbad => ?_⟩, fun hw _ s0 => settle_drained s0 hup.2 hw f,
    fun hhalt hdrained hseen => ?_, fun hbad => ?_, fun d => ⟨exec_write_fn h (o := 0x020) (by decide) rfl rfl,
      exec_write_fn h (o := 0x100) (by decide) rfl rfl, fun q hq hpresent hheld => exec_write_portView h hq hpresent hheld,
      fun r hr => outcome_next (apbWrite_cr h hr (.inr rfl)),
      fun i hi => ⟨s.writeMask f i d, exec_write_mask h hi, fun j hj => writeMask_mask hj, fun j hj =>
        writeMask_vec hi hj⟩⟩⟩
  · rw [exec_spFlush h, if_neg (by simp [hheld]; exact hfree)]
    rfl
  · rw [exec_spFlush h, if_pos hbad]
    rfl
  · rw [exec_restart h, hhalt, hdrained, hseen]
    rfl
  · have hno : ((s.fn f).halted && (s.fn f).drained && !(s.fn f).haltSeen) = false := by
      rcases hbad with hbad | hbad | hbad <;> rw [hbad] <;> simp
    rw [exec_restart h, hno]
    rfl

end Sys2Proof.Machine
end

section
/-! Holding operations and forced freeing (R233 to R237, Tables 8-4 and 8-5). -/

namespace Sys2Proof.Machine

variable {s t : State} {f : Nat} {d : W32}

/-! ### F_GOB_OP -/

theorem fRegKind_gobOp {m : Member} (h : m.hasCullet = true) : fRegKind m 0x184 = .writable := by
  show RegKind.when .writable m.hasCullet = .writable
  rw [h]
  rfl

/-- A write of F_GOB_OP by a live function. -/
theorem exec_gobWrite (h : s.FnLive f) (hc : s.member.hasCullet = true) :
    (Host.Outcome.next (s.apbWrite (fnReg f 0x184) d 0b1111 0) : Host.Outcome State Fault Refusal)
      = .next (((s.gobOp f d).map s.settle).getD (s.ignFn f 0x184 2)).acked :=
  outcome_next (apbWrite_fn h (o := 0x184) (by decide) rfl (fRegKind_gobOp hc))

/-- The handle of F_GOB_HANDLE. -/
def State.opHandle (s : State) (f : Nat) : Nat := (s.fn f).gobHandle.toNat

section
variable {op slot tgt : Nat} (h : s.FnLive f) (hc : s.member.hasCullet = true) (hb : (s.fn f).gobBusy = false)
  (hd : field32 d 1 0 = op ∧ field32 d 10 4 = slot ∧ field32 d 19 16 = tgt)
include h hc hb hd

/-- An accepted operation: BUSY until the head record is written. -/
theorem gobOp_accepted (hr : s.gobOpResult f op slot tgt = 0)
    (ht : s.gobOpApply f op tgt (handleGob (s.opHandle f)) = t) :
    (Host.Outcome.next (s.apbWrite (fnReg f 0x184) d 0b1111 0) : Host.Outcome State Fault Refusal)
      = .next (s.settle (t.modFn f fun x =>
          { x with gobBusy := true, gobDone := false, gobResult := 0, gobTarget := handleGob (s.opHandle f) })).acked := by
  obtain ⟨rfl, rfl, rfl⟩ := hd
  have hop : s.gobOp f d = some (t.modFn f
      fun x => { x with gobBusy := true, gobDone := false, gobResult := 0, gobTarget := handleGob (s.opHandle f) }) := by
    unfold State.gobOp
    dsimp only
    rw [hb, if_neg (by decide), hr, if_pos rfl, ← ht]
    rfl
  rw [exec_gobWrite h hc, hop]
  rfl

/-- A refused operation: DONE with its result, and the counts of a refused FREE (R235). -/
theorem gobOp_refused {n : Nat} (hr : s.gobOpResult f op slot tgt = n) (hn : n ≠ 0)
    (ht : (if op = 3 then s.refusedFree n else s) = t) :
    (Host.Outcome.next (s.apbWrite (fnReg f 0x184) d 0b1111 0) : Host.Outcome State Fault Refusal)
      = .next (s.settle (t.modFn f fun x =>
          { x with gobBusy := false, gobDone := true, gobResult := n })).acked := by
  obtain ⟨rfl, rfl, rfl⟩ := hd
  have hop : s.gobOp f d = some (t.modFn f fun x =>
      { x with gobBusy := false, gobDone := true, gobResult := n }) := by
    unfold State.gobOp
    dsimp only
    rw [hb, if_neg (by decide), hr, if_neg hn, ht]
  rw [exec_gobWrite h hc, hop]
  rfl

end

theorem gobWord_fields {op slot tgt : Nat} (ho : op < 4) (hs : slot < 128) (ht : tgt < 16) :
    field32 (gobWord op slot tgt) 1 0 = op ∧ field32 (gobWord op slot tgt) 10 4 = slot
      ∧ field32 (gobWord op slot tgt) 19 16 = tgt := by
  simp only [field32, gobWord, BitVec.toNat_ofNat]
  omega

/-! ### The checks in their order (Table 8-5) -/

section
variable {slot tgt : Nat}

/-- The head record of the handle that an operation names. -/
def State.opRec (s : State) (f : Nat) : GobRec := s.gobRec (handleGob (s.opHandle f))

theorem gobOpResult_share (ht : tgt < s.member.functions) : s.gobOpResult f 1 slot tgt
    = if s.stale (s.opHandle f) = true then 1
      else if (s.opRec f).freerFn ≠ f ∨ (s.opRec f).freerSlot ≠ slot then 3
      else if s.pinnedFor f (handleGob (s.opHandle f)) = true then 7
      else if (s.opRec f).holdMask.getLsbD tgt = true ∨ 15 ≤ countBits (s.opRec f).holdMask then 5
      else 0 := by
  unfold State.gobOpResult
  dsimp only
  rw [if_neg (by omega)]
  rfl

theorem gobOpResult_release : s.gobOpResult f 2 slot tgt
    = if s.stale (s.opHandle f) = true then 1
      else if (!(s.opRec f).holdMask.getLsbD f) = true then 2
      else if (s.opRec f).freerFn = f then 6
      else if s.pinnedFor f (handleGob (s.opHandle f)) = true then 7
      else 0 := by
  unfold State.gobOpResult
  dsimp only
  rw [if_neg (by omega)]
  rfl

theorem gobOpResult_free : s.gobOpResult f 3 slot tgt
    = if s.stale (s.opHandle f) = true then 1
      else if (!(s.opRec f).holdMask.getLsbD f) = true then 2
      else if (s.opRec f).freerFn ≠ f ∨ (s.opRec f).freerSlot ≠ slot then 3
      else if s.pinnedFor f (handleGob (s.opHandle f)) = true then 7
      else if countBits (s.opRec f).holdMask ≠ 1 then 4
      else 0 := by
  unfold State.gobOpResult
  dsimp only
  rw [if_neg (by omega)]
  rfl

theorem gobOpResult_undefined {op : Nat} (h : op = 0 ∨ (op = 1 ∧ s.member.functions ≤ tgt)) :
    s.gobOpResult f op slot tgt = 8 := if_pos h

section
variable (hs : s.stale (s.opHandle f) = false)
include hs

theorem share_accepted (ht : tgt < s.member.functions) (hfn : (s.opRec f).freerFn = f) (hslot : (s.opRec f).freerSlot = slot)
    (hpin : s.pinnedFor f (handleGob (s.opHandle f)) = false) (hnew : (s.opRec f).holdMask.getLsbD tgt = false)
    (hcount : countBits (s.opRec f).holdMask < 15) : s.gobOpResult f 1 slot tgt = 0 := by
  rw [gobOpResult_share ht, hs, hpin, hnew, if_neg Bool.false_ne_true, if_neg (by simp [hfn, hslot]),
    if_neg Bool.false_ne_true, if_neg (by simp [hcount])]

theorem share_notFreer (ht : tgt < s.member.functions) (hother : (s.opRec f).freerFn ≠ f ∨ (s.opRec f).freerSlot ≠ slot) :
    s.gobOpResult f 1 slot tgt = 3 := by
  rw [gobOpResult_share ht, hs, if_neg Bool.false_ne_true, if_pos hother]

theorem free_notHolder (hnot : (s.opRec f).holdMask.getLsbD f = false) : s.gobOpResult f 3 slot tgt = 2 := by
  rw [gobOpResult_free, hs, hnot, if_neg Bool.false_ne_true, if_pos Bool.not_false]

variable (hhold : (s.opRec f).holdMask.getLsbD f = true)
include hhold

theorem release_accepted (hfn : (s.opRec f).freerFn ≠ f) (hpin : s.pinnedFor f (handleGob (s.opHandle f)) = false) :
    s.gobOpResult f 2 slot tgt = 0 := by
  rw [gobOpResult_release, hs, hhold, hpin, if_neg Bool.false_ne_true, if_neg (by decide), if_neg hfn,
    if_neg Bool.false_ne_true]

theorem release_byFreer (hfn : (s.opRec f).freerFn = f) : s.gobOpResult f 2 slot tgt = 6 := by
  rw [gobOpResult_release, hs, hhold, if_neg Bool.false_ne_true, if_neg (by decide), if_pos hfn]

variable (hfn : (s.opRec f).freerFn = f) (hslot : (s.opRec f).freerSlot = slot)
  (hpin : s.pinnedFor f (handleGob (s.opHandle f)) = false)
include hfn hslot hpin

theorem free_accepted (hcount : countBits (s.opRec f).holdMask = 1) : s.gobOpResult f 3 slot tgt = 0 := by
  rw [gobOpResult_free, hs, hhold, hpin, if_neg Bool.false_ne_true, if_neg (by decide), if_neg (by simp [hfn, hslot]),
    if_neg Bool.false_ne_true, if_neg (not_not_intro hcount)]

theorem free_premature (hcount : countBits (s.opRec f).holdMask ≠ 1) : s.gobOpResult f 3 slot tgt = 4 := by
  rw [gobOpResult_free, hs, hhold, hpin, if_neg Bool.false_ne_true, if_neg (by decide), if_neg (by simp [hfn, hslot]),
    if_neg Bool.false_ne_true, if_pos hcount]

end

theorem share_stale (hs : s.stale (s.opHandle f) = true) (ht : tgt < s.member.functions) :
    s.gobOpResult f 1 slot tgt = 1 := by
  rw [gobOpResult_share ht, if_pos hs]

theorem free_stale (hs : s.stale (s.opHandle f) = true) : s.gobOpResult f 3 slot tgt = 1 := by
  rw [gobOpResult_free, if_pos hs]

end

/-- Settles O27: the checks of each operation in the order of Table 8-5, then what an accepted and a refused one leave. -/
theorem holdingOperations : Obligations.HoldingOperations := by
  unfold Obligations.HoldingOperations
  intro s f hlive hc hb h g r busy refused
  refine ⟨fun sl q hq => ?_, fun hs hhold hfn hpin => ?_, fun hs hhold hfn => ?_, fun sl => ?_, fun d hbad => ?_⟩
  · have hfields := gobWord_fields (op := 1) (by decide) sl.isLt q.isLt
    exact ⟨fun hs hfn hslot hpin hnew hcount => gobOp_accepted hlive hc hb hfields
        (share_accepted hs hq hfn hslot hpin hnew hcount) rfl,
      fun hs => gobOp_refused hlive hc hb hfields (share_stale hs hq) (by decide) rfl,
      fun hs hother => gobOp_refused hlive hc hb hfields (share_notFreer hs hq hother) (by decide) rfl⟩
  · have hfields := gobWord_fields (op := 2) (slot := 0) (tgt := 0) (by decide) (by decide) (by decide)
    exact gobOp_accepted hlive hc hb hfields (release_accepted hs hhold hfn hpin) rfl
  · have hfields := gobWord_fields (op := 2) (slot := 0) (tgt := 0) (by decide) (by decide) (by decide)
    exact gobOp_refused hlive hc hb hfields (release_byFreer hs hhold hfn) (by decide) rfl
  · have hfields := gobWord_fields (op := 3) (slot := sl.toNat) (tgt := 0) (by decide) sl.isLt (by decide)
    exact ⟨fun hs hhold hfn hslot hpin hcount => gobOp_accepted hlive hc hb hfields
        (free_accepted hs hhold hfn hslot hpin hcount) rfl,
      fun hs => gobOp_refused hlive hc hb hfields (free_stale hs) (by decide) rfl,
      fun hs hnot => gobOp_refused hlive hc hb hfields (free_notHolder hs hnot) (by decide) rfl,
      fun hs hhold hfn hslot hpin hcount => gobOp_refused hlive hc hb hfields
        (free_premature hs hhold hfn hslot hpin hcount) (by decide) rfl⟩
  · have hexec : exec (.gobBadOp f d 0b1111) s = .next (s.apbWrite (fnReg f 0x184) d 0b1111 0) := if_pos hbad
    have hthree : field32 d 1 0 ≠ 3 := by omega
    exact hexec.trans (gobOp_refused hlive hc hb ⟨rfl, rfl, rfl⟩ (gobOpResult_undefined hbad) (by decide) (if_neg hthree))

/-! ### Freeing -/

theorem stale_of_forced {h : Nat} (hf : s.cul.forced.contains (handleGob h) = true) : s.stale h = true := by
  rw [State.stale, State.staleIndex, hf, Bool.or_true, Bool.true_or, Bool.true_or]

/-- Freeing a chain whose head is not quarantined (R236). -/
theorem freeChain_eq {g : Nat} (hq : s.cul.quarantined.contains g = false) : s.freeChain g
    = { s.writeRec g { gen := nextGen (s.gobRec g).gen } with
        cul := { (s.writeRec g { gen := nextGen (s.gobRec g).gen }).cul with freeing := s.cul.freeing ++
          [{ head := g, headGen := (s.gobRec g).gen, allocFn := (s.gobRec g).allocFn
             cur := if ((s.gobRec g).last || decide (s.cul.fresh ≤ (s.gobRec g).next)) = true then none
                    else some (s.gobRec g).next
             known := none }] } } := by
  unfold State.freeChain State.freeMembers
  dsimp only
  rw [hq, if_neg (by decide)]
  rfl

/-- Settles O28. -/
theorem forcedFreeing : Obligations.ForcedFreeing := by
  unfold Obligations.ForcedFreeing
  intro s
  refine ⟨fun f hb hrec => ?_, fun h hp hc => ⟨fun hs => ?_, fun hs => ?_, fun t hf => stale_of_forced hf⟩,
    fun g hf hpin => ?_, fun g hq => ⟨_, freeChain_eq hq, rfl, rfl, rfl, rfl, rfl, ?_⟩⟩
  · have hcond : ((s.fn f).gobBusy && !s.recBusy (s.fn f).gobTarget) = true := by rw [hb, hrec]; rfl
    exact congrArg (settled s) (if_pos hcond)
  · have hwrite : exec (.forceFree h 0b1111 1) s = .next (s.writeAdm 0x22002C h).acked :=
      exec_write_adm (a := 0x22002C) hp rfl (by decide) (by decide) (cuKind_force hc)
    rw [hwrite, writeAdm_force hc, hs, if_neg (by decide)]
  · have hwrite : exec (.forceFree h 0b1111 1) s = .next (s.writeAdm 0x22002C h).acked :=
      exec_write_adm (a := 0x22002C) hp rfl (by decide) (by decide) (cuKind_force hc)
    rw [hwrite, writeAdm_force hc, hs, if_pos rfl]
  · have hcond : (s.cul.forced.contains g && !s.pinned g) = true := by rw [hf, hpin]; rfl
    exact congrArg (settled s) (if_pos hcond)
  · simp only [Bool.or_eq_true, decide_eq_true_eq]

end Sys2Proof.Machine
end

section
/-! The register port while cclk or hclk is down (R39, R311, R329, R373). -/

namespace Sys2Proof.Machine

variable {s : State} {a : BitVec 22} {d : W32}

/-- An entry that cclk does not pop waits, or is dropped and counted when it finds 16. -/
theorem pushEntry_down (h : cclkUp s = false) (e : RegEntry) : s.pushEntry e
    = if s.regq.length < 16 then { s with regq := s.regq ++ [e] }
      else { s with glob := { s.glob with regDrop := satAdd 32 s.glob.regDrop 1 } } :=
  if_neg (by rw [h]; decide)

/-- A privileged secure write of a whole word outside the mailboxes: its entry goes to the queue. -/
theorem exec_write_queued (hk : regKind s.member (wordAddr a) ≠ .hole) (hm : mbOf (wordAddr a) = none)
    (hu : hclkUp s = true) : exec (.registerWrite a d 0b1111 1) s
      = .next (s.pushEntry { addr := wordAddr a, data := d }).acked := by
  rw [exec_registerWrite]
  unfold State.apbWrite
  dsimp only
  rw [hu, if_neg (by decide), if_neg hk, if_neg (by rw [not_protRefused_of (.inr ⟨rfl, rfl⟩)]; decide),
    if_neg (by decide), hm]
  unfold State.pushEntry
  by_cases hc : cclkUp s = true
  · rw [if_pos hc]
    rfl
  · rw [if_neg hc]
    rfl

/-- A refused read that finds the queue full changes nothing (R373). -/
theorem apbRead_refused_full {prot : BitVec 3} (hk : regKind s.member (wordAddr a) ≠ .hole)
    (hr : protRefused (wordAddr a) prot = true) (hu : hclkUp s = true) (hc : cclkUp s = false)
    (hfull : 16 ≤ s.regq.length) : s.apbRead a prot = { s with apb := { prdata := 0, pslverr := false } } := by
  have hpush : s.pushRefusedRead (wordAddr a) = s := by
    refine if_neg ?_
    rintro (h | h)
    · rw [hc] at h
      cases h
    · exact absurd h (Nat.not_lt.2 hfull)
  unfold State.apbRead
  dsimp only
  rw [hu, if_neg (by decide), if_neg hk, if_pos hr, hpush]

theorem exec_write_held (h : hclkUp s = false) (strb : BitVec 4) (prot : BitVec 3) :
    exec (.registerWrite a d strb prot) s = .next s.hold := by
  rw [exec_registerWrite]
  unfold State.apbWrite
  rw [h]
  rfl

theorem exec_read_held (h : hclkUp s = false) (prot : BitVec 3) : exec (.registerRead a prot) s = .next s.hold := by
  rw [exec_registerRead]
  unfold State.apbRead
  rw [h]
  rfl

/-- A waiting domain is released: its clock runs and its loss is over. -/
def State.releaseDomain (s : State) (domain : Nat) : State :=
  { s with rst := { s.rst with
      stable := s.rst.stable ||| bit9 domain
      waiting := s.rst.waiting &&& ~~~ bit9 domain
      lost := s.rst.lost &&& ~~~ bit9 domain } }

theorem exec_domainRelease {domain : Nat} (hr : s.rst.releasing = true) (hd : domain < 9)
    (hw : s.rst.waiting.getLsbD domain = true) : exec (.domainRelease domain) s
      = .next (if domain = 0 then (s.releaseDomain domain).cclkReleased
          else if domain = 2 then (s.releaseDomain domain).hclkReleased else s.releaseDomain domain) := by
  have hcond : (!(s.rst.releasing && decide (domain < 9) && s.rst.waiting.getLsbD domain)) = false := by
    rw [hr, hw, decide_eq_true hd]
    rfl
  exact if_neg (by rw [hcond]; decide)

theorem hclkUp_released (s : State) : hclkUp (s.releaseDomain 2) = true := by
  show (s.rst.stable ||| bit9 2).getLsbD 2 = true
  rw [BitVec.getLsbD_or]
  exact Bool.or_true _

/-- Settles O29. -/
theorem writesWaitWhileCclkIsDown : Obligations.WritesWaitWhileCclkIsDown := by
  unfold Obligations.WritesWaitWhileCclkIsDown
  intro s
  refine ⟨fun a d hk hm _ hu hc => ⟨fun hroom => ?_, fun hfull => ?_⟩, fun a hk ha hu hc hfull => ?_,
    fun hu => ⟨hu, fun a d strb prot => ⟨exec_write_held hu strb prot, exec_read_held hu prot⟩⟩,
    fun hr hw => ⟨_, exec_domainRelease hr (by decide) hw, hclkUp_released s, rfl, rfl, rfl, rfl⟩⟩
  · rw [exec_write_queued hk hm hu, pushEntry_down hc, if_pos hroom]
  · rw [exec_write_queued hk hm hu, pushEntry_down hc, if_neg (by omega)]
  · rw [exec_registerRead, apbRead_refused_full hk (protRefused_of ha (.inl rfl)) hu hc hfull]

end Sys2Proof.Machine
end

section
/-! Descriptor fetches (R73, R79, R81): what a fetch result makes of the channel's ring. -/

namespace Sys2Proof.Machine

variable {s : State} {p n : Nat}

/-! ### The ring after a result -/

theorem ringAdd_eq_self {k f n : Nat} (hn : n < 2 ^ (k + 1)) (hf : f < 2 ^ (k + 1)) : ringAdd k f n = f ↔ n = 0 := by
  unfold ringAdd
  constructor
  · intro h
    by_cases hlt : f + n < 2 ^ (k + 1)
    · rw [Nat.mod_eq_of_lt hlt] at h
      omega
    · rw [Nat.mod_eq_sub_mod (by omega), Nat.mod_eq_of_lt (by omega)] at h
      omega
  · rintro rfl
    exact Nat.mod_eq_of_lt hf

/-- The ring with its first `n` fetched entries accepted. -/
def Ring.run (r : Machine.Ring) (ds : List Desc) (n : Nat) : Machine.Ring :=
  { r with
    f := ringAdd r.order r.f n
    accepted := r.accepted ++ (List.range n).map fun j => { idx := ringAdd r.order r.f j, desc := ds[j]?.getD {} } }

section
variable {r : Machine.Ring} {ds : List Desc} {now : Nat} (hn : n < 2 ^ (r.order + 1)) (hf : r.f < 2 ^ (r.order + 1))
  (hrun : ∀ j, j < n → ds[j]?.map Desc.phase = some (expectedPhase r.order (ringAdd r.order r.f j)))
include hn hf hrun

/-- Every entry is visible. -/
theorem Ring.result_all (hall : n = ds.length) :
    r.result now ds = ({ r.run ds n with retries := 0, again := false, forced := false }, false) := by
  unfold Ring.result
  rw [acceptEntries_run ds n r hn hf (by omega) hrun (.inl hall), decide_eq_true hall]
  dsimp only [Ring.run]
  rw [if_pos rfl]
  split <;> rfl

variable (hlt : n < ds.length)
  (hstop : ds[n]?.map Desc.phase ≠ some (expectedPhase r.order (ringAdd r.order r.f n)))
include hlt hstop

/-- R81: a forced result re-reads at once. -/
theorem Ring.result_forced (hforced : r.forced = true) : r.result now ds
    = ({ r.run ds n with retries := if n = 0 then r.retries else 0, again := true, forced := false, reReadAt := none },
        false) := by
  unfold Ring.result
  rw [acceptEntries_run ds n r hn hf (by omega) hrun (.inr hstop), decide_eq_false (by omega)]
  dsimp only [Ring.run]
  simp only [ringAdd_eq_self hn hf]
  by_cases h0 : n = 0 <;> simp only [h0, if_true, if_false, hforced, Bool.false_eq_true]

/-- R79: the entry is read again 28 edges later. -/
theorem Ring.result_waits (hforced : r.forced = false) (hfew : 0 < n ∨ r.retries < 8) : r.result now ds
    = ({ r.run ds n with retries := if n = 0 then r.retries else 0, again := true,
                         reReadAt := some (now + 28) }, false) := by
  unfold Ring.result
  rw [acceptEntries_run ds n r hn hf (by omega) hrun (.inr hstop), decide_eq_false (by omega)]
  dsimp only [Ring.run]
  simp only [ringAdd_eq_self hn hf, hforced]
  by_cases h0 : n = 0
  · simp only [h0, if_true, Bool.false_eq_true, if_false, if_neg (show ¬ 8 ≤ r.retries by omega)]
  · simp only [h0, if_false, Bool.false_eq_true, if_neg (show ¬ 8 ≤ 0 by omega)]

/-- R79: after 8 re-reads the channel parks. -/
theorem Ring.result_parks (hforced : r.forced = false) (h0 : n = 0) (hmany : 8 ≤ r.retries) : r.result now ds
    = ({ r.run ds 0 with parked := true, staleSeen := true, parkCount := satAdd 16 r.parkCount 1, again := false },
        true) := by
  subst h0
  unfold Ring.result
  rw [acceptEntries_run ds 0 r hn hf (by omega) hrun (.inr hstop), decide_eq_false (by omega)]
  dsimp only [Ring.run]
  rw [if_pos ((ringAdd_eq_self hn hf).2 rfl), if_neg (by decide), hforced, if_neg (by decide), if_pos hmany]

end

/-! ### FETCH_RESULT -/

theorem Resp.isError_of_ne {r : Resp} (h : r ≠ .okay) : r.isError = true := by
  cases r with
  | okay => exact absurd rfl h
  | _ => rfl

section
variable {t : Txn} {beats : List MemBeat}
  (ht : s.txns.find? (fun x => x.purpose == .fetch p && x.isIssued) = some t)
  (hans : (s.answered t.port t.axid false).map Txn.id = some t.id) (hlen : beats.length = t.beats)
  (hphase : t.phase = .issued)
include ht hans hlen hphase

/-- The result of an issued fetch by its response and its fate. -/
theorem exec_fetchResult (resp : Resp) : exec (.fetchResult p beats resp) s = settled s (
    if resp.isError = true then .next ((s.burstFailed t).touchTxn t)
    else if (t.dropped || t.voided) = true then .next (((s.delTxn t.id).freeTxn t).touchTxn t)
    else
      let u := (((s.delTxn t.id).freeTxn t).recovered t).touchTxn t
      let out := (s.chan p).ring.result s.now.cclk (fetchedDescs (beatsSlice t.addr beats t.rlo t.rlen) (t.rlen / 64))
      let v := u.modChan p fun c => { c with ring := out.1 }
      .next (if out.2 then v.raise (chanEvent p 2) else v)) := by
  have hmatch : ((s.answered t.port t.axid false).map Txn.id != some t.id || beats.length != t.beats) = false := by
    rw [hans, hlen, bne_self_eq_false, bne_self_eq_false]
    rfl
  show execFetchResult p beats resp s = _
  unfold execFetchResult
  rw [ht]
  dsimp only
  rw [hmatch, if_neg (by decide), if_neg (by rw [hphase]; decide)]

theorem fetchResult_lost {resp : Resp} (hr : resp ≠ .okay) :
    exec (.fetchResult p beats resp) s = .next (s.settle ((s.burstFailed t).touchTxn t)) := by
  rw [exec_fetchResult ht hans hlen hphase, if_pos (Resp.isError_of_ne hr)]
  rfl

theorem fetchResult_dropped (hd : t.dropped = true ∨ t.voided = true) :
    exec (.fetchResult p beats .okay) s = .next (s.settle (((s.delTxn t.id).freeTxn t).touchTxn t)) := by
  rw [exec_fetchResult ht hans hlen hphase, if_neg (by decide), if_pos (by rcases hd with h | h <;> rw [h] <;> simp)]
  rfl

/-- The state of a fetch that is neither dropped nor voided, but for the ring. -/
def State.fetched (s : State) (t : Txn) : State := (((s.delTxn t.id).freeTxn t).recovered t).touchTxn t

section
variable (hd : t.dropped = false) (hv : t.voided = false) {x : Machine.Ring}
include hd hv

theorem fetchResult_taken (hx : (s.chan p).ring.result s.now.cclk
      (fetchedDescs (beatsSlice t.addr beats t.rlo t.rlen) (t.rlen / 64)) = (x, false)) :
    exec (.fetchResult p beats .okay) s
      = .next (s.settle ((s.fetched t).modChan p fun c => { c with ring := x })) := by
  rw [exec_fetchResult ht hans hlen hphase, if_neg (by decide), hd, hv, if_neg (by decide)]
  dsimp only
  rw [hx]
  rfl

theorem fetchResult_parks (hx : (s.chan p).ring.result s.now.cclk
      (fetchedDescs (beatsSlice t.addr beats t.rlo t.rlen) (t.rlen / 64)) = (x, true)) :
    exec (.fetchResult p beats .okay) s
      = .next (s.settle (((s.fetched t).modChan p fun c => { c with ring := x }).raise (chanEvent p 2))) := by
  rw [exec_fetchResult ht hans hlen hphase, if_neg (by decide), hd, hv, if_neg (by decide)]
  dsimp only
  rw [hx]
  rfl

end

end

/-- Settles O31: the run of visible entries, then what the first entry that is not visible makes of the ring. -/
theorem fetchesAcceptEntries : Obligations.FetchesAcceptEntries := by
  unfold Obligations.FetchesAcceptEntries
  intro s p
  refine ⟨fun t beats ht hans hlen hphase => ⟨fun resp => fetchResult_lost ht hans hlen hphase,
    fetchResult_dropped ht hans hlen hphase, fun hd hv => ?_⟩, fun due hdue => ?_⟩
  · intro r ds u run after n hn hf hrun
    refine ⟨fun hall => fetchResult_taken ht hans hlen hphase hd hv (Ring.result_all hn hf hrun hall),
      fun hlt hstop => ?_⟩
    exact ⟨fun hforced => fetchResult_taken ht hans hlen hphase hd hv (Ring.result_forced hn hf hrun hlt hstop hforced),
      fun hforced hfew =>
        fetchResult_taken ht hans hlen hphase hd hv (Ring.result_waits hn hf hrun hlt hstop hforced hfew),
      fun hforced h0 hmany =>
        fetchResult_parks ht hans hlen hphase hd hv (Ring.result_parks hn hf hrun hlt hstop hforced h0 hmany)⟩
  · show execReReadReady p s = _
    unfold execReReadReady
    rw [hdue]
    rfl

end Sys2Proof.Machine
end

section
/-! The commands that ask for information, and those that set thresholds (R268, R290, R353 to R355, R381): each is
applied with the reply or the state of its request. -/

namespace Sys2Proof.Machine

variable {s : State} {mb : Nat}

/-! ### What a row's checks leave -/

/-- Checks that all pass leave the effect. -/
theorem judge_of_all {l : List (Bool × BitVec 8)} {ok : Verdict} (h : ∀ e ∈ l, e.1 = false) : judge l ok = ok := by
  induction l with
  | nil => rfl
  | cons e t ih =>
    obtain ⟨b, st⟩ := e
    rw [judge_pass (h (b, st) List.mem_cons_self), ih fun x hx => h x (List.mem_cons_of_mem _ hx)]

theorem isForm_of {code i op : Nat} {x : Mailbox} (hc : isCmd code x = true) (hop : reqByte x i = op) :
    isForm code i op x = true := by
  unfold isForm
  rw [hc, hop, beq_self_eq_true]
  rfl

/-- A code that no row of the member has is answered UNKNOWN. -/
theorem exec_unknownCommand (h : s.Fresh mb) (hc : codeKnown s.member (s.mailbox mb).code.toNat = false) :
    exec (.unknownCommand mb) s = s.decided mb (.refuse 6 []) :=
  outcome_next (turnOf_fresh h (by rw [hc]; rfl) nofun (by
    unfold reqZeroOutside
    rw [List.all_eq_true]
    intro i hi
    simp_all))

theorem exec_logRead {n : Nat} (h : s.Issues 16 0x0071 [(0, 5)]) (h1 : 1 ≤ reqByte (s.mailbox 16) 4)
    (h7 : reqByte (s.mailbox 16) 4 ≤ 7) (hfrom : reqField (s.mailbox 16) 0 4 ≤ s.gaf.logNext)
    (hn : n = min (reqByte (s.mailbox 16) 4)
      (s.gaf.logNext - max (reqField (s.mailbox 16) 0 4) (s.gaf.logNext - 2048))) :
    exec (.logRead 16) s = s.decided 16 (.apply (s.takenBy 16)
      (leBytes 4 s.gaf.logNext ++ leBytes 4 (s.gaf.logNext - 2048) ++ leBytes 1 n ++ List.replicate 23 0
        ++ ((List.range n).map fun i =>
            match s.gaf.logs.find? fun e => e.1 ==
              (max (reqField (s.mailbox 16) 0 4) (s.gaf.logNext - 2048) + i) % 2048 with
            | some e => LogRec.bytes e.2 (max (reqField (s.mailbox 16) 0 4) (s.gaf.logNext - 2048) + i)
            | none => List.replicate 32 0).flatten) .none) := by
  subst hn
  refine turnOf_decided h id (fun _ => rfl) (judge_of_all ?_)
  simp
  exact ⟨⟨by omega, h7⟩, decide_eq_false (by omega)⟩

/-- Settles O46: each of the rows is decided as its table says; LOG_READ gives `n` records of the log. -/
theorem queryCommandsReply : Obligations.QueryCommandsReply := by
  intro s
  refine ⟨fun mb h => turnOf_decided h id nofun rfl, fun mb => exec_unknownCommand, fun mb h h0 => ?_,
    fun h h1 h7 hfrom => ⟨_, _, rfl, ?_, ?_, exec_logRead h h1 h7 hfrom rfl⟩⟩
  · refine turnOf_decided h (fun hc => ?_) nofun (judge_of_all ?_)
    · rw [hc, h0]
      rfl
    · simp [h0]
  · rw [List.length_map, List.length_range]
  · intro i hi
    rw [List.getElem?_map, List.getElem?_range hi]
    rfl

/-- Settles O47: the ranges hold, so each request is applied. -/
theorem thresholdCommandsApply : Obligations.ThresholdCommandsApply := by
  intro s
  refine ⟨fun h h1 => ⟨_, turnOf_decided h (isForm_of · h1) (fun _ => rfl) rfl, rfl⟩,
    fun h h2 => ⟨_, turnOf_decided h (isForm_of · h2) (fun _ => rfl) rfl, rfl⟩, fun h hlo hhi => ?_,
    fun h hfull hp hlo hhi => ?_⟩
  · refine turnOf_decided h id (fun _ => rfl) (judge_of_all ?_)
    simp
    omega
  · refine turnOf_decided h (by rw [hfull]; exact id) (fun _ => rfl) (judge_of_all ?_)
    simp [hp]
    omega

end Sys2Proof.Machine
end

section
/-! The commands that map and configure channels and bind their rings (R68, R347, R348). -/

namespace Sys2Proof.Machine

variable {s : State} {mb : Nat}

/-! ### CHAN_ASSIGN -/

section
variable {f sl p : Nat} (hf : reqByte (s.mailbox 16) 0 = f) (hsl : reqByte (s.mailbox 16) 1 = sl)
  (hp : reqByte (s.mailbox 16) 2 = p) (h : s.Issues 16 0x0010 [(0, 4)]) (hfn : s.member.fnPresent f = true)
  (hslot : s.member.slotPresent sl = true) (hch : s.member.chanPresent p = true)
include hf hsl hp h hfn hslot hch

/-- A mapping in its ranges is decided by what the slot and the channel hold. -/
theorem exec_chanAssign (h1 : reqByte (s.mailbox 16) 3 = 1) : exec (.chanAssign 16) s = s.decided 16 (
    judge [(!(s.pchOf f sl == some p) && ((s.chan p).owner.isSome || (s.pchOf f sl).isSome), stConflict)]
      (if (s.pchOf f sl == some p) = true then .apply (s.takenBy 16) [] .none
       else .apply ((s.takenBy 16).modChan p fun c =>
         { owner := some (f, sl), ageBound := c.ageBound, leadLimit := c.leadLimit }) [] (.grant 1 f p))) := by
  subst hf hsl hp
  refine turnOf_decided h (fun hc => ?_) (fun _ => rfl) ?_
  · rw [hc, h1]
    rfl
  · exact judge_pass (by simp [hfn, hslot, hch, h1])

theorem chanAssign_repeats (h1 : reqByte (s.mailbox 16) 3 = 1) (hsame : s.pchOf f sl = some p) :
    exec (.chanAssign 16) s = s.decided 16 (.apply (s.takenBy 16) [] .none) := by
  rw [exec_chanAssign hf hsl hp h hfn hslot hch h1, hsame, beq_self_eq_true, if_pos rfl, judge_of_all (by simp)]

theorem chanAssign_maps (h1 : reqByte (s.mailbox 16) 3 = 1) (hfree : s.pchOf f sl = none)
    (hown : (s.chan p).owner = none) :
    exec (.chanAssign 16) s = s.decided 16 (.apply ((s.takenBy 16).setChan p
      { owner := some (f, sl), ageBound := (s.chan p).ageBound, leadLimit := (s.chan p).leadLimit }) []
      (.grant 1 f p)) := by
  rw [exec_chanAssign hf hsl hp h hfn hslot hch h1, hfree, hown, if_neg (by simp), judge_of_all (by simp)]
  rfl

theorem chanAssign_conflicts (h1 : reqByte (s.mailbox 16) 3 = 1) (hne : s.pchOf f sl ≠ some p)
    (hheld : (s.chan p).owner ≠ none ∨ s.pchOf f sl ≠ none) :
    exec (.chanAssign 16) s = s.decided 16 (.refuse 3 []) := by
  rw [exec_chanAssign hf hsl hp h hfn hslot hch h1, judge_fail]
  · rfl
  · simp [hne, Option.isSome_iff_ne_none, hheld]

theorem chanUnassign_unmaps (h0 : reqByte (s.mailbox 16) 3 = 0) (hsame : s.pchOf f sl = some p)
    (hquiet : s.chanQuiet p = true) :
    exec (.chanUnassign 16) s = s.decided 16 (.apply (((s.takenBy 16).setChan p
      { ageBound := (s.chan p).ageBound, leadLimit := (s.chan p).leadLimit }).dropSources fun n =>
        decide (n / 8 = p)) [] (.grant 0 f p)) := by
  subst hf hsl hp
  refine turnOf_decided h (isForm_of · h0) (fun _ => rfl) ?_
  dsimp only
  rw [judge_of_all (by simp [hfn, hslot, hch, hsame, hquiet]), State.takenBy_pchOf, hsame, if_neg (by simp)]
  rfl

end

/-! ### CHAN_CONFIG, RING_BIND and CPL_RING_BIND -/

theorem exec_chanConfig {p : Nat} {cfg : ChanCfg} (hcfg : chanCfgOf (s.mailbox mb) = cfg)
    (hfn : s.member.fnPresent (actFn mb (s.mailbox mb)) = true)
    (hslot : s.member.slotPresent (reqByte (s.mailbox mb) 1) = true)
    (hmap : s.pchOf (actFn mb (s.mailbox mb)) (reqByte (s.mailbox mb) 1) = some p)
    (h : s.Issues mb 0x0011 [(0, 15), (16, 8)]) (hok : cfg.bad (reqByte (s.mailbox mb) 2) = false)
    (hring : cfg.cplRingMode = true → (look {} (s.fn (actFn mb (s.mailbox mb))).rings cfg.cplRing).bound = true)
    (htimer : cfg.paceSrc = 1 → (s.timer cfg.paceNum).holder = some (actFn mb (s.mailbox mb)))
    (htrig : cfg.paceSrc = 2 → look none s.ev.trigIn cfg.paceNum = some (actFn mb (s.mailbox mb)))
    (hidle : (s.chan p).ring.h = (s.chan p).ring.t) (hstarted : (s.chan p).started = [])
    (hdue : (s.chan p).direct.due = false) :
    exec (.chanConfig mb) s
      = s.decided mb (.apply ((s.takenBy mb).modChan p fun c => c.configured cfg) [] (.config 8)) := by
  subst hcfg
  refine turnOf_decided h id nofun ?_
  dsimp only
  rw [State.takenBy_pchOf, hmap, Option.getD_some, judge_of_all]
  simp only [List.mem_cons, List.not_mem_nil, or_false, forall_eq_or_imp, forall_eq]
  refine ⟨?_, ?_, ?_⟩
  · simp [hfn, hslot, hok]
    exact hring
  · simp
    exact ⟨htimer, htrig⟩
  · simp [Chan.unfinished, hidle, hstarted, hdue]

theorem exec_ringBind {p : Nat} (hfn : s.member.fnPresent (actFn mb (s.mailbox mb)) = true)
    (hslot : s.member.slotPresent (reqByte (s.mailbox mb) 1) = true)
    (hmap : s.pchOf (actFn mb (s.mailbox mb)) (reqByte (s.mailbox mb) 1) = some p)
    (h : s.Issues mb 0x0012 [(0, 4), (8, 8)]) (hlo : 2 ≤ reqByte (s.mailbox mb) 2)
    (hhi : reqByte (s.mailbox mb) 2 ≤ 16) (hfl : reqByte (s.mailbox mb) 3 ≤ 1)
    (hregion : regionBad (reqField (s.mailbox mb) 8 8) (64 * 2 ^ reqByte (s.mailbox mb) 2) = false)
    (hmode : (s.chan p).cfg.ringMode = true) (hidle : (s.chan p).ring.h = (s.chan p).ring.t) :
    exec (.ringBind mb) s = s.decided mb (.apply ((s.takenBy mb).modChan p fun c =>
      { c with state := .running, ring := c.ring.rebind (reqByte (s.mailbox mb) 2) (reqField (s.mailbox mb) 8 8)
                                            (decide (reqByte (s.mailbox mb) 3 = 1)) }) [] (.config 8)) := by
  refine turnOf_decided h id nofun ?_
  dsimp only
  rw [State.takenBy_pchOf, hmap, Option.getD_some, judge_of_all]
  simp [hfn, hslot, hregion, hmode, Chan.unfinished, hidle]
  omega

theorem Chan.usesRing_iff {f r : Nat} {c : Chan} :
    c.usesRing f r = true ↔ c.owner.map Prod.fst = some f ∧ c.cfg.cplRingMode = true ∧ c.cfg.cplRing = r := by
  unfold Chan.usesRing
  simp [and_assoc]

theorem exec_cplRingBind (h : s.Issues mb 0x0013 [(0, 4), (8, 8)])
    (hfn : s.member.fnPresent (actFn mb (s.mailbox mb)) = true) (hr : reqByte (s.mailbox mb) 1 ≤ 15)
    (hlo : 4 ≤ reqByte (s.mailbox mb) 2) (hhi : reqByte (s.mailbox mb) 2 ≤ 16) (hfl : reqByte (s.mailbox mb) 3 ≤ 1)
    (hregion : regionBad (reqField (s.mailbox mb) 8 8) (16 * 2 ^ reqByte (s.mailbox mb) 2) = false)
    (hidle : ∀ e ∈ s.chans, e.2.usesRing (actFn mb (s.mailbox mb)) (reqByte (s.mailbox mb) 1) = true →
      e.2.ring.h = e.2.ring.t ∧ e.2.cpl.waiting = false) :
    exec (.cplRingBind mb) s = s.decided mb (.apply
      (({ s.takenBy mb with chans := s.chans.map fun e => (e.1,
          if e.2.usesRing (actFn mb (s.mailbox mb)) (reqByte (s.mailbox mb) 1) then e.2.ringGone else e.2) } :
        State).modRing (actFn mb (s.mailbox mb)) (reqByte (s.mailbox mb) 1) fun y =>
          y.rebind (reqByte (s.mailbox mb) 2) (reqField (s.mailbox mb) 8 8) (decide (reqByte (s.mailbox mb) 3 = 1)))
      [] (.config 8)) := by
  refine turnOf_decided h id nofun (judge_of_all ?_)
  simp only [List.mem_cons, List.not_mem_nil, or_false, forall_eq_or_imp, forall_eq]
  refine ⟨?_, ?_⟩
  · simp [hfn, hregion]
    omega
  · rw [State.takenBy_chans, List.any_eq_false]
    rintro e he
    by_cases hu : e.2.usesRing (actFn mb (s.mailbox mb)) (reqByte (s.mailbox mb) 1) = true
    · obtain ⟨hring, hwait⟩ := hidle e he hu
      simp [Chan.unfinished, hring, hwait]
    · simp [hu]

/-- Settles O49: one lemma for each of the commands. -/
theorem channelCommandsApply : Obligations.ChannelCommandsApply := by
  intro s
  refine ⟨fun h hfn hslot hch => ⟨chanAssign_repeats rfl rfl rfl h hfn hslot hch,
      chanAssign_maps rfl rfl rfl h hfn hslot hch, chanAssign_conflicts rfl rfl rfl h hfn hslot hch,
      chanUnassign_unmaps rfl rfl rfl h hfn hslot hch⟩,
    fun mb p hfn hslot hmap => ⟨exec_chanConfig rfl hfn hslot hmap, exec_ringBind hfn hslot hmap⟩,
    fun mb h hfn hr hlo hhi hfl hregion hidle => exec_cplRingBind h hfn hr hlo hhi hfl hregion fun e he hu => ?_⟩
  obtain ⟨hown, hmode, hring⟩ := Chan.usesRing_iff.1 hu
  exact hidle e he hown hmode hring

end Sys2Proof.Machine
end

section
/-! The commands of shared resources: stream ports (R196, R197, R205), the pool (R217, R225, R226), timers and triggers
(R149, R350, R352, R383). -/

namespace Sys2Proof.Machine

variable {s : State} {mb : Nat}

/-! ### Stream ports -/

@[simp] theorem State.takenBy_portHolds (s : State) (mb p : Nat) : (s.takenBy mb).portHolds p = s.portHolds p := rfl

theorem exec_streamConfig {p h : Nat} {y : Port} (hp : reqByte (s.mailbox 16) 0 = p)
    (hh : reqByte (s.mailbox 16) 1 = h) (hy : s.port p = y) (hi : s.Issues 16 0x0020 [(0, 3), (4, 4)]) (hff : h ≠ 0xFF)
    (hport : s.member.portPresent p = true) (hfn : s.member.fnPresent h = true) (hfl : reqByte (s.mailbox 16) 2 ≤ 3)
    (h4 : 4 ≤ reqField (s.mailbox 16) 4 2) (hres : reqField (s.mailbox 16) 4 2 ≤ reqField (s.mailbox 16) 6 2)
    (hlim : reqField (s.mailbox 16) 6 2 ≤ 65280) (hwm : y.highWm ≤ reqField (s.mailbox 16) 6 2 * 64)
    (hheld : y.holder = none ∨ y.holder = some h)
    (hsum : s.cruReserved - y.reserve + reqField (s.mailbox 16) 4 2 ≤ s.member.reservable)
    (hempty : s.portHolds p = false) (hnamed : s.portNamed p = false) (hcells : y.cells ≤ reqField (s.mailbox 16) 6 2)
    {z : Port} {u : State} (hz : z = y.configured h (reqByte (s.mailbox 16) 2) (reqField (s.mailbox 16) 4 2)
      (reqField (s.mailbox 16) 6 2))
    (hu : u = if z.enable && !(y.enable && z.dirOut == y.dirOut) then ((s.takenBy 16).setPort p z).compareWm p
      else (s.takenBy 16).setPort p z) :
    exec (.streamConfig 16) s = s.decided 16 (.apply u (leBytes 4 u.cruFree) (.grant 0 h p)) := by
  subst hp hh hy hz hu
  refine turnOf_decided hi (fun hc => ?_) (fun _ => rfl) (judge_of_all ?_)
  · rw [hc]
    simpa using hff
  · simp only [List.forall_mem_cons, Bool.or_eq_false_iff, decide_eq_false_iff_not]
    simp [hport, hfn, hempty, hnamed]
    refine ⟨?_, fun hsome => hheld.resolve_left (Option.isSome_iff_ne_none.1 hsome), hsum, hcells⟩
    omega

theorem exec_streamRevoke {p : Nat} {y : Port} (hp : reqByte (s.mailbox 16) 0 = p) (hy : s.port p = y)
    (hi : s.Issues 16 0x0020 [(0, 2)]) (hff : reqByte (s.mailbox 16) 1 = 0xFF)
    (hport : s.member.portPresent p = true) (hheld : y.holder.isSome = true) (hempty : s.portHolds p = false)
    (hnamed : s.portNamed p = false) {u : State} (hu : u = ((s.takenBy 16).setPort p { y with
      holder := none, enable := false, reserve := 0, limit := 0, highWm := 0, lowWm := 0
      xoff := false }).dropSources (fun n => decide (1024 ≤ n) && decide (n < 1280) && decide ((n - 1024) / 4 = p))) :
    exec (.streamRevoke 16) s = s.decided 16 (.apply u (leBytes 4 u.cruFree) (.grant 0 0xFF p)) := by
  subst hp hy hu
  refine turnOf_decided hi (isForm_of · hff) (fun _ => rfl) ?_
  dsimp only
  rw [judge_of_all (by simp [hport, hempty, hnamed]), State.takenBy_port, if_neg]
  rw [Option.isNone_eq_false_iff.2 hheld]
  decide

theorem exec_wmSet (hi : s.Issues mb 0x0021 [(0, 2), (4, 8)])
    (hfn : s.member.fnPresent (actFn mb (s.mailbox mb)) = true)
    (hport : s.member.portPresent (reqByte (s.mailbox mb) 1) = true)
    (hlow : reqField (s.mailbox mb) 8 4 < reqField (s.mailbox mb) 4 4)
    (hlim : reqField (s.mailbox mb) 4 4 ≤ (s.port (reqByte (s.mailbox mb) 1)).limit * 64)
    (hheld : (s.port (reqByte (s.mailbox mb) 1)).holder = some (actFn mb (s.mailbox mb))) :
    exec (.wmSet mb) s = s.decided mb (.apply (((s.takenBy mb).modPort (reqByte (s.mailbox mb) 1) fun y =>
      { y with highWm := reqField (s.mailbox mb) 4 4, lowWm := reqField (s.mailbox mb) 8 4 }).compareWm
        (reqByte (s.mailbox mb) 1)) [] (.config 8)) := by
  refine turnOf_decided hi id nofun (judge_of_all ?_)
  simp only [List.forall_mem_cons, Bool.or_eq_false_iff, decide_eq_false_iff_not]
  simp [hfn, hport, hheld]
  omega

/-- Settles O50: a port is granted or reconfigured, revoked, and given watermarks. -/
theorem streamPortCommandsApply : Obligations.StreamPortCommandsApply := by
  intro s
  refine ⟨⟨fun hi hff hport hfn hfl h4 hres hlim hwm hheld hsum hempty hnamed hcells => ⟨_, _, rfl, rfl,
      exec_streamConfig rfl rfl rfl hi hff hport hfn hfl h4 hres hlim hwm hheld hsum hempty hnamed hcells rfl rfl⟩,
    fun hi hff hport hheld hempty hnamed =>
      ⟨_, rfl, exec_streamRevoke rfl rfl hi hff hport hheld hempty hnamed rfl⟩⟩, fun mb => exec_wmSet⟩

/-! ### The pool -/

theorem exec_quotaSet (hcul : s.member.hasCullet = true) (hsweep : s.cul.sweep = false)
    (hi : s.Issues 16 0x0030 [(0, 1), (4, 14)]) (hfn : s.member.fnPresent (reqByte (s.mailbox 16) 0) = true)
    (hres : reqField (s.mailbox 16) 4 4 ≤ reqField (s.mailbox 16) 8 4)
    (hceil : reqField (s.mailbox 16) 8 4 ≤ s.cul.count) (hmark : reqField (s.mailbox 16) 12 4 < 2 ^ 28)
    (hsum : s.reserveSum (reqByte (s.mailbox 16) 0) (reqField (s.mailbox 16) 4 4) ≤ s.cul.count - s.cul.quar)
    (hmode : s.cul.quota = false) :
    exec (.quotaSet 16) s = s.decided 16 (.apply ((s.takenBy 16).settle
      ((s.takenBy 16).modFn (reqByte (s.mailbox 16) 0) fun y => { y with
        reserve := reqField (s.mailbox 16) 4 4, ceiling := reqField (s.mailbox 16) 8 4
        lowMark := reqField (s.mailbox 16) 12 4, gobWait := reqField (s.mailbox 16) 16 2 })) [] (.config 8)) := by
  refine turnOf_decided hi (by rw [hcul]; exact id) (fun _ => rfl) (judge_of_all ?_)
  simp only [List.forall_mem_cons, Bool.or_eq_false_iff, Bool.and_eq_false_iff, decide_eq_false_iff_not]
  simp [hfn, hsweep, hmode]
  omega

theorem exec_poolModeInit {n pool recs stack : Nat} (hn : reqField (s.mailbox 16) 4 4 = n)
    (hpool : reqField (s.mailbox 16) 8 8 = pool) (hrecs : reqField (s.mailbox 16) 16 8 = recs)
    (hstack : reqField (s.mailbox 16) 24 8 = stack) (hcul : s.member.hasCullet = true) (hsweep : s.cul.sweep = false)
    (hi : s.Issues 16 0x0031 [(0, 1), (4, 28)]) (hop : reqByte (s.mailbox 16) 0 = 2) (h1 : 1 ≤ n)
    (hbits : n ≤ 2 ^ s.member.gobBits) (r1 : regionBad pool (4096 * n) = false) (r2 : regionBad recs (16 * n) = false)
    (r3 : regionBad stack (4 * n) = false) (o1 : overlap pool (4096 * n) recs (16 * n) = false)
    (o2 : overlap pool (4096 * n) stack (4 * n) = false) (o3 : overlap recs (16 * n) stack (4 * n) = false)
    (hback : s.cul.fresh ≤ s.cul.stack.length + s.cul.quarantined.length) :
    exec (.poolModeInit 16) s = s.decided 16 (.apply ((s.takenBy 16).settle
      ((s.takenBy 16).poolInit n pool recs stack)) (leBytes 4 n) (.config 8)) := by
  subst hn hpool hrecs hstack
  refine turnOf_decided hi (fun hc => ?_) (fun _ => rfl) (judge_of_all ?_)
  · rw [hc, hcul, hop]
    rfl
  · simp only [List.forall_mem_cons, Bool.or_eq_false_iff, decide_eq_false_iff_not]
    simp [hop, hsweep, r1, r2, r3, o1, o2, o3]
    omega

/-- Settles O51: each command of the pool passes its checks and is applied. -/
theorem poolCommandsApply : Obligations.PoolCommandsApply := by
  intro s x t f hcul hsweep
  refine ⟨exec_quotaSet hcul hsweep, fun hi h0 => ?_, fun hi h1 hfree => ?_,
    exec_poolModeInit rfl rfl rfl rfl hcul hsweep⟩
  · exact turnOf_decided hi (fun hc => by rw [hcul]; exact isForm_of hc h0) (fun _ => rfl) rfl
  · refine turnOf_decided hi (fun hc => by rw [hcul]; exact isForm_of hc h1) (fun _ => rfl) (judge_of_all ?_)
    simp only [List.forall_mem_cons, decide_eq_false_iff_not]
    simp [hsweep, hfree]

/-! ### Timers -/

section
variable {f n : Nat} (hact : actFn mb (s.mailbox mb) = f) (hn : reqByte (s.mailbox mb) 2 = n)
  (hfn : s.member.fnPresent f = true) (h63 : n ≤ 63)
include hact hn hfn h63

theorem exec_timerSet (hi : s.Issues mb 0x0040 [(0, 3), (8, 16)]) (h0 : reqByte (s.mailbox mb) 1 = 0)
    (hper : reqField (s.mailbox mb) 16 8 = 0
      ∨ (100 ≤ reqField (s.mailbox mb) 16 8 ∧ reqField (s.mailbox mb) 16 8 < 2 ^ 48))
    (hheld : (s.timer n).holder = some f) :
    exec (.timerSet mb) s = s.decided mb (.apply ((s.takenBy mb).setTimer n { s.timer n with
      start := reqField (s.mailbox mb) 8 8, period := reqField (s.mailbox mb) 16 8
      next := reqField (s.mailbox mb) 8 8, missed := 0, armed := true, spent := false })
      (leBytes 8 (reqField (s.mailbox mb) 8 8) ++ leBytes 4 (s.timer n).missed ++ leBytes 1 1) (.config 8)) := by
  subst hact hn
  refine turnOf_decided hi (fun hc => ?_) nofun (judge_of_all ?_)
  · rw [hc, h0]
    rfl
  · simp only [List.forall_mem_cons, Bool.or_eq_false_iff, Bool.and_eq_false_iff, decide_eq_false_iff_not]
    simp [h0, hfn, hheld]
    omega

theorem exec_timerRead (hi : s.Issues mb 0x0040 [(0, 3)]) (h1 : reqByte (s.mailbox mb) 1 = 1)
    (hheld : (s.timer n).holder = some f) :
    exec (.timerRead mb) s = s.decided mb (.apply ((s.takenBy mb).setTimer n { s.timer n with missed := 0 })
      (leBytes 8 (s.timer n).next ++ leBytes 4 (s.timer n).missed ++ leBytes 1 (b2n (!(s.timer n).spent))) .none) := by
  subst hact hn
  refine turnOf_decided hi (isForm_of · h1) nofun (judge_of_all ?_)
  simp [hfn, hheld, h63]

end

section
variable {f n : Nat} (hact : reqByte (s.mailbox 16) 0 = f) (hn : reqByte (s.mailbox 16) 2 = n)
  (hfn : s.member.fnPresent f = true) (h63 : n ≤ 63) (hi : s.Issues 16 0x0040 [(0, 3)])
include hact hn hfn h63 hi

theorem exec_timerGrant (h2 : reqByte (s.mailbox 16) 1 = 2) : exec (.timerGrant 16) s = s.decided 16 (
    judge [((s.timer n).holder.isSome && (s.timer n).holder != some f, stConflict)]
      (if (s.timer n).holder = some f then .apply (s.takenBy 16) [] .none
       else .apply ((s.takenBy 16).setTimer n { holder := some f }) [] (.grant 2 f n))) := by
  subst hact hn
  exact turnOf_decided hi (isForm_of · h2) (fun _ => rfl) (judge_pass (by simp [hfn, h63]))

theorem exec_timerRevoke (h3 : reqByte (s.mailbox 16) 1 = 3) : exec (.timerRevoke 16) s = s.decided 16 (
    judge [((s.timer n).holder.isSome && (s.timer n).holder != some f, stConflict),
        ((s.timer n).holder.isSome && s.gateUsed 1 n, stNotIdle)]
      (if (s.timer n).holder.isNone then .apply (s.takenBy 16) [] .none
       else .apply ((s.takenBy 16).setTimer n {}) [] (.grant 3 f n))) := by
  subst hact hn
  exact turnOf_decided hi (isForm_of · h3) (fun _ => rfl) (judge_pass (by simp [hfn, h63]))

theorem timerGrant_cases (h2 : reqByte (s.mailbox 16) 1 = 2) :
    ((s.timer n).holder = some f → exec (.timerGrant 16) s = s.decided 16 (.apply (s.takenBy 16) [] .none))
    ∧ ((s.timer n).holder = none → exec (.timerGrant 16) s
        = s.decided 16 (.apply ((s.takenBy 16).setTimer n { holder := some f }) [] (.grant 2 f n)))
    ∧ (∀ g, (s.timer n).holder = some g → g ≠ f → exec (.timerGrant 16) s = s.decided 16 (.refuse 3 [])) := by
  rw [exec_timerGrant hact hn hfn h63 hi h2]
  refine ⟨fun hheld => ?_, fun hfree => ?_, fun g hheld hne => ?_⟩
  · rw [hheld, if_pos rfl, judge_of_all (by simp)]
  · rw [hfree, if_neg nofun, judge_of_all (by simp)]
  · rw [hheld, judge_fail (by simpa using hne)]
    rfl

theorem timerRevoke_cases (h3 : reqByte (s.mailbox 16) 1 = 3) :
    ((s.timer n).holder = none → exec (.timerRevoke 16) s = s.decided 16 (.apply (s.takenBy 16) [] .none))
    ∧ ((s.timer n).holder = some f → s.gateUsed 1 n = false → exec (.timerRevoke 16) s
        = s.decided 16 (.apply ((s.takenBy 16).setTimer n {}) [] (.grant 3 f n)))
    ∧ (∀ g, (s.timer n).holder = some g → g ≠ f → exec (.timerRevoke 16) s = s.decided 16 (.refuse 3 [])) := by
  rw [exec_timerRevoke hact hn hfn h63 hi h3]
  refine ⟨fun hfree => ?_, fun hheld hgate => ?_, fun g hheld hne => ?_⟩
  · rw [hfree, judge_of_all (by simp)]
    rfl
  · rw [hheld, hgate, judge_of_all (by simp)]
    rfl
  · rw [hheld, judge_fail (by simpa using hne)]
    rfl

end

/-- Settles O52: TIMER_SET by its form and by what holds the timer. -/
theorem timerCommandsApply : Obligations.TimerCommandsApply := by
  intro s mb x t f n y hfn h63
  refine ⟨exec_timerSet rfl rfl hfn h63, exec_timerRead rfl rfl hfn h63, fun h16 => ?_, fun h16 => ?_⟩
  · subst h16
    exact timerGrant_cases rfl rfl hfn h63
  · subst h16
    exact timerRevoke_cases rfl rfl hfn h63

/-! ### Triggers -/

section
variable {f kind n who : Nat} (hf : reqByte (s.mailbox 16) 0 = f) (hkind : reqByte (s.mailbox 16) 2 = kind)
  (hn : reqByte (s.mailbox 16) 3 = n) (hi : s.Issues 16 0x0041 [(0, 4)]) (hk : kind ≤ 1) (h15 : n ≤ 15)
  (hparty : s.party f = some who) (hin : kind = 0 → f ≠ 0xFE)
include hf hkind hn hi hk h15 hparty hin

omit hi in
theorem trigBad_of_ranges : (s.takenBy 16).trigBad (s.mailbox 16) = false := by
  subst hf hkind hn
  unfold State.trigBad
  simp only [Bool.or_eq_false_iff, decide_eq_false_iff_not, Bool.and_eq_false_iff]
  simp [hparty]
  omega

theorem exec_trigGrant (h2 : reqByte (s.mailbox 16) 1 = 2) : exec (.trigGrant 16) s = s.decided 16 (
    judge [((s.trigHolder kind n).isSome && s.trigHolder kind n != some who, stConflict)]
      (if s.trigHolder kind n = some who then .apply (s.takenBy 16) [] .none
       else .apply ((s.takenBy 16).setTrig kind n (some who)) [] (.grant 2 f n))) := by
  have hbad := trigBad_of_ranges hf hkind hn hk h15 hparty hin
  subst hf hkind hn
  refine turnOf_decided hi (fun hc => ?_) (fun _ => rfl) ?_
  · rw [hc, h2]
    rfl
  · dsimp only
    rw [State.takenBy_party, hparty, judge_pass (by simp [h2, hbad])]
    rfl

theorem exec_trigRevoke (h3 : reqByte (s.mailbox 16) 1 = 3) : exec (.trigRevoke 16) s = s.decided 16 (
    judge [((s.trigHolder kind n).isSome && s.trigHolder kind n != some who, stConflict),
        ((s.trigHolder kind n).isSome && kind == 0 && s.gateUsed 2 n, stNotIdle)]
      (if (s.trigHolder kind n).isNone then .apply (s.takenBy 16) [] .none
       else .apply (if kind = 0 then (s.takenBy 16).setTrig kind n none
         else ((s.takenBy 16).setTrig kind n none).dropTarget (.trigOut n)) [] (.grant 3 f n))) := by
  have hbad := trigBad_of_ranges hf hkind hn hk h15 hparty hin
  subst hf hkind hn
  refine turnOf_decided hi (isForm_of · h3) (fun _ => rfl) ?_
  dsimp only
  rw [State.takenBy_party, hparty, judge_pass hbad]
  rfl

theorem trigGrant_cases (h2 : reqByte (s.mailbox 16) 1 = 2) :
    (s.trigHolder kind n = some who → exec (.trigGrant 16) s = s.decided 16 (.apply (s.takenBy 16) [] .none))
    ∧ (s.trigHolder kind n = none → exec (.trigGrant 16) s
        = s.decided 16 (.apply ((s.takenBy 16).setTrig kind n (some who)) [] (.grant 2 f n)))
    ∧ (∀ g, s.trigHolder kind n = some g → g ≠ who → exec (.trigGrant 16) s = s.decided 16 (.refuse 3 [])) := by
  rw [exec_trigGrant hf hkind hn hi hk h15 hparty hin h2]
  refine ⟨fun hheld => ?_, fun hfree => ?_, fun g hheld hne => ?_⟩
  · rw [hheld, if_pos rfl, judge_of_all (by simp)]
  · rw [hfree, if_neg nofun, judge_of_all (by simp)]
  · rw [hheld, judge_fail (by simpa using hne)]
    rfl

theorem trigRevoke_cases (h3 : reqByte (s.mailbox 16) 1 = 3) :
    (s.trigHolder kind n = none → exec (.trigRevoke 16) s = s.decided 16 (.apply (s.takenBy 16) [] .none))
    ∧ (s.trigHolder kind n = some who → (kind = 0 → s.gateUsed 2 n = false) → exec (.trigRevoke 16) s
        = s.decided 16 (.apply (if kind = 0 then (s.takenBy 16).setTrig kind n none
            else ((s.takenBy 16).setTrig kind n none).dropTarget (.trigOut n)) [] (.grant 3 f n)))
    ∧ (∀ g, s.trigHolder kind n = some g → g ≠ who → exec (.trigRevoke 16) s = s.decided 16 (.refuse 3 [])) := by
  rw [exec_trigRevoke hf hkind hn hi hk h15 hparty hin h3]
  refine ⟨fun hfree => ?_, fun hheld hgate => ?_, fun g hheld hne => ?_⟩
  · rw [hfree, judge_of_all (by simp)]
    rfl
  · rw [hheld, judge_of_all (by simpa using hgate)]
    rfl
  · rw [hheld, judge_fail (by simpa using hne)]
    rfl

end

/-- What a filtered table holds under a key. -/
theorem look_filter {α : Type} (d : α) (q : Nat × α → Bool) (n : Nat) {l : Tbl α} (hw : Tbl.wf l = true) :
    look d (l.filter q) n = if q (n, look d l n) = true then look d l n else d := by
  induction l with
  | nil => exact (ite_self d).symm
  | cons e t ih =>
    have hlt := wf_lt e t hw
    have hgone : look d t e.1 = d := (look_mem_or d t e.1).resolve_right fun hmem => (hlt _ hmem).ne rfl
    specialize ih (by rw [wf_iff_pairwise] at hw ⊢; exact hw.tail)
    rw [List.filter_cons, look_cons]
    by_cases he : n = e.1
    · subst he
      rw [if_pos rfl]
      split
      · rw [look_cons, if_pos rfl]
      · rw [ih, hgone, ite_self]
    · rw [if_neg he]
      split
      · rw [look_cons, if_neg he, ih]
      · exact ih

/-- A route that targets `r` becomes none, and no other. -/
theorem dropTarget_route (hw : Tbl.wf s.ev.routes = true) (r : Route) (m : Nat) :
    (s.dropTarget r).route m = if s.route m = r then .none else s.route m := by
  show look Route.none (s.ev.routes.filter fun e => e.2 != r) m = _
  have hlook : s.route m = look Route.none s.ev.routes m := rfl
  rw [hlook, look_filter _ _ _ hw]
  by_cases hr : look Route.none s.ev.routes m = r
  · rw [if_pos hr, if_neg (by simp [hr])]
  · rw [if_neg hr, if_pos (by simpa using hr)]

/-- Settles O53: TRIG_ROUTE by its form and by what holds the trigger. -/
theorem triggerCommandsApply : Obligations.TriggerCommandsApply := by
  intro s who x t kind n hi hk h15 hparty hin
  refine ⟨trigGrant_cases rfl rfl rfl hi hk h15 hparty hin, fun h3 => ?_⟩
  obtain ⟨hfree, hheld, hother⟩ := trigRevoke_cases rfl rfl rfl hi hk h15 hparty hin h3
  exact ⟨hfree, hheld, hother, fun hw => dropTarget_route hw (.trigOut n)⟩

end Sys2Proof.Machine
end

section
/-! The commands of event routes, vectors and wires (R169, R171, R172, R351, R352, R383), and those of Xezan's windows and
peers (R243, R257). -/

namespace Sys2Proof.Machine

variable {s : State} {mb who : Nat}

/-! ### EVENT_ROUTE ROUTE and VECTOR -/

theorem exec_eventRoute (hparty : s.eventParty mb (s.mailbox mb) = some who) (hi : s.Issues mb 0x0042 [(0, 8)])
    (h0 : reqByte (s.mailbox mb) 1 = 0) (hsrc : sourceBad s.member (reqField (s.mailbox mb) 2 2) = false)
    (hnum : s.routeBad who (s.mailbox mb) = false)
    (hown : s.sourceOwner (reqField (s.mailbox mb) 2 2) = some who)
    (htarget : s.holdsTarget who (routeOf who (s.mailbox mb)) = true) :
    exec (.eventRoute mb) s = s.decided mb (.apply { s.takenBy mb with ev := { s.ev with
      routes := put s.ev.routes (reqField (s.mailbox mb) 2 2) (routeOf who (s.mailbox mb)) } } [] (.config 8)) := by
  refine turnOf_decided hi (fun hc => ?_) nofun ?_
  · rw [hc, h0]
    rfl
  · dsimp only
    rw [State.takenBy_eventParty, hparty, Option.getD_some,
      judge_of_all (by simp [h0, hsrc, hnum, hown, htarget])]
    rfl

theorem exec_eventVector {v : Nat} (hv : vecOf who (reqField (s.mailbox mb) 2 2) = v)
    (hparty : s.eventParty mb (s.mailbox mb) = some who) (hi : s.Issues mb 0x0042 [(0, 9), (16, 12)])
    (h1 : reqByte (s.mailbox mb) 1 = 1)
    (hnum : reqField (s.mailbox mb) 2 2 < (if who = 16 then 2048 else 128)) (hlo : 1 ≤ reqField (s.mailbox mb) 4 2)
    (hhi : reqField (s.mailbox mb) 4 2 ≤ 256) (hmask : reqByte (s.mailbox mb) 8 ≤ 1)
    (halign : reqField (s.mailbox mb) 16 8 % 4 = 0) (haddr : reqField (s.mailbox mb) 16 8 < 2 ^ 52)
    (hheld : s.vecHolder v = who) (hfn : v < 128 * s.member.functions) :
    exec (.eventVector mb) s = s.decided mb (.apply (((s.takenBy mb).setVec v { s.vec v with
      addr := reqField (s.mailbox mb) 16 8, data := BitVec.ofNat 32 (reqField (s.mailbox mb) 24 4)
      count := reqField (s.mailbox mb) 4 2, time := reqField (s.mailbox mb) 6 2 }).setMask v
        (decide (reqByte (s.mailbox mb) 8 = 1))) [] (.config 8)) := by
  refine turnOf_decided hi (isForm_of · h1) nofun ?_
  dsimp only
  rw [State.takenBy_eventParty, hparty, Option.getD_some, hv, judge_of_all]
  · rfl
  · simp only [List.forall_mem_cons, Bool.or_eq_false_iff, decide_eq_false_iff_not]
    simp [hheld]
    omega

/-- Settles O54: a source goes to a target of its owner, and a vector takes what its holder writes. -/
theorem routeAndVectorApply : Obligations.RouteAndVectorApply := fun _ _ _ hparty =>
  ⟨exec_eventRoute hparty, exec_eventVector rfl hparty⟩

/-! ### EVENT_ROUTE GRANT and REVOKE -/

section
variable {f num : Nat} (hf : reqByte (s.mailbox 16) 0 = f) (hnum : reqField (s.mailbox 16) 4 2 = num)
  (hi : s.Issues 16 0x0042 [(0, 3), (4, 2)]) (hparty : s.party f = some who)
include hf hnum hi hparty

section
variable (hkind : reqByte (s.mailbox 16) 2 = 1) (h63 : num ≤ 63)
include hkind h63

/-- An INT wire is granted by what holds it. -/
theorem exec_eventGrant_int (h2 : reqByte (s.mailbox 16) 1 = 2) : exec (.eventGrant 16) s = s.decided 16 (
    judge [((look none s.ev.ints num).isSome && look none s.ev.ints num != some who, stConflict)]
      (if look none s.ev.ints num = some who then .apply (s.takenBy 16) [] .none
       else .apply { s.takenBy 16 with ev := { s.ev with ints := put s.ev.ints num (some who) } } []
         (.grant 2 f num))) := by
  subst hf hnum
  refine turnOf_decided hi (isForm_of · h2) (fun _ => rfl) ?_
  dsimp only
  rw [State.takenBy_party, hparty, judge_pass, hkind]
  · simp [State.eventHolder]
  · unfold State.eventBad
    simp [hparty, hkind, h63]

theorem exec_eventRevoke_int (h3 : reqByte (s.mailbox 16) 1 = 3) : exec (.eventRevoke 16) s = s.decided 16 (
    judge [((look none s.ev.ints num).isSome && look none s.ev.ints num != some who, stConflict)]
      (if (look none s.ev.ints num).isNone = true then .apply (s.takenBy 16) [] .none
       else .apply (({ s.takenBy 16 with ev := { s.ev with ints := put s.ev.ints num none } } : State).dropTarget
         (.int num)) [] (.grant 3 f num))) := by
  subst hf hnum
  refine turnOf_decided hi (isForm_of · h3) (fun _ => rfl) ?_
  dsimp only
  rw [State.takenBy_party, hparty, judge_pass, hkind]
  · simp [State.eventHolder, judge, firstFail]
  · unfold State.eventBad
    simp [hparty, hkind, h63]

theorem eventGrant_int_cases (h2 : reqByte (s.mailbox 16) 1 = 2) :
    (look none s.ev.ints num = some who → exec (.eventGrant 16) s = s.decided 16 (.apply (s.takenBy 16) [] .none))
    ∧ (look none s.ev.ints num = none → exec (.eventGrant 16) s = s.decided 16 (.apply { s.takenBy 16 with
        ev := { s.ev with ints := put s.ev.ints num (some who) } } [] (.grant 2 f num))) := by
  rw [exec_eventGrant_int hf hnum hi hparty hkind h63 h2]
  refine ⟨fun hheld => ?_, fun hfree => ?_⟩
  · rw [hheld, if_pos rfl, judge_of_all (by simp)]
  · rw [hfree, if_neg nofun, judge_of_all (by simp)]

theorem eventRevoke_int_cases (h3 : reqByte (s.mailbox 16) 1 = 3) :
    (look none s.ev.ints num = none → exec (.eventRevoke 16) s = s.decided 16 (.apply (s.takenBy 16) [] .none))
    ∧ (look none s.ev.ints num = some who → exec (.eventRevoke 16) s = s.decided 16 (.apply
        (({ s.takenBy 16 with ev := { s.ev with ints := put s.ev.ints num none } } : State).dropTarget (.int num)) []
        (.grant 3 f num))) := by
  rw [exec_eventRevoke_int hf hnum hi hparty hkind h63 h3]
  refine ⟨fun hfree => ?_, fun hheld => ?_⟩
  · rw [hfree, judge_of_all (by simp)]
    rfl
  · rw [hheld, judge_of_all (by simp)]
    rfl

end

section
variable (hkind : reqByte (s.mailbox 16) 2 = 2) (hrange : num < 128 * s.member.functions) (hwho : who = 16)
include hkind hrange hwho

omit hi hwho in
theorem eventBad_vector : (s.takenBy 16).eventBad (s.mailbox 16) = false := by
  subst hf hnum
  unfold State.eventBad
  simp only [Bool.or_eq_false_iff, Bool.and_eq_false_iff, decide_eq_false_iff_not]
  simp [hparty, hkind, hrange]

/-- The administrator takes a function's vector that nothing routes to. -/
theorem exec_eventGrant_vector (h2 : reqByte (s.mailbox 16) 1 = 2) (hadmin : (s.vec num).admin = false)
    (h16 : num / 128 < 16) (hroute : s.vecRouted num = false) :
    exec (.eventGrant 16) s = s.decided 16 (.apply ((s.takenBy 16).takeVec num) [] (.grant 2 f num)) := by
  have hbad := eventBad_vector hf hnum hparty hkind hrange
  have hheld : s.vecHolder num = num / 128 := by
    unfold State.vecHolder
    rw [hadmin]
    rfl
  subst hf hnum hwho
  refine turnOf_decided hi (isForm_of · h2) (fun _ => rfl) ?_
  dsimp only
  rw [State.takenBy_party, hparty, judge_pass hbad, hkind, judge_pass (by simp [hroute]), if_neg, if_neg (by decide)]
  · rfl
  · simp [State.eventHolder, hheld]
    omega

theorem exec_eventRevoke_vector (h3 : reqByte (s.mailbox 16) 1 = 3) (hadmin : (s.vec num).admin = true)
    (hout : (s.vec num).outstanding = false) :
    exec (.eventRevoke 16) s = s.decided 16 (.apply (((s.takenBy 16).setVec num
      { s.vec num with admin := false }).dropTarget (.vector num)) [] (.grant 3 f num)) := by
  have hbad := eventBad_vector hf hnum hparty hkind hrange
  have hheld : s.vecHolder num = 16 := by
    unfold State.vecHolder
    rw [hadmin]
    rfl
  subst hf hnum hwho
  refine turnOf_decided hi (isForm_of · h3) (fun _ => rfl) ?_
  dsimp only
  rw [State.takenBy_party, hparty, judge_pass hbad, hkind, judge_of_all, if_neg, if_neg (by decide)]
  · rfl
  · simp [State.eventHolder, hadmin]
  · simp [State.eventHolder, hheld, hout]

end

end

/-- Settles O55: wires by what holds them, vectors between their function and the administrator. -/
theorem wireAndVectorGrants : Obligations.WireAndVectorGrants := fun _ _ hi hparty =>
  ⟨fun hkind h63 h2 => eventGrant_int_cases rfl rfl hi hparty hkind h63 h2,
    fun hkind hrange h2 hwho hadmin h16 hroute =>
      exec_eventGrant_vector rfl rfl hi hparty hkind hrange hwho h2 hadmin h16 hroute,
    fun hkind h63 h3 => eventRevoke_int_cases rfl rfl hi hparty hkind h63 h3,
    fun hkind hrange h3 hwho hadmin hout =>
      exec_eventRevoke_vector rfl rfl hi hparty hkind hrange hwho h3 hadmin hout,
    fun hw r => dropTarget_route hw r⟩

/-! ### Xezan's windows and peers -/

section
variable (hxez : s.member.hasXezan = true)
include hxez

theorem exec_xezanWindow (hi : s.Issues 16 0x0050 [(0, 20)]) (hpages : reqField (s.mailbox 16) 16 4 ≠ 0)
    (hfn : s.member.fnPresent (reqByte (s.mailbox 16) 0) = true) (hw : reqByte (s.mailbox 16) 1 ≤ 15)
    (hfl : reqByte (s.mailbox 16) 2 ≤ 15) (htok : reqField (s.mailbox 16) 4 4 ≠ 0)
    (hmax : reqField (s.mailbox 16) 16 4 ≤ 2 ^ 24)
    (hregion : regionBad (reqField (s.mailbox 16) 8 8) (4096 * reqField (s.mailbox 16) 16 4) = false)
    (hfree : (look {} (s.fn (reqByte (s.mailbox 16) 0)).windows (reqByte (s.mailbox 16) 1)).pages = 0) :
    exec (.xezanWindow 16) s = s.decided 16 (.apply ((s.takenBy 16).setWindow (reqByte (s.mailbox 16) 0)
      (reqByte (s.mailbox 16) 1)
      { pages := reqField (s.mailbox 16) 16 4, base := reqField (s.mailbox 16) 8 8
        read := decide (reqByte (s.mailbox 16) 2 % 2 = 1), write := decide (reqByte (s.mailbox 16) 2 / 2 % 2 = 1)
        coherent := decide (reqByte (s.mailbox 16) 2 / 4 % 2 = 1), sigEn := decide (reqByte (s.mailbox 16) 2 / 8 = 1)
        sigId := reqByte (s.mailbox 16) 3, token := BitVec.ofNat 32 (reqField (s.mailbox 16) 4 4) }) []
      (.config 4)) := by
  refine turnOf_decided hi (fun hc => ?_) (fun _ => rfl) (judge_of_all ?_)
  · rw [hxez, hc]
    simpa using hpages
  · simp only [List.forall_mem_cons, Bool.or_eq_false_iff, decide_eq_false_iff_not]
    refine ⟨?_, fun hpos => hpos.ne' hfree, nofun⟩
    simp [hfn, htok, hregion]
    omega

theorem exec_xezanWindowUnbind (hi : s.Issues 16 0x0050 [(0, 2), (16, 4)])
    (hpages : reqField (s.mailbox 16) 16 4 = 0) (hfn : s.member.fnPresent (reqByte (s.mailbox 16) 0) = true)
    (hw : reqByte (s.mailbox 16) 1 ≤ 15) :
    exec (.xezanWindowUnbind 16) s = s.decided 16 (.apply ((s.takenBy 16).setWindow (reqByte (s.mailbox 16) 0)
      (reqByte (s.mailbox 16) 1) {}) []
      (if 0 < (look {} (s.fn (reqByte (s.mailbox 16) 0)).windows (reqByte (s.mailbox 16) 1)).pages then .config 4
       else .none)) := by
  refine turnOf_decided hi (fun hc => ?_) (fun _ => rfl) (judge_of_all ?_)
  · rw [hxez, hc, hpages]
    rfl
  · simp [hfn, hw]

theorem exec_xezanPeer (hi : s.Issues 16 0x0051 [(0, 10), (16, 8)]) (hop : reqByte (s.mailbox 16) 1 = 1)
    (hport : reqByte (s.mailbox 16) 2 < s.member.xezanPorts) (hretry : reqByte (s.mailbox 16) 3 ≤ 7)
    (hinst : reqField (s.mailbox 16) 4 4 < 2 ^ 18) (hself : reqField (s.mailbox 16) 4 4 ≠ s.opt.instanceId)
    (hopt : s.opt.bad = false)
    (hother : ∀ q ∈ s.xez.peers, q.1 ≠ reqByte (s.mailbox 16) 0 → q.2.bound = true →
      q.2.inst ≠ reqField (s.mailbox 16) 4 4) :
    exec (.xezanPeer 16) s = s.decided 16 (.apply ((s.takenBy 16).setPeer (reqByte (s.mailbox 16) 0)
      { bound := true, inst := reqField (s.mailbox 16) 4 4, port := reqByte (s.mailbox 16) 2
        retry := reqByte (s.mailbox 16) 3, funcMask := BitVec.ofNat 16 (reqField (s.mailbox 16) 8 2)
        remoteFn := BitVec.ofNat 64 (reqField (s.mailbox 16) 16 8) }) [] (.config 8)) := by
  refine turnOf_decided hi (fun hc => ?_) (fun _ => rfl) (judge_of_all ?_)
  · rw [hxez, hc, hop]
    rfl
  · simp only [List.forall_mem_cons, Bool.or_eq_false_iff, decide_eq_false_iff_not, List.any_eq_false]
    simp [hop, hself, hopt]
    refine ⟨by omega, fun k q hq hne hbound => hother (k, q) hq hne hbound⟩

theorem exec_xezanPeerUnbind (hi : s.Issues 16 0x0051 [(0, 2)]) (hop : reqByte (s.mailbox 16) 1 = 0)
    (hopt : s.opt.bad = false) :
    exec (.xezanPeerUnbind 16) s = s.decided 16 (.apply ((s.takenBy 16).setPeer (reqByte (s.mailbox 16) 0) {}) []
      (if (look {} s.xez.peers (reqByte (s.mailbox 16) 0)).bound = true then .config 8 else .none)) :=
  turnOf_decided hi (fun hc => by rw [hxez]; exact isForm_of hc hop) (fun _ => rfl)
    (judge_of_all (by simp [hopt]))

end

/-- What a table filtered by its keys holds. -/
theorem look_filter_key {α : Type} (d : α) (q : Nat → Bool) (l : Tbl α) (n : Nat) :
    look d (l.filter fun e => q e.1) n = if q n = true then look d l n else d := by
  induction l with
  | nil => exact (ite_self d).symm
  | cons e t ih =>
    rw [List.filter_cons, look_cons]
    by_cases he : n = e.1
    · subst he
      rw [if_pos rfl]
      split
      · next hq => rw [look_cons, if_pos rfl]
      · next hq => rw [ih, if_neg hq]
    · rw [if_neg he]
      split
      · rw [look_cons, if_neg he, ih]
      · exact ih

/-- The states of a table whose entry is dropped for peer `e`. -/
theorem look_forget_peer {α : Type} (d : α) (l : Tbl α) (e n : Nat) :
    look d (l.filter fun k => k.1 / 128 != e) n = if n / 128 = e then d else look d l n := by
  rw [look_filter_key d (fun k => k / 128 != e)]
  by_cases he : n / 128 = e
  · rw [if_pos he, if_neg (by simp [he])]
  · rw [if_neg he, if_pos (by simpa using he)]

/-- Settles O56: one lemma for each of the four commands, and the sequence states of the entry start anew. -/
theorem windowAndPeerCommandsApply : Obligations.WindowAndPeerCommandsApply := fun s hxez =>
  ⟨exec_xezanWindow hxez, exec_xezanWindowUnbind hxez, exec_xezanPeer hxez, exec_xezanPeerUnbind hxez,
    fun e _ n => ⟨look_forget_peer {} s.xez.send e n, look_forget_peer {} s.xez.recv e n⟩⟩

end Sys2Proof.Machine
end

section
/-! Firmware: staging (R356 to R358) and activation (R359 to R361). -/

namespace Sys2Proof.Machine

variable {s : State}

/-! ### Pages and images -/

theorem pagePrograms_within {fuel a : Nat} {d : List Byte} (hne : d ≠ []) (hfit : d.length ≤ 256 - a % 256) :
    pagePrograms (fuel + 1) a d = [.program a d] := by
  unfold pagePrograms
  dsimp only
  rw [if_neg (by simpa using hne), List.take_of_length_le hfit, List.drop_eq_nil_of_le hfit]
  cases fuel <;> rfl

/-- At most two pages hold what a DATA step programs. -/
theorem pagePrograms_two {a : Nat} {d : List Byte} (hne : d ≠ []) (hlen : d.length ≤ 240) :
    pagePrograms 2 a d
      = if d.length ≤ 256 - a % 256 then [.program a d]
        else [.program a (d.take (256 - a % 256)), .program (a + (256 - a % 256)) (d.drop (256 - a % 256))] := by
  split
  · next hfit => exact pagePrograms_within hne hfit
  · next hlong =>
    rw [pagePrograms, if_neg (by simpa using hne)]
    dsimp only
    rw [pagePrograms_within]
    · rw [Ne, List.drop_eq_nil_iff]
      exact hlong
    · rw [List.length_drop]
      omega

theorem reqBytes_length (x : Mailbox) (i n : Nat) : (reqBytes x i n).length = n := by
  unfold reqBytes
  rw [List.length_map, List.length_range]

/-- An image verifies when all four checks pass. -/
theorem imageResult_eq_zero (l : List Byte) : imageResult l = 0 ↔ formatOk (imageBytes l 256) = true
    ∧ Config.digestMatches (imageBytes l (imageField (imageBytes l 256) 0x0C 4)) = true
    ∧ Config.signatureVerifies (imageBytes l (imageField (imageBytes l 256) 0x0C 4)) = true
    ∧ imageField (imageBytes l 256) 7 1 = 2 := by
  unfold imageResult
  dsimp only
  cases formatOk (imageBytes l 256) with
  | false => simp
  | true =>
    cases Config.digestMatches (imageBytes l (imageField (imageBytes l 256) 0x0C 4)) with
    | false => simp
    | true =>
      cases Config.signatureVerifies (imageBytes l (imageField (imageBytes l 256) 0x0C 4)) with
      | false => simp
      | true => by_cases hunit : imageField (imageBytes l 256) 7 1 = 2 <;> simp [hunit]

/-! ### FW_STAGE -/

/-- A row's turn on a command whose verdict leaves a state without a reply. -/
theorem turnOf_silent {mb code : Nat} {used : List (Nat × Nat)} {mine : Mailbox → Bool} {served adm : Bool}
    {body : State → Mailbox → Verdict} {t : State} (h : s.Issues mb code used)
    (hm : isCmd code (s.mailbox mb) = true → mine (s.mailbox mb) = true) (ha : adm = true → mb = 16)
    (hv : body (s.takenBy mb) (s.mailbox mb) = .silent t) :
    (Host.Outcome.next (s.turnOf mb mine served adm used body) : Host.Outcome State Fault Refusal) = .next t := by
  rw [turnOf_decided h hm ha hv]
  rfl

/-- A flash step acts on the inactive slot and keeps its reply for its end. -/
theorem flashStep_gaf (mb : Nat) (ops : List FlashOp) (st : BitVec 8) (reply : List Byte) :
    (s.flashStep mb ops st reply).gaf.target = ops.foldl (FlashOp.apply s.gaf.inactive) s.gaf.target
    ∧ (s.flashStep mb ops st reply).gaf.flashOps = ops ∧ (s.flashStep mb ops st reply).gaf.flashMb = some mb
    ∧ (s.flashStep mb ops st reply).gaf.flashStatus = st ∧ (s.flashStep mb ops st reply).gaf.flashReply = reply := by
  refine ⟨?_, rfl, rfl, rfl, rfl⟩
  have hslot : ∀ (g : Gaffer) (k : Nat) (x : Option FlashSlot), (g.setSlot k x).slot = g.slot
      ∧ (g.setSlot k x).slotView k = x := by
    intro g k x
    unfold Gaffer.setSlot Gaffer.slotView
    by_cases hk : k = 0 <;> simp [hk]
  obtain ⟨hkeep, hview⟩ := hslot s.gaf s.gaf.inactive
    (some (ops.foldl (FlashOp.apply s.gaf.inactive) s.gaf.target))
  have hinactive : (s.flashStep mb ops st reply).gaf.inactive = s.gaf.inactive := congrArg (1 - ·) hkeep
  show ((s.flashStep mb ops st reply).gaf.slotView (s.flashStep mb ops st reply).gaf.inactive).getD {} = _
  rw [hinactive]
  exact congrArg (Option.getD · {}) hview

section
variable (hact : s.gaf.act = none)
include hact

theorem exec_fwStageBegin (hi : s.Issues 16 0x0080 [(0, 1)]) (h0 : reqByte (s.mailbox 16) 0 = 0) {u : State}
    (hu : u = { s.takenBy 16 with gaf := { s.gaf with staging := true, staged := 0, verified := none } }) :
    exec (.fwStageBegin 16) s = .next (((u.trace 16 (s.mailbox 16) (.config 8)).flashStep 16
      (beginErases s.gaf.inactive) 0 []).waitFlash 16 true) := by
  subst hu
  refine turnOf_silent hi (fun hc => ?_) (fun _ => rfl) (judge_of_all ?_)
  · rw [hc, h0]
    rfl
  · simp [h0, hact]

theorem exec_fwStageData {len : Nat} (hlen : reqField (s.mailbox 16) 8 2 = len)
    (hi : s.Issues 16 0x0080 [(0, 1), (4, 6), (16, len)]) (h1 : reqByte (s.mailbox 16) 0 = 1)
    (hstage : s.gaf.staging = true) (h4 : 4 ≤ len) (h240 : len ≤ 240) (hword : len % 4 = 0)
    (hoff : reqField (s.mailbox 16) 4 4 = s.gaf.staged) (hend : reqField (s.mailbox 16) 4 4 + len ≤ 131072) {u : State}
    (hu : u = { s.takenBy 16 with gaf := { s.gaf with staged := s.gaf.staged + len } }) :
    exec (.fwStageData 16) s = .next (((u.trace 16 (s.mailbox 16) (.config 8)).flashStep 16
      (pagePrograms 2 (slotBase s.gaf.inactive + s.gaf.staged) (reqBytes (s.mailbox 16) 16 len)) 0 []).waitFlash
        16 true) := by
  subst hu hlen
  refine turnOf_silent hi (isForm_of · h1) (fun _ => rfl) ?_
  dsimp only
  rw [judge_of_all, hoff]
  · rfl
  · simp only [List.forall_mem_cons, Bool.or_eq_false_iff, decide_eq_false_iff_not]
    simp [hstage, hoff, hact]
    omega

/-- END of an open staging: the slot is read back and checked. -/
theorem exec_fwStageEnd {v : FlashSlot} {r : Nat} {st : BitVec 8} (hv : s.gaf.target = v) (hr : imageResult v.image = r)
    (hst : (if r = 0 then 0 else 2) = st) (hi : s.Issues 16 0x0080 [(0, 1)]) (h2 : reqByte (s.mailbox 16) 0 = 2)
    (hstage : s.gaf.staging = true) {u : State}
    (hu : u = (({ s.takenBy 16 with gaf := { s.gaf with
        staging := false, verified := if r = 0 then some v else none } } :
          State).traceAs 16 (s.mailbox 16) st (.config 8)).log 0x40 0xFE
            (leBytes 4 (r + 256 * s.gaf.inactive) ++ leBytes 4 v.version.toNat)) :
    exec (.fwStageEnd 16) s = .next (((if r = 0 then u.raise 1452 else u).flashStep 16 [] st
      (leBytes 4 r ++ leBytes 4 v.version.toNat ++ leBytes 4 v.length ++ leBytes 1 s.gaf.inactive)).waitFlash 16
        (decide (r = 0))) := by
  subst hu hst hr hv
  refine turnOf_silent hi (isForm_of · h2) (fun _ => rfl) ?_
  dsimp only
  rw [State.takenBy_gaf, hstage, hact, if_neg (by decide), if_neg (by decide)]
  rfl

omit hact in
/-- END without a staging describes the slot as it stands. -/
theorem exec_fwStageEnd_closed (hi : s.Issues 16 0x0080 [(0, 1)]) (h2 : reqByte (s.mailbox 16) 0 = 2)
    (hstage : s.gaf.staging = false) :
    exec (.fwStageEnd 16) s = s.decided 16 (.refuse 4 (leBytes 4 (imageResult s.gaf.target.image)
      ++ leBytes 4 s.gaf.target.version.toNat ++ leBytes 4 s.gaf.target.length ++ leBytes 1 s.gaf.inactive)) := by
  refine turnOf_decided hi (isForm_of · h2) (fun _ => rfl) ?_
  dsimp only
  rw [State.takenBy_gaf, hstage, if_pos (by decide)]
  rfl

theorem exec_fwStageCancel (hi : s.Issues 16 0x0080 [(0, 1)]) (h3 : reqByte (s.mailbox 16) 0 = 3) :
    exec (.fwStageCancel 16) s = s.decided 16 (.apply
      { s.takenBy 16 with gaf := { s.gaf with staging := false, staged := 0 } } []
      (if s.gaf.staging = true then .config 8 else .none)) :=
  turnOf_decided hi (isForm_of · h3) (fun _ => rfl) (judge_of_all (by simp [hact]))

end

/-- The end of a flash step gives the reply that it kept. -/
theorem exec_flashOperationDone {m : Nat} (hm : s.gaf.flashMb = some m)
    (hup : s.gaf.state = .running ∨ s.gaf.state = .recovery) {u : State}
    (hu : u = ({ s with gaf := { s.gaf with flashMb := none, flashOps := [] } } : State).modMailbox m fun y =>
      { y with wait := .none }) :
    exec .flashOperationDone s = .next ((if s.gaf.flashStatus = 0 then u.markApplied m s.gaf.flashReply .none
      else u).mbReply m s.gaf.flashStatus s.gaf.flashReply) := by
  subst hu
  show execFlashOperationDone s = _
  unfold execFlashOperationDone
  rw [hm]
  dsimp only
  rw [if_neg]
  rcases hup with h | h <;> rw [h] <;> decide

/-- Settles O57: the forms of FW_STAGE, the end of a flash step, and the checks of an image. -/
theorem stagingCommandsApply : Obligations.StagingCommandsApply := by
  intro s x t hact
  refine ⟨fun hi h0 => ⟨_, rfl, exec_fwStageBegin hact hi h0 rfl⟩,
    fun hi h1 hstage h4 h240 hword hoff hend => ⟨_, rfl, ?_⟩,
    fun hi h2 hstage => ⟨_, rfl, exec_fwStageEnd hact rfl rfl rfl hi h2 hstage rfl⟩, exec_fwStageEnd_closed,
    exec_fwStageCancel hact, fun m hm hup => ⟨fun h0 => ?_, fun hne => ?_⟩, flashStep_gaf 16, imageResult_eq_zero⟩
  · have hbytes := reqBytes_length x 16 (reqField x 8 2)
    rw [exec_fwStageData hact rfl hi h1 hstage h4 h240 hword hoff hend rfl, pagePrograms_two]
    · rw [hbytes]
      rfl
    · rw [← List.length_pos_iff_ne_nil, hbytes]
      omega
    · rw [hbytes]
      exact h240
  · rw [exec_flashOperationDone hm hup rfl, if_pos h0, h0]
  · rw [exec_flashOperationDone hm hup rfl, if_neg hne]

/-! ### Activation -/

theorem exec_fwActivate (hi : s.Issues 16 0x0081 [(0, 1)]) (hact : s.gaf.act = none)
    (hver : s.gaf.verified.isSome = true) (hstage : s.gaf.staging = false)
    (hslot : reqByte (s.mailbox 16) 0 = s.gaf.inactive) :
    exec (.fwActivate 16) s = .next (({ s.takenBy 16 with gaf := { s.gaf with
      act := some { mb := 16, slot := reqByte (s.mailbox 16) 0, step := .loading } } } :
        State).modMailbox 16 fun y => { y with wait := .activation }) := by
  refine turnOf_silent hi id (fun _ => rfl) ?_
  dsimp only
  rw [State.takenBy_gaf, hact, if_neg (by decide), if_neg]
  · rw [hslot, bne_self_eq_false, hstage, Option.isNone_eq_false_iff.2 hver]
    decide

section
variable {a : Activation} (ha : s.gaf.act = some a)
include ha

theorem exec_fwActivateLoadDone (hstep : a.step = .loading) (hrun : s.gaf.state = .running) (ok : Bool) :
    exec (.fwActivateLoadDone ok) s = if ok then .next { s with gaf := { s.gaf with act := some { a with step := .loaded } } }
      else .next (s.endActivation a 2 (activateReply s.gaf.fwVersion s.gaf.actSeq 0 0)) := by
  show execFwActivateLoadDone ok s = _
  unfold execFwActivateLoadDone
  rw [ha]
  dsimp only
  rw [if_pos ⟨hstep, hrun⟩]
  rfl

theorem exec_fwActivatePause (hstep : a.step = .loaded) (hrun : s.gaf.state = .running)
    (hall : s.unanswered a.mb = false) :
    exec .fwActivatePause s = .next ((({ s with gaf := { s.gaf with
      state := .paused, bank := 1 - s.gaf.bank, act := some { a with step := .paused }
      resActivate := satAdd 8 s.gaf.resActivate 1 } } : State).raiseUp 1449).log 0x03 0xFF [3]) := by
  show execFwActivatePause s = _
  unfold execFwActivatePause
  rw [ha]
  dsimp only
  rw [if_pos ⟨hstep, hrun, hall⟩]

theorem exec_fwActivateRecord {v : FlashSlot} (hstep : a.step = .resumed) (hrun : s.gaf.state = .running)
    (hv : s.gaf.verified = some v) (hrec : s.gaf.recovery = false) :
    exec .fwActivateRecord s = .next ((((s.programRecord a v).raise 1453).logActivated 0 a.slot v.version
      a.pauseUs).endActivation a 0 (activateReply v.version (s.gaf.actSeq + 1) a.pauseUs 0)) := by
  show execFwActivateRecord s = _
  unfold execFwActivateRecord
  rw [ha, hv]
  dsimp only
  rw [if_pos (.inl ⟨hstep, hrun⟩), hrec, if_neg (by decide)]

theorem exec_fwActivateResume {v : FlashSlot} {micros : Nat} (hstep : a.step = .paused) (hmax : micros ≤ 200)
    (hv : s.gaf.verified = some v) :
    exec (.fwActivateResume micros) s = .next (({ s with gaf := { s.gaf with
      state := .running, fromSram := true, act := some { a with step := .resumed, pauseUs := micros }
      fwVersion := v.version } } : State).flushLog) := by
  show execFwActivateResume micros s = _
  unfold execFwActivateResume
  rw [ha]
  dsimp only
  rw [if_pos ⟨hstep, hmax⟩, hv]

theorem exec_fwActivateTimeout {micros : Nat} (hstep : a.step = .paused) :
    exec (.fwActivateTimeout micros) s = .next
      (((({ s with gaf := { s.gaf with state := .running, fromSram := true } } : State).flushLog.raiseUp 1449).log 0x03 0xFF
        [4]).rollBack micros) := by
  show execFwActivateTimeout micros s = _
  unfold execFwActivateTimeout
  rw [ha]
  dsimp only
  rw [if_pos hstep]

end

/-- Settles O58: each step of an activation by the step before it. -/
theorem activationSteps : Obligations.ActivationSteps := fun _ =>
  ⟨exec_fwActivate, fun _ ha hrun => ⟨fun hstep => exec_fwActivateLoadDone ha hstep hrun true,
      fun hstep => exec_fwActivateLoadDone ha hstep hrun false, fun hstep => exec_fwActivatePause ha hstep hrun,
      fun _ hstep hv => exec_fwActivateRecord ha hstep hrun hv⟩,
    fun _ _ ha hstep => ⟨fun _ => exec_fwActivateResume ha hstep, exec_fwActivateTimeout ha hstep⟩⟩

end Sys2Proof.Machine
end

section
/-! What a decided command leaves in its mailbox (R341 to R343), and the order in which a command is refused (R343 to R345,
R363). -/

namespace Sys2Proof.Machine

variable {s t : State} {mb : Nat}

/-! ### Mailboxes of a reply -/

/-- The mailbox with its reply. -/
def Mailbox.answered (x : Mailbox) (st : BitVec 8) (reply : List Byte) : Mailbox :=
  { x with data := bufferOf reply, busy := false, done := true, status := st, seqEcho := x.seq, len := reply.length }

/-- The completion event of a mailbox. -/
def mbEvent (mb : Nat) : Nat := if mb = 16 then 1448 else fnEvent mb 2

theorem mbReply_eq (s : State) (mb : Nat) (st : BitVec 8) (reply : List Byte) :
    s.mbReply mb st reply = (s.setMailbox mb ((s.mailbox mb).answered st reply)).raiseUp (mbEvent mb) := rfl

theorem setMailbox_mailbox (s : State) (mb : Nat) (x : Mailbox) : (s.setMailbox mb x).mailbox mb = x :=
  look_put_same _ _ _ _

theorem mailbox_congr {t : State} (h : t.mailboxes = s.mailboxes) (mb : Nat) : t.mailbox mb = s.mailbox mb :=
  congrArg (look ({} : Mailbox) · mb) h

theorem mbReply_mailbox (s : State) (mb : Nat) (st : BitVec 8) (reply : List Byte) :
    (s.mbReply mb st reply).mailbox mb = (s.mailbox mb).answered st reply := by
  have haside := (Aside.refl (s.setMailbox mb ((s.mailbox mb).answered st reply))).raiseUp (mbEvent mb)
  rw [mbReply_eq, mailbox_congr haside.mailboxes, setMailbox_mailbox]

/-- The mailbox of an applied command, with its replay store. -/
def Mailbox.settled (x : Mailbox) (reply : List Byte) (w : MbWait) : Mailbox :=
  { x with applied := true
           store := some { code := x.code, seq := x.seq, reply := reply, ready := w == .none, waits := w } }

theorem conclude_apply (s t : State) (mb : Nat) (reply : List Byte) (log : Trace) :
    s.conclude mb (.apply t reply log) = ((t.trace mb (s.mailbox mb) log).setMailbox mb
      (((t.mailbox mb).settled reply .none).answered 0 reply)).raiseUp (mbEvent mb) := by
  have hmail : (t.trace mb (s.mailbox mb) log).mailbox mb = t.mailbox mb :=
    mailbox_congr (trace_mailboxes t mb (s.mailbox mb) log) mb
  show State.mbReply (State.setMailbox _ mb (Mailbox.settled _ reply .none)) mb 0 reply = _
  rw [mbReply_eq, setMailbox_mailbox, State.setMailbox_setMailbox, hmail]

theorem conclude_apply_mailbox (s t : State) (mb : Nat) (reply : List Byte) (log : Trace) :
    (s.conclude mb (.apply t reply log)).mailbox mb = ((t.mailbox mb).settled reply .none).answered 0 reply := by
  rw [conclude_apply, mailbox_congr ((Aside.refl _).raiseUp (mbEvent mb)).mailboxes, setMailbox_mailbox]

theorem trace_eq_self {x : Mailbox} {l : Trace} (h : mb ≠ 16 ∨ l = .none) : t.trace mb x l = t := by
  unfold State.trace State.traceAs
  cases l with
  | none => rfl
  | config n => exact if_neg (h.resolve_right nofun)
  | grant op fn num => exact if_neg (h.resolve_right nofun)

theorem leBytes_take {n x : Nat} {l : List Byte} : (leBytes n x ++ l).take n = leBytes n x := by
  have hlen : (leBytes n x).length = n := by
    unfold leBytes
    rw [List.length_map, List.length_range]
  rw [List.take_append_of_le_length hlen.ge, List.take_of_length_le hlen.le]

/-- A record of an administrative command is written at once while the Gaffer writes. -/
theorem trace_logs {x : Mailbox} {l : Trace} (hw : t.gaf.writes = true) : l ≠ .none →
    ∃ r : LogRec, t.trace 16 x l = { t with gaf := { t.gaf with
        logs := put t.gaf.logs (t.gaf.logNext % 2048) r, logNext := (t.gaf.logNext + 1) % 2 ^ 32 } }
      ∧ r.source = 0xFE ∧ r.kind = (match l with | .grant _ _ _ => 0x30 | _ => 0x31)
      ∧ r.data.take 2 = leBytes 2 x.code.toNat := by
  have hput : ∀ k d, t.log k 0xFE d = t.putLog (t.mkLog k 0xFE d) := fun _ _ => if_pos hw
  intro hl
  unfold State.trace State.traceAs
  cases l with
  | none => exact absurd rfl hl
  | config n =>
    dsimp only
    rw [if_pos rfl, hput]
    refine ⟨_, rfl, rfl, rfl, ?_⟩
    show (leBytes 2 _ ++ _ ++ _).take 2 = _
    rw [List.append_assoc, leBytes_take]
  | grant op fn num =>
    dsimp only
    rw [if_pos rfl, hput]
    refine ⟨_, rfl, rfl, rfl, ?_⟩
    show (leBytes 2 _ ++ _ ++ _ ++ _ ++ _).take 2 = _
    rw [List.append_assoc, List.append_assoc, List.append_assoc, leBytes_take]

theorem conclude_later (s t : State) (mb : Nat) (w : MbWait) :
    s.conclude mb (.later t w .none) = t.setMailbox mb { (t.mailbox mb).settled [] w with wait := w, again := false } := by
  have hmail : (t.markApplied mb [] w).mailbox mb = (t.mailbox mb).settled [] w := setMailbox_mailbox t mb _
  show (t.setMailbox mb ((t.mailbox mb).settled [] w)).setMailbox mb
    { (t.markApplied mb [] w).mailbox mb with wait := w, again := false } = _
  rw [hmail, State.setMailbox_setMailbox]

/-- Settles O59: the reply is the mailbox's last change, and the record of the log the only other one. -/
theorem repliesAreWritten : Obligations.RepliesAreWritten := by
  intro s t mb reply log st
  have happly := conclude_apply_mailbox (s.takenBy mb) t mb reply log
  have hrefuse := mbReply_mailbox (s.takenBy mb) mb st reply
  have htaken : (s.takenBy mb).mailbox mb = { s.mailbox mb with wait := .none, again := false } :=
    setMailbox_mailbox _ mb _
  refine ⟨⟨fun h => ⟨((t.mailbox mb).settled reply .none).answered 0 reply, ?_⟩, fun h16 hlog hw => ?_, ?_⟩, ?_, fun w => conclude_later _ t mb w⟩
  · rw [conclude_apply, trace_eq_self h]
    rfl
  · subst h16
    obtain ⟨r, htrace, hsrc, hkind, hdata⟩ := trace_logs (x := (s.takenBy 16).mailbox 16) hw hlog
    refine ⟨((t.mailbox 16).settled reply .none).answered 0 reply, r, ?_, hsrc, hkind, ?_⟩
    · rw [conclude_apply, htrace]
      rfl
    · rw [hdata, htaken]
  · rw [happly]
    exact ⟨rfl, rfl, rfl, rfl, rfl, rfl, rfl, rfl⟩
  · show _ ∧ _
    rw [show (s.takenBy mb).conclude mb (.refuse st reply) = (s.takenBy mb).mbReply mb st reply from rfl, hrefuse,
      htaken]
    refine ⟨rfl, rfl, rfl, rfl, rfl, rfl, rfl,
      ({ s.mailbox mb with wait := .none, again := false } : Mailbox).answered st reply, ?_⟩
    rw [mbReply_eq]
    show ((State.setMailbox _ mb _).setMailbox mb _).raiseUp _ = _
    rw [State.setMailbox_setMailbox, htaken]
    rfl

/-! ### Refusals -/

section
variable {mine : Mailbox → Bool} {served adm : Bool} {used : List (Nat × Nat)} {body : State → Mailbox → Verdict}
  (hcan : s.canTake mb = true)
include hcan

/-- A command taken before is answered from the replay store. -/
theorem turnOf_replays (hm : mine (s.mailbox mb) = true) {r : Replay} (hr : (s.mailbox mb).store = some r)
    (hcode : r.code = (s.mailbox mb).code) (hseq : r.seq = (s.mailbox mb).seq) :
    (Host.Outcome.next (s.turnOf mb mine served adm used body) : Host.Outcome State Fault Refusal)
      = .next (({ s with goOrder := s.goOrder.drop 1
                         goTied := if s.goTied.contains mb = true then [] else s.goTied } : State).replayed mb r) := by
  unfold State.turnOf
  dsimp only
  rw [hcan, hm, if_neg (by decide), hr]
  dsimp only
  rw [if_pos ⟨hcode, hseq⟩]

variable (hnew : ∀ r, (s.mailbox mb).store = some r → ¬ (r.code = (s.mailbox mb).code ∧ r.seq = (s.mailbox mb).seq))
include hnew

/-- A command not taken before is judged. -/
theorem turnOf_new (hm : mine (s.mailbox mb) = true) :
    s.turnOf mb mine served adm used body = State.turnOf.go mb served adm used body (s.takenBy mb) (s.mailbox mb) := by
  unfold State.turnOf
  dsimp only
  rw [hcan, hm, if_neg (by decide)]
  split
  · next r hr => exact if_neg (hnew r hr)
  · rfl

theorem turnOf_denies_recovery (hm : mine (s.mailbox mb) = true) (hserved : served = false)
    (hrec : s.gaf.recovery = true) :
    Host.Outcome.next (s.turnOf mb mine served adm used body) = s.decided mb (.refuse 2 []) := by
  rw [turnOf_new hcan hnew hm]
  unfold State.turnOf.go
  rw [if_pos (by rw [hserved]; exact Bool.and_eq_true_iff.2 ⟨hrec, rfl⟩)]
  rfl

theorem turnOf_denies_issuer (hm : mine (s.mailbox mb) = true) (hadm : adm = true) (hne : mb ≠ 16) :
    Host.Outcome.next (s.turnOf mb mine served adm used body) = s.decided mb (.refuse 2 []) := by
  have hissuer : (adm && mb != 16) = true := Bool.and_eq_true_iff.2 ⟨hadm, bne_iff_ne.2 hne⟩
  rw [turnOf_new hcan hnew hm]
  unfold State.turnOf.go
  rw [if_pos hissuer, ite_self]
  rfl

theorem turnOf_refuses_bytes (hm : mine (s.mailbox mb) = true) (hadm : adm = false) (hrec : s.gaf.recovery = false)
    (hbytes : reqZeroOutside (s.mailbox mb) used = false) :
    Host.Outcome.next (s.turnOf mb mine served adm used body) = s.decided mb (.refuse 4 []) := by
  have hrecovery : ((s.takenBy mb).gaf.recovery && !(served && mb == 16)) = false :=
    Bool.and_eq_false_iff.2 (.inl hrec)
  rw [turnOf_new hcan hnew hm]
  unfold State.turnOf.go
  rw [hrecovery, hadm, hbytes]
  rfl

end

theorem isCmd_of {code : Nat} {x : Mailbox} (h : x.code.toNat = code) : isCmd code x = true := beq_iff_eq.2 h

/-- A repetition gives the stored reply, or waits for it. -/
theorem replayed_mailbox (s : State) (mb : Nat) (r : Replay) : (s.replayed mb r).mailbox mb
    = if r.ready = true then ({ s.mailbox mb with applied := true, replay := true } : Mailbox).answered 0 r.reply
      else { s.mailbox mb with applied := true, again := true, wait := r.waits } := by
  unfold State.replayed
  split
  · rw [mbReply_mailbox]
    exact congrArg (Mailbox.answered · 0 r.reply) (setMailbox_mailbox s mb _)
  · exact setMailbox_mailbox s mb _

/-- Settles O60: the replay store, recovery mode, the issuer and the unused bytes, for each of the rows named. -/
theorem refusalsComeInOrder : Obligations.RefusalsComeInOrder := by
  intro s mb hcan
  refine ⟨?_, fun r => ?_, fun hnew => ⟨?_, fun hcode hrec => ?_, ?_, ?_⟩⟩
  · simp only [List.forall_mem_cons]
    refine ⟨?_, ?_, ?_, ?_, ?_, ?_, ?_, ?_, ?_, ?_, ?_, List.forall_mem_nil _⟩ <;>
      exact fun hcode _ hr hrc hrs => turnOf_replays (mine := isCmd _) hcan (isCmd_of hcode) hr hrc hrs
  · dsimp only
    rw [replayed_mailbox]
    cases hready : r.ready with
    | true => exact ⟨rfl, rfl, fun _ => ⟨rfl, rfl, rfl, rfl, rfl, rfl⟩, nofun⟩
    | false => exact ⟨rfl, rfl, nofun, fun _ => ⟨rfl, rfl, rfl⟩⟩
  · simp only [List.forall_mem_cons]
    refine ⟨?_, ?_, ?_, ?_, ?_, ?_, ?_, ?_, List.forall_mem_nil _⟩ <;>
      exact fun hcode hrec => turnOf_denies_recovery (mine := isCmd _) hcan hnew (isCmd_of hcode) rfl hrec
  · exact turnOf_denies_recovery hcan hnew (by rw [hcode]; rfl) rfl hrec
  · simp only [List.forall_mem_cons]
    refine ⟨?_, ?_, ?_, ?_, ?_, List.forall_mem_nil _⟩ <;>
      exact fun hcode hne => turnOf_denies_issuer (mine := isCmd _) hcan hnew (isCmd_of hcode) rfl hne
  · simp only [List.forall_mem_cons]
    refine ⟨?_, ?_, ?_, ?_, ?_, ?_, List.forall_mem_nil _⟩ <;>
      exact fun hcode hrec hbytes => turnOf_refuses_bytes (mine := isCmd _) hcan hnew (isCmd_of hcode) rfl hrec hbytes

end Sys2Proof.Machine
end

section
/-! FUNC_ENABLE, the resets that a command asks for (R332, R334, R349), and what the reset edge of a function leaves (R332,
R196, R197). -/

namespace Sys2Proof.Machine

variable {s t u : State} {p q g n mb : Nat}

/-! ### The commands -/

section
variable {f : Nat} (hf : reqByte (s.mailbox 16) 0 = f) (hfn : s.member.fnPresent f = true)
include hf hfn

theorem exec_funcEnable (hi : s.Issues 16 0x0002 [(0, 2)]) (h1 : reqByte (s.mailbox 16) 1 = 1) :
    exec (.funcEnable 16) s
      = s.decided 16 (.apply (((s.takenBy 16).modFn f fun y => { y with enabled := true }).readyOne f) []
          (if (s.fn f).enabled = true then .none else .config 8)) := by
  subst hf
  refine turnOf_decided hi (fun hc => ?_) (fun _ => rfl) (judge_of_all ?_)
  · rw [hc, h1]
    rfl
  · simp [hfn, h1]

theorem exec_funcDisable (hi : s.Issues 16 0x0002 [(0, 2)]) (h0 : reqByte (s.mailbox 16) 1 = 0) {off : State}
    (hoff : off = (s.takenBy 16).modFn f fun y => { y with enabled := false }) :
    exec (.funcDisable 16) s = s.decided 16
      (if (s.fn f).resetting = true then .later off (.resetDone f) (.config 8)
       else if (s.fn f).enabled = true then .later ((s.takenBy 16).settle (off.fnReset f)) (.resetDone f) (.config 8)
       else .apply (s.takenBy 16) [] .none) := by
  subst hf hoff
  exact turnOf_decided hi (isForm_of · h0) (fun _ => rfl) (judge_of_all (by simp [hfn]))

end

theorem exec_funcReset {f : Nat} (hf : actFn mb (s.mailbox mb) = f) (hi : s.Issues mb 0x0090 [(0, 1)])
    (hfn : s.member.fnPresent f = true) (hnot : (s.fn f).resetting = false) :
    exec (.funcReset mb) s = s.decided mb (.later ((s.takenBy mb).settle ((s.takenBy mb).fnReset f)) (.resetDone f)
      (.config 8)) := by
  subst hf
  exact turnOf_decided hi id nofun (judge_of_all (by simp [hfn, hnot]))

theorem exec_benchReset {b : Nat} (hb : reqByte (s.mailbox 16) 0 = b) (hi : s.Issues 16 0x0091 [(0, 1)])
    (hlt : b < s.member.benches) (hidle : s.benchIdle b = true) :
    exec (.benchReset 16) s = s.decided 16 (.later ((s.takenBy 16).modBench b fun q =>
      { q with rd := {}, wr := {}, scan := 0, resetting := true }) (.bench b) (.config 8)) := by
  subst hb
  refine turnOf_decided hi id (fun _ => rfl) (judge_of_all ?_)
  simp only [List.forall_mem_cons, decide_eq_false_iff_not]
  simp [hlt, hidle]

theorem exec_warmReset (hi : s.Issues 16 0x0092 [(0, 4)]) (hkey : reqField (s.mailbox 16) 0 4 = 0x5741524D) :
    exec (.warmReset 16) s = .next (((s.takenBy 16).trace 16 (s.mailbox 16) (.config 8)).warmAssert 3) :=
  turnOf_silent hi id (fun _ => rfl) (judge_of_all (by simp [hkey]))

/-! ### What abandoning work leaves -/

/-- The channel without its works. -/
def Chan.idleView (c : Chan) : Chan := { c with started := [] }

/-- The configuration of a port, its XOFF and its inbound queue. -/
def Port.setup (x : Port) : Port :=
  { enable := x.enable, dirOut := x.dirOut, holder := x.holder, reserve := x.reserve, limit := x.limit
    highWm := x.highWm, lowWm := x.lowWm, xoff := x.xoff, inq := x.inq }

/-- No transaction of channel `p`. -/
def State.NoTxnOf (s : State) (p : Nat) : Prop := ∀ x ∈ s.txns, x.ofChan p = false

/-- The state without the data path: what no work and no raise reaches. -/
def State.control (s : State) : State :=
  { s with
    chans := [], fns := [], ev := {}, benches := [], txns := [], nextId := 0, ports := [], cru := {}, cul := {}, xez := {} }

/-- `t` has the functions and the control part of `s`, its channels but for their works, the setup of its ports, and no work and no
transaction of a channel that had none. -/
structure Cut (s t : State) : Prop where
  control : t.control = s.control
  fns : t.fns = s.fns
  chan : ∀ p, (t.chan p).idleView = (s.chan p).idleView
  empty : ∀ p, (s.chan p).started = [] → (t.chan p).started = []
  port : ∀ q, (t.port q).setup = (s.port q).setup
  txns : ∀ p, s.NoTxnOf p → t.NoTxnOf p

theorem Cut.refl (s : State) : Cut s s := ⟨rfl, rfl, fun _ => rfl, fun _ h => h, fun _ => rfl, fun _ h => h⟩

theorem Cut.trans (a : Cut s t) (b : Cut t u) : Cut s u :=
  ⟨b.control.trans a.control, b.fns.trans a.fns, fun p => (b.chan p).trans (a.chan p), fun p h => b.empty p (a.empty p h),
    fun q => (b.port q).trans (a.port q), fun p h => b.txns p (a.txns p h)⟩

theorem Cut.ite {c : Prop} [Decidable c] {a b : State} (ha : Cut s a) (hb : Cut s b) : Cut s (if c then a else b) := by
  split <;> assumption

theorem Cut.foldl {α : Type} {f : State → α → State} (l : List α) (h : Cut s t) (hf : ∀ u x, Cut s u → Cut s (f u x)) :
    Cut s (l.foldl f t) := by
  induction l generalizing t with
  | nil => exact h
  | cons a r ih => exact ih (hf t a h)

/-- An update that leaves the functions, the channels and the ports, and adds no transaction of a channel. -/
theorem Cut.upd (h : Cut s t) (hx : ∀ p, t.NoTxnOf p → u.NoTxnOf p := by exact fun _ h => h)
    (hs : u.control = t.control := by rfl) (hf : u.fns = t.fns := by rfl) (hc : u.chans = t.chans := by rfl)
    (hp : u.ports = t.ports := by rfl) : Cut s u :=
  ⟨hs.trans h.control, hf.trans h.fns, fun p => by rw [State.chan, hc]; exact h.chan p,
    fun p hs => by rw [State.chan, hc]; exact h.empty p hs, fun q => by rw [State.port, hp]; exact h.port q,
    fun p hs => hx p (h.txns p hs)⟩

theorem Cut.modWork (h : Cut s t) (p n : Nat) (k : Work → Work) : Cut s (t.modWork p n k) := by
  refine ⟨h.control, h.fns, fun q => ?_, fun q hq => ?_, h.port, h.txns⟩
  · unfold State.modWork
    rw [State.modChan_chan]
    split
    · subst q; exact h.chan p
    · exact h.chan q
  · have hnone := h.empty q hq
    unfold State.modWork
    rw [State.modChan_chan]
    split
    · subst q
      dsimp only
      rw [hnone]
      rfl
    · exact hnone

theorem Cut.setPort (h : Cut s t) {x : Port} (hx : x.setup = (t.port q).setup := by rfl) : Cut s (t.setPort q x) := by
  refine ⟨h.control, h.fns, h.chan, h.empty, fun r => ?_, h.txns⟩
  rw [State.setPort_port]
  split
  · subst r; exact hx.trans (h.port q)
  · exact h.port r

theorem Cut.post (h : Cut s t) {x : Txn} (hx : ∀ p, x.ofChan p = false := by exact fun _ => rfl) : Cut s (t.post x) := by
  refine h.upd fun p hp y hy => ?_
  rcases List.mem_append.1 hy with hy | hy
  · exact hp y hy
  · rw [List.mem_singleton] at hy
    subst hy
    exact hx p

theorem Cut.freeLane (h : Cut s t) (b : Nat) (l : Landing) (n : Nat) : Cut s (t.freeLane b l n) := by
  cases l with
  | lane => exact h.upd
  | drain => exact h.upd
  | port p => exact h.setPort
  | none => exact h

theorem Cut.freeTxn (h : Cut s t) (x : Txn) : Cut s (t.freeTxn x) := by
  unfold State.freeTxn
  split
  · exact h.freeLane _ _ _
  · exact h.freeLane _ _ _
  · exact h.freeLane _ _ _
  · exact h

/-- Transactions kept or replaced by ones of the same owner. -/
theorem noTxnOf_mapIf {l : List Txn} {m k : Txn → Bool} {r : Txn → Txn} (hr : ∀ x, (r x).ofChan p = true → x.ofChan p = true)
    (h : ∀ x ∈ l, x.ofChan p = false) : ∀ x ∈ mapIf m r (l.filter k), x.ofChan p = false := by
  intro x hx
  obtain ⟨y, hy, rfl⟩ := List.mem_map.1 hx
  have hyp := h y (List.mem_of_mem_filter hy)
  split
  · exact Bool.eq_false_iff.2 fun hxp => by rw [hr y hxp] at hyp; cases hyp
  · exact hyp

theorem Cut.dropWhere (h : Cut s t) (m : Txn → Bool) : Cut s (t.dropWhere m) :=
  (h.foldl _ fun _ x k => k.freeTxn x).upd fun _ hp => noTxnOf_mapIf (fun _ hx => hx) hp

theorem Cut.abandonReqs (h : Cut s t) (m : XReq → Bool) : Cut s (t.abandonReqs m) :=
  (h.foldl (f := State.freeReq) (t.xez.reqs.filter m) fun _ x k => k.freeLane _ _ x.space).upd

theorem Cut.leaveQueue (h : Cut s t) (p : Nat) (w : Work) : Cut s (t.leaveQueue p w) := ite h.setPort h

theorem Cut.setCul (h : Cut s t) (c : Cullet) : Cut s { t with cul := c } := h.upd

theorem Cut.writeRec (h : Cut s t) (k : Nat) (r : GobRec) : Cut s (t.writeRec k r) := (h.setCul _).post

theorem Cut.freeMembers (h : Cut s t) (k : Nat) (l : Option (List Nat)) : Cut s (t.freeMembers k l) := by
  unfold State.freeMembers
  dsimp only
  exact Cut.setCul (ite h (h.writeRec k _)) _

theorem Cut.dropChain (h : Cut s t) (w : Work) : Cut s (t.dropChain w) := by
  unfold State.dropChain
  split
  · split
    · exact h
    · exact h.freeMembers _ _
  · split
    · exact h
    · exact h.freeMembers _ _
  · split
    · exact h
    · exact h.freeMembers _ _
  · exact h

theorem Cut.pumpPort (k : Nat) (h : Cut s t) (q : Nat) : Cut s (t.pumpPort k q) := by
  induction k generalizing t with
  | zero => exact h
  | succ k ih =>
    unfold State.pumpPort
    dsimp only
    split
    · exact h
    · split
      · exact h
      · split
        · exact h
        · split
          · exact h
          · exact ih (h.modWork _ _ _).setPort

theorem Cut.cutWork (h : Cut s t) (p : Nat) (w : Work) : Cut s (t.cutWork p w) := by
  have hdrop := (h.dropWhere fun x => x.purpose.serial? == some (p, w.serial) || x.purpose.recFor? == some (p, w.serial))
    |>.leaveQueue p w
  exact ((ite (hdrop.setPort.pumpPort 32 _) hdrop).dropChain w).modWork _ _ _

theorem Cut.abandonWork (h : Cut s t) (p : Nat) (r : Bool) (w : Work) : Cut s (t.abandonWork p r w) :=
  (ite ((h.cutWork p w).abandonReqs _) (h.cutWork p w)).modWork _ _ _

/-! ### The reset edge on the function's channels -/

theorem fnReset_congr {c d : Chan} (h : c.idleView = d.idleView) : c.fnReset = d.fnReset :=
  (congrArg Chan.fnReset h : c.idleView.fnReset = d.idleView.fnReset)

/-- A channel without works is its view without works. -/
theorem idleView_eq {c d : Chan} (hv : c.idleView = d.idleView) (hc : c.started = []) (hd : d.started = []) : c = d := by
  have hself : ∀ x : Chan, x.started = [] → x.idleView = x := fun x hx => by
    unfold Chan.idleView
    rw [← hx]
  rw [← hself c hc, ← hself d hd, hv]

/-- The state of `resetChan` before the channel's transactions and registers go. -/
def State.resetWorks (s : State) (p : Nat) : State :=
  let u := (s.chan p).started.foldl (fun t w => t.abandonWork p true w) s
  (u.txns.filter (Txn.ofChan p)).foldl State.freeTxn u

theorem resetWorks_cut (s : State) (p : Nat) : Cut s (s.resetWorks p) :=
  ((Cut.refl s).foldl _ fun _ w k => k.abandonWork p true w).foldl _ fun _ x k => k.freeTxn x

/-- The transactions that `resetChan` leaves. -/
def State.resetTxns (s : State) (p : Nat) : List Txn :=
  mapIf (Txn.ofChan p) Txn.abandon ((s.resetWorks p).txns.filter fun t =>
    !(t.ofChan p && match t.phase with | .reheat _ => true | _ => false))

theorem resetChan_eq (s : State) (p : Nat) :
    s.resetChan p = ({ s.resetWorks p with txns := s.resetTxns p } : State).modChan p Chan.fnReset := rfl

/-- What the reset edge leaves of the state, channel by channel. -/
theorem resetChan_spec (s : State) (p : Nat) :
    (s.resetChan p).fns = s.fns ∧ (∀ q, ((s.resetChan p).port q).setup = (s.port q).setup)
    ∧ (s.resetChan p).chan p = (s.chan p).fnReset
    ∧ (∀ q, q ≠ p → ((s.resetChan p).chan q).idleView = (s.chan q).idleView
        ∧ ((s.chan q).started = [] → ((s.resetChan p).chan q).started = []))
    ∧ (s.resetChan p).NoTxnOf p ∧ ∀ q, s.NoTxnOf q → (s.resetChan p).NoTxnOf q := by
  have hcut := resetWorks_cut s p
  rw [resetChan_eq]
  refine ⟨hcut.fns, hcut.port, ?_, fun q hq => ?_, fun x hx => ?_, fun q hq => ?_⟩
  · rw [State.modChan_chan, if_pos rfl]
    exact fnReset_congr (hcut.chan p)
  · rw [State.modChan_chan, if_neg hq]
    exact ⟨hcut.chan q, hcut.empty q⟩
  · obtain ⟨y, _, rfl⟩ := List.mem_map.1 hx
    split
    · rfl
    · next hy => exact Bool.eq_false_iff.2 hy
  · exact noTxnOf_mapIf (fun _ hx => nomatch hx) (hcut.txns q hq)

/-- What the resets of a list of channels leave. -/
theorem resetChans_spec (l : List Nat) (s : State) :
    (l.foldl State.resetChan s).fns = s.fns
    ∧ (∀ q, ((l.foldl State.resetChan s).port q).setup = (s.port q).setup)
    ∧ (∀ q, q ∈ l → (l.foldl State.resetChan s).chan q = (s.chan q).fnReset)
    ∧ (∀ q, q ∉ l → ((l.foldl State.resetChan s).chan q).idleView = (s.chan q).idleView
        ∧ ((s.chan q).started = [] → ((l.foldl State.resetChan s).chan q).started = []))
    ∧ ∀ q, (q ∈ l ∨ s.NoTxnOf q) → (l.foldl State.resetChan s).NoTxnOf q := by
  induction l generalizing s with
  | nil => exact ⟨rfl, fun _ => rfl, nofun, fun _ _ => ⟨rfl, id⟩, fun _ h => h.resolve_left nofun⟩
  | cons a l ih =>
    obtain ⟨hfns, hport, hself, hother, hnone, hkeep⟩ := resetChan_spec s a
    obtain ⟨kfns, kport, kself, kother, knone⟩ := ih (s.resetChan a)
    refine ⟨kfns.trans hfns, fun q => (kport q).trans (hport q), fun q hq => ?_, fun q hq => ?_, fun q hq => ?_⟩
    · by_cases hql : q ∈ l
      · refine (kself q hql).trans ?_
        by_cases hqa : q = a
        · subst hqa
          rw [hself]
          rfl
        · exact fnReset_congr (hother q hqa).1
      · obtain rfl : q = a := (List.mem_cons.1 hq).resolve_right hql
        obtain ⟨hview, hempty⟩ := kother q hql
        rw [hself] at hview hempty
        exact idleView_eq hview (hempty rfl) rfl
    · obtain ⟨hne, hql⟩ := not_or.1 (List.mem_cons.not.1 hq)
      obtain ⟨hview, hempty⟩ := hother q hne
      obtain ⟨kview, kempty⟩ := kother q hql
      exact ⟨kview.trans hview, fun h => kempty (hempty h)⟩
    · refine knone q ?_
      rcases hq with hq | hq
      · rcases List.mem_cons.1 hq with rfl | hq
        · exact .inr hnone
        · exact .inl hq
      · exact .inr (hkeep q hq)

/-! ### The reset edge on the function's ports -/

/-- A port without its events. -/
def Port.still (x : Port) : Port := { x with evt := 0 }

/-- The port that a comparison with its watermarks leaves. -/
def Port.compared (x : Port) : Port :=
  if !x.enable then x
  else if !x.xoff && decide (x.highWm ≤ x.level) then
    { x with xoff := true, wmHighSeen := true, highCross := satAdd 16 x.highCross 1 }
  else if x.xoff && decide (x.level ≤ x.lowWm) && decide (0 < x.highWm) then
    { x with xoff := false, wmLowSeen := true, lowCross := satAdd 16 x.lowCross 1 }
  else x

/-- `t` differs from `s` by raised port events and what they bring. -/
structure Noted (s t : State) : Prop where
  fn : ∀ f, (t.fn f).core = (s.fn f).core
  core : ∀ p, (t.chan p).core = (s.chan p).core
  clean : ∀ p, (s.chan p).started = [] → (s.chan p).wantsSignal = none → t.chan p = s.chan p
  txns : ∀ p, s.NoTxnOf p → t.NoTxnOf p
  xez : t.xez = s.xez

theorem Noted.refl (s : State) : Noted s s := ⟨fun _ => rfl, fun _ => rfl, fun _ _ _ => rfl, fun _ h => h, rfl⟩

theorem Noted.trans (a : Noted s t) (b : Noted t u) : Noted s u :=
  ⟨fun f => (b.fn f).trans (a.fn f), fun p => (b.core p).trans (a.core p), fun p hs hw => by
    have hp := a.clean p hs hw
    exact (b.clean p (by rw [hp]; exact hs) (by rw [hp]; exact hw)).trans hp,
    fun p h => b.txns p (a.txns p h), b.xez.trans a.xez⟩

theorem decideVec_ports (s : State) (v : Nat) (force : Bool) : (s.decideVec v force).ports = s.ports := by
  unfold State.decideVec
  dsimp only
  split <;> rfl

theorem decideVec_chans (s : State) (v : Nat) (force : Bool) : (s.decideVec v force).chans = s.chans := by
  unfold State.decideVec
  dsimp only
  split <;> rfl

theorem raiseSignal_ports (s : State) (f k : Nat) : (s.raiseSignal f k).ports = s.ports := by
  unfold State.raiseSignal
  split
  · rfl
  · split <;> rfl

theorem raise_port_still (s : State) (n q : Nat) : ((s.raise n).port q).still = (s.port q).still := by
  have hpending : ((s.setPending n).port q).still = (s.port q).still := by
    unfold State.setPending
    split
    · rfl
    · split
      · rw [State.modPort_port]
        split
        · next hq => rw [hq]; rfl
        · rfl
      · split <;> rfl
  have hdeliver : ∀ r, ((s.setPending n).deliver r).ports = (s.setPending n).ports := by
    intro r
    cases r with
    | none => rfl
    | int w => rfl
    | vector v => exact decideVec_ports _ v false
    | trigOut k => rfl
    | signal f k => exact raiseSignal_ports _ f k
  exact (congrArg (fun l => (look ({} : Port) l q).still) (hdeliver _)).trans hpending

theorem giveSignal_clean {o : Nat} {c : Chan} (hs : c.started = []) (hw : c.wantsSignal = none) : c.giveSignal o = c := by
  unfold Chan.giveSignal
  rw [if_neg (by rw [hw]; nofun), hs]
  exact congrArg (fun l => ({ c with started := l } : Chan)) hs.symm

theorem raise_chan_clean (hn : 1024 ≤ n) (hs : (s.chan p).started = []) (hw : (s.chan p).wantsSignal = none) :
    (s.raise n).chan p = s.chan p := by
  have hpending : (s.setPending n).chan p = s.chan p := by
    unfold State.setPending
    rw [if_neg (by omega)]
    split
    · rfl
    · split <;> rfl
  have hdeliver : ∀ r, ((s.setPending n).deliver r).chan p = (s.setPending n).chan p := by
    intro r
    cases r with
    | none => rfl
    | int w => rfl
    | vector v => exact congrArg (look ({} : Chan) · p) (decideVec_chans _ v false)
    | trigOut k => rfl
    | signal f k =>
      unfold State.deliver State.raiseSignal
      dsimp only
      split
      · next o ho =>
        refine (look_map ({} : Chan) (s.setPending n).chans (fun _ c => c.giveSignal o) p rfl).trans ?_
        exact giveSignal_clean (c := (s.setPending n).chan p) (by rw [hpending]; exact hs) (by rw [hpending]; exact hw)
      · split <;> rfl
  exact (hdeliver _).trans hpending

theorem raise_noTxnOf (h : s.NoTxnOf p) : (s.raise n).NoTxnOf p := by
  have hpending : (s.setPending n).NoTxnOf p := by
    unfold State.NoTxnOf
    rw [setPending_txns]
    exact h
  have hpost : ∀ (t : State) (v : Nat) (x : Txn), t.NoTxnOf p → x.purpose = .msi v → (t.post x).NoTxnOf p := by
    intro t v x ht hx y hy
    rcases List.mem_append.1 hy with hy | hy
    · exact ht y hy
    · rw [List.mem_singleton] at hy
      subst hy
      unfold Txn.ofChan
      rw [hx]
      rfl
  show ((s.setPending n).deliver _).NoTxnOf p
  cases s.route n with
  | none => exact hpending
  | int w => exact hpending
  | vector v =>
    unfold State.deliver State.raiseVec State.decideVec
    dsimp only
    split
    · exact hpost _ v _ hpending rfl
    · exact hpending
  | trigOut k => exact hpending
  | signal f k =>
    unfold State.NoTxnOf State.deliver
    rw [raiseSignal_txns]
    exact hpending

theorem Noted.raise (h : Noted s t) (hn : 1024 ≤ n) : Noted s (t.raise n) :=
  h.trans ⟨fun f => raise_fn_core n f, ((Calm.refl t).raise n).core, fun _ => raise_chan_clean hn,
    fun _ => raise_noTxnOf, ((Aside.refl t).raise n).xez⟩

theorem Noted.setPort (h : Noted s t) (q : Nat) (x : Port) : Noted s (t.setPort q x) :=
  h.trans ⟨fun _ => rfl, fun _ => rfl, fun _ _ _ => rfl, fun _ h => h, rfl⟩

theorem Noted.resetPort (h : Noted s t) (q : Nat) : Noted s (t.resetPort q) := by
  unfold State.resetPort State.compareWm
  have hset := h.setPort q (t.port q).fnReset
  dsimp only
  split
  · exact hset
  · split
    · exact (hset.setPort q _).raise (Nat.le_add_right_of_le (Nat.le_add_right _ _))
    · split
      · exact (hset.setPort q _).raise (Nat.le_add_right_of_le (Nat.le_add_right _ _))
      · exact hset

theorem compareWm_port (s : State) (p q : Nat) :
    ((s.compareWm p).port q).still = if q = p then (s.port p).compared.still else (s.port q).still := by
  unfold State.compareWm Port.compared
  dsimp only
  split
  · split
    · next hq => rw [hq]
    · rfl
  · split
    · rw [raise_port_still, State.setPort_port, apply_ite Port.still]
    · split
      · rw [raise_port_still, State.setPort_port, apply_ite Port.still]
      · split
        · next hq => rw [hq]
        · rfl

theorem resetPort_port (s : State) (p q : Nat) : ((s.resetPort p).port q).still
    = if q = p then (s.port p).fnReset.compared.still else (s.port q).still := by
  unfold State.resetPort
  rw [compareWm_port, State.modPort_port, if_pos rfl]
  split
  · rfl
  · next hq => rw [State.modPort_port, if_neg hq]

theorem Port.fnReset_congr {x y : Port} (h : x.still = y.still) : x.fnReset = y.fnReset :=
  (congrArg Port.fnReset h : x.still.fnReset = y.still.fnReset)

theorem resetPorts_spec (l : List Nat) (hl : l.Nodup) (s : State) : Noted s (l.foldl State.resetPort s)
    ∧ ∀ q, ((l.foldl State.resetPort s).port q).still
        = if q ∈ l then (s.port q).fnReset.compared.still else (s.port q).still := by
  induction l generalizing s with
  | nil => exact ⟨Noted.refl s, fun q => rfl⟩
  | cons a l ih =>
    obtain ⟨hal, hnodup⟩ := List.nodup_cons.1 hl
    obtain ⟨knoted, kport⟩ := ih hnodup (s.resetPort a)
    refine ⟨((Noted.refl s).resetPort a).trans knoted, fun q => (kport q).trans ?_⟩
    have hstep := resetPort_port s a q
    by_cases hqa : q = a
    · subst hqa
      rw [if_neg hal, hstep, if_pos rfl, if_pos List.mem_cons_self]
    · rw [if_neg hqa] at hstep
      rw [Port.fnReset_congr hstep, hstep]
      exact if_congr ⟨List.mem_cons_of_mem a, fun h => (List.mem_cons.1 h).resolve_left hqa⟩ rfl rfl

/-! ### The reset edge -/

section
variable (hw : s.TablesWf)
include hw

theorem mem_chansOf : p ∈ s.chansOf g ↔ (s.chan p).owner.map Prod.fst = some g := by
  unfold State.chansOf
  rw [List.mem_map]
  constructor
  · rintro ⟨e, he, rfl⟩
    obtain ⟨hmem, hown⟩ := List.mem_filter.1 he
    rw [State.chan, look_of_mem {} hw.chans.1 hmem]
    exact beq_iff_eq.1 hown
  · intro hown
    refine ⟨(p, s.chan p), List.mem_filter.2
      ⟨(look_mem_or ({} : Chan) s.chans p).resolve_left fun hnone => ?_, beq_iff_eq.2 hown⟩, rfl⟩
    rw [State.chan, hnone] at hown
    cases hown

omit hw in
theorem mem_portsOf (h : (s.port q).holder = some g) : q ∈ s.portsOf g := by
  refine List.mem_map.2 ⟨(q, s.port q), List.mem_filter.2
    ⟨(look_mem_or ({} : Port) s.ports q).resolve_left fun hnone => ?_, beq_iff_eq.2 h⟩, rfl⟩
  rw [State.port, hnone] at h
  cases h

theorem portsOf_nodup : (s.portsOf g).Nodup := by
  have hpair := (wf_iff_pairwise s.ports).1 hw.ports
  exact ((hpair.filter _).map Prod.fst fun _ _ h => h).imp fun h => Nat.ne_of_lt h

end

/-! The reset edge in four steps: the function's channels, its requests, its registers, its ports. -/

/-- The channels of the function reset, and its requests abandoned. -/
def State.cutOff (s : State) (g : Nat) : State :=
  ((s.chansOf g).foldl State.resetChan s).abandonReqs fun q => q.fn == g && !q.abandoned

/-- The registers and the events of a function reset. -/
def State.fnCleared (t : State) (g : Nat) : State :=
  let u := t.modFn g Fn.fnReset
  { u with ev := u.ev.fnReset g }

/-- The state of `fnReset` before the ports of the function are reset. -/
def State.resetChans (s : State) (g : Nat) : State := (s.cutOff g).fnCleared g

/-- The state of `fnReset` with the ports of the function reset. -/
def State.resetPorts (s : State) (g : Nat) : State :=
  ((s.resetChans g).portsOf g).foldl State.resetPort (s.resetChans g)

/-- The events that the reset of the ports raised are forgotten. -/
def State.evtCleared (t : State) (g : Nat) : State :=
  let u := t.modFn g fun x => { x with evt := 0, sigCnt := [], sigOvf := 0 }
  { u with ports := u.ports.map fun e => (e.1, if e.2.holder = some g then { e.2 with evt := 0 } else e.2)
           ev := u.ev.fnReset g }

theorem fnReset_eq (s : State) (g : Nat) : s.fnReset g = (s.resetPorts g).evtCleared g := rfl

section
variable (t : State) (g : Nat)

theorem fnCleared_fn : (t.fnCleared g).fn g = (t.fn g).fnReset := (State.modFn_fn t g g Fn.fnReset).trans (if_pos rfl)

theorem evtCleared_fn : (t.evtCleared g).fn g = (t.fn g).core :=
  (State.modFn_fn t g g fun x => { x with evt := 0, sigCnt := [], sigOvf := 0 }).trans (if_pos rfl)

theorem evtCleared_port (h : (t.port q).holder = some g) : (t.evtCleared g).port q = (t.port q).still :=
  (look_map ({} : Port) t.ports (fun _ x => if x.holder = some g then { x with evt := 0 } else x) q rfl).trans (if_pos h)

theorem evtCleared_chan (p : Nat) : (t.evtCleared g).chan p = t.chan p := rfl

theorem evtCleared_noTxn (h : t.NoTxnOf p) : (t.evtCleared g).NoTxnOf p := h

theorem evtCleared_xez : (t.evtCleared g).xez = t.xez := rfl

theorem Cut.fnCleared {s : State} (h : Cut s t) : (t.fnCleared g).fn g = (s.fn g).fnReset
    ∧ (∀ q, ((t.fnCleared g).port q).setup = (s.port q).setup)
    ∧ (∀ p, ((t.fnCleared g).chan p).idleView = (s.chan p).idleView)
    ∧ (∀ p, (s.chan p).started = [] → ((t.fnCleared g).chan p).started = [])
    ∧ ∀ p, s.NoTxnOf p → (t.fnCleared g).NoTxnOf p := by
  refine ⟨?_, h.port, h.chan, h.empty, h.txns⟩
  rw [fnCleared_fn, State.fn, h.fns]
  rfl

end

theorem cutOff_cut (s : State) (g : Nat) : Cut ((s.chansOf g).foldl State.resetChan s) (s.cutOff g) :=
  (Cut.refl _).abandonReqs _

theorem fnCleared_kept (h : Kept s t) : Kept s (t.fnCleared g) := by
  have kfn := h.modFn (f := g) (g := Fn.fnReset) fnWf_fnReset
  exact kfn.mk' (h6 := fun h => eventsWf_fnReset h g)

theorem resetChans_kept (s : State) (g : Nat) : Kept s (s.resetChans g) := by
  have kchans := (Kept.refl s).foldl (s.chansOf g) (f := State.resetChan) fun _ p k => k.resetChan p
  exact fnCleared_kept (kchans.abandonReqs fun q => q.fn == g && !q.abandoned)

theorem resetChans_fn (s : State) (g : Nat) : (s.resetChans g).fn g = (s.fn g).fnReset := by
  obtain ⟨hfn, _⟩ := (cutOff_cut s g).fnCleared _ g
  obtain ⟨hfns, _⟩ := resetChans_spec (s.chansOf g) s
  rw [State.resetChans, hfn, State.fn, hfns]
  rfl

theorem resetChans_port (s : State) (g q : Nat) : ((s.resetChans g).port q).setup = (s.port q).setup := by
  obtain ⟨_, hport, _⟩ := (cutOff_cut s g).fnCleared _ g
  obtain ⟨_, hsetup, _⟩ := resetChans_spec (s.chansOf g) s
  exact (hport q).trans (hsetup q)

/-- Requests taken out of the outstanding ones are abandoned. -/
theorem abandonReqs_reqs (t : State) (g : Nat) : ∀ q ∈ (t.abandonReqs fun q => q.fn == g && !q.abandoned).xez.reqs,
    q.fn = g → q.abandoned = true := by
  intro q hq hfn
  obtain ⟨x, hx, rfl⟩ := List.mem_map.1 hq
  by_cases hmine : (x.fn == g && !x.abandoned) = true
  · rw [if_pos hmine]
  · rw [if_neg hmine] at hfn ⊢
    rw [hfn, beq_self_eq_true, Bool.true_and, Bool.not_eq_true, Bool.not_eq_false'] at hmine
    exact hmine

theorem resetChans_reqs (s : State) (g : Nat) : ∀ q ∈ (s.resetChans g).xez.reqs, q.fn = g → q.abandoned = true :=
  abandonReqs_reqs ((s.chansOf g).foldl State.resetChan s) g

section
variable (hw : s.TablesWf)
include hw

theorem resetChans_chan (hp : (s.chan p).owner.map Prod.fst = some g) :
    (s.resetChans g).chan p = (s.chan p).fnReset := by
  obtain ⟨_, _, hview, hempty, _⟩ := (cutOff_cut s g).fnCleared _ g
  obtain ⟨_, _, hself, _, _⟩ := resetChans_spec (s.chansOf g) s
  have hchan := hself p ((mem_chansOf hw).2 hp)
  have hnone : (((s.chansOf g).foldl State.resetChan s).chan p).started = [] := by rw [hchan]; rfl
  exact (idleView_eq (hview p) (hempty p hnone) hnone).trans hchan

theorem resetChans_chan_other (hp : (s.chan p).owner.map Prod.fst ≠ some g) :
    ((s.resetChans g).chan p).idleView = (s.chan p).idleView := by
  obtain ⟨_, _, hview, _⟩ := (cutOff_cut s g).fnCleared _ g
  obtain ⟨_, _, _, hother, _⟩ := resetChans_spec (s.chansOf g) s
  exact (hview p).trans (hother p fun h => hp ((mem_chansOf hw).1 h)).1

theorem resetChans_noTxn (hp : (s.chan p).owner.map Prod.fst = some g) : (s.resetChans g).NoTxnOf p := by
  obtain ⟨_, _, _, _, htxn⟩ := (cutOff_cut s g).fnCleared _ g
  obtain ⟨_, _, _, _, hnone⟩ := resetChans_spec (s.chansOf g) s
  exact htxn p (hnone p (.inl ((mem_chansOf hw).2 hp)))

end

/-! ### What the whole edge leaves -/

section
variable (hw : s.TablesWf)
include hw

theorem resetPorts_noted : Noted (s.resetChans g) (s.resetPorts g)
    ∧ ∀ q, ((s.resetPorts g).port q).still = if q ∈ (s.resetChans g).portsOf g
        then ((s.resetChans g).port q).fnReset.compared.still else ((s.resetChans g).port q).still :=
  resetPorts_spec _ (portsOf_nodup ((resetChans_kept s g).tablesWf hw)) _

theorem fnReset_fn : (s.fnReset g).fn g = { (s.fn g).fnReset with evt := 0, sigCnt := [], sigOvf := 0 } := by
  rw [fnReset_eq, evtCleared_fn, (resetPorts_noted hw).1.fn g, resetChans_fn]
  rfl

theorem fnReset_chan (hp : (s.chan p).owner.map Prod.fst = some g) : (s.fnReset g).chan p = (s.chan p).fnReset := by
  have hchan := resetChans_chan hw hp
  rw [fnReset_eq, evtCleared_chan, (resetPorts_noted hw).1.clean p (by rw [hchan]; rfl) (by rw [hchan]; rfl), hchan]

theorem fnReset_noTxn (hp : (s.chan p).owner.map Prod.fst = some g) : (s.fnReset g).NoTxnOf p := by
  rw [fnReset_eq]
  exact evtCleared_noTxn _ g ((resetPorts_noted hw).1.txns p (resetChans_noTxn hw hp))

theorem fnReset_chan_other (hp : (s.chan p).owner.map Prod.fst ≠ some g) :
    let c := s.chan p; let d := (s.fnReset g).chan p;
    d.owner = c.owner ∧ d.state = c.state ∧ d.cfg = c.cfg ∧ d.ring = c.ring ∧ d.halt = c.halt ∧ d.cpl = c.cpl := by
  have hview := resetChans_chan_other hw hp
  have hcore := (resetPorts_noted (g := g) hw).1.core p
  rw [fnReset_eq, evtCleared_chan]
  generalize (s.resetPorts g).chan p = d at hcore ⊢
  generalize (s.resetChans g).chan p = e at hcore hview
  generalize s.chan p = c at hview
  have hboth : d.core.1 = e.core.1 := congrArg Prod.fst hcore
  have hchain : ∀ {α : Type} (proj : Chan → α), proj d.core.1 = proj e.core.1 ∧ proj e.idleView = proj c.idleView :=
    fun proj => ⟨congrArg proj hboth, congrArg proj hview⟩
  exact ⟨(hchain Chan.owner).1.trans (hchain Chan.owner).2, (hchain Chan.state).1.trans (hchain Chan.state).2,
    (hchain Chan.cfg).1.trans (hchain Chan.cfg).2, (hchain Chan.ring).1.trans (hchain Chan.ring).2,
    (hchain Chan.halt).1.trans (hchain Chan.halt).2, (hchain Chan.cpl).1.trans (hchain Chan.cpl).2⟩

theorem fnReset_reqs : ∀ q ∈ (s.fnReset g).xez.reqs, q.fn = g → q.abandoned = true := by
  rw [fnReset_eq, evtCleared_xez, (resetPorts_noted hw).1.xez]
  exact resetChans_reqs s g

end

theorem Port.setup_holder {x y : Port} (h : x.setup = y.setup) : x.holder = y.holder :=
  (congrArg Port.holder h : x.setup.holder = y.setup.holder)

/-- A comparison with the watermarks changes the XOFF and what counts its changes. -/
theorem Port.compared_eq (x : Port) : ∃ a b c d e, x.compared
    = { x with xoff := a, wmHighSeen := b, wmLowSeen := c, highCross := d, lowCross := e } := by
  unfold Port.compared
  split
  · exact ⟨_, _, _, _, _, rfl⟩
  · split
    · exact ⟨_, _, _, _, _, rfl⟩
    · split
      · exact ⟨_, _, _, _, _, rfl⟩
      · exact ⟨_, _, _, _, _, rfl⟩

theorem Port.compared_holder (x : Port) : x.compared.holder = x.holder := by
  obtain ⟨_, _, _, _, _, h⟩ := x.compared_eq
  rw [h]

theorem Port.still_holder {x y : Port} (h : x.still = y.still) : x.holder = y.holder :=
  (congrArg Port.holder h : x.still.holder = y.still.holder)

/-- An XOFF with HIGH_WM above 0 ends at the reset edge. -/
theorem Port.compared_fnReset {x : Port} (hen : x.enable = true) (hx : x.xoff = true) (hwm : 0 < x.highWm) :
    x.fnReset.compared.xoff = false ∧ x.fnReset.compared.lowCross = 1 ∧ x.fnReset.compared.wmLowSeen = true := by
  have hcompared : x.fnReset.compared
      = { x.fnReset with xoff := false, wmLowSeen := true, lowCross := satAdd 16 x.fnReset.lowCross 1 } := by
    have hwm' : decide (0 < x.fnReset.highWm) = true := decide_eq_true hwm
    have hlow : decide (x.fnReset.level ≤ x.fnReset.lowWm) = true := decide_eq_true (Nat.zero_le _)
    have henable : x.fnReset.enable = true := hen
    have hxoff : x.fnReset.xoff = true := hx
    unfold Port.compared
    rw [if_neg (by rw [henable]; decide), if_neg (by rw [hxoff]; exact Bool.false_ne_true),
      if_pos (by rw [hxoff, hlow, hwm']; rfl)]
  rw [hcompared]
  exact ⟨rfl, rfl, rfl⟩

theorem fnReset_port (hw : s.TablesWf) (hq : (s.port q).holder = some g) : ∃ y : Port,
    y.setup = (s.port q).setup ∧ (s.fnReset g).port q = y.fnReset.compared.still := by
  have hsetup := resetChans_port s g q
  have hheld : ((s.resetChans g).port q).holder = some g := (Port.setup_holder hsetup).trans hq
  have hstill := (resetPorts_noted (g := g) hw).2 q
  rw [if_pos (mem_portsOf hheld)] at hstill
  refine ⟨(s.resetChans g).port q, hsetup, ?_⟩
  rw [fnReset_eq, evtCleared_port _ g, hstill]
  exact (Port.still_holder hstill).trans ((Port.compared_holder _).trans hheld)

/-- Settles O48: each command's turn, and the reset edge by its three parts: channels, function, ports. -/
theorem enableAndResetCommands : Obligations.EnableAndResetCommands := by
  intro s x t f off
  refine ⟨fun hi h1 hfn => exec_funcEnable rfl hfn hi h1, fun hi h0 hfn => ?_,
    fun mb hi hfn hnot => exec_funcReset rfl hi hfn hnot, fun hi hlt hidle => exec_benchReset rfl hi hlt hidle,
    exec_warmReset, fun g hw _ => ⟨fnReset_fn hw, fun p hp => ⟨fnReset_chan hw hp, fun y hy => ?_⟩,
      fun p hp => fnReset_chan_other hw hp, fnReset_reqs hw, fun q hq => ?_⟩⟩
  · have hdisable := exec_funcDisable rfl hfn hi h0 (off := off) rfl
    refine ⟨fun h => ?_, fun h he => ?_, fun h he => ?_⟩
    · rw [hdisable, if_pos h]
    · rw [hdisable, if_neg (by rw [h]; decide), if_pos he]
    · rw [hdisable, if_neg (by rw [h]; decide), if_neg (by rw [he]; decide)]
  · have hnone := fnReset_noTxn hw hp y hy
    unfold Txn.ofChan at hnone
    simpa using hnone
  · obtain ⟨y, hsetup, hport⟩ := fnReset_port hw hq
    have hcross := Port.compared_fnReset (x := y)
    obtain ⟨a, b, c, d, e, hcompared⟩ := Port.compared_eq y.fnReset
    rw [hcompared] at hport hcross
    rw [hport]
    have hfield : ∀ {α : Type} (proj : Port → α), proj y.setup = proj (s.port q).setup := fun proj => congrArg proj hsetup
    exact ⟨(hfield Port.holder).trans hq, hfield Port.enable, hfield Port.dirOut, hfield Port.reserve, hfield Port.limit,
      hfield Port.highWm, hfield Port.lowWm, rfl, rfl, rfl, rfl, rfl, rfl, hfield Port.inq, fun hen hx hwm =>
        hcross ((hfield Port.enable).trans hen) ((hfield Port.xoff).trans hx) (hwm.trans_eq (hfield Port.highWm).symm)⟩

end Sys2Proof.Machine
end

section
/-! The Gaffer's resets, lost clocks and the sensors (R284 to R286, R322, R353, R354, R362). -/

namespace Sys2Proof.Machine

variable {s t u : State} {p n b d : Nat}

/-! ### The control part -/

theorem Calm.control (h : Calm s t) : t.control = s.control :=
  (congrArg State.control h.outside : t.outside.control = s.outside.control)

theorem raise_control (s : State) (n : Nat) : (s.raise n).control = s.control := ((Calm.refl s).raise n).control

theorem raiseUp_control (s : State) (n : Nat) : (s.raiseUp n).control = s.control := by
  unfold State.raiseUp
  split
  · exact raise_control s n
  · rfl

theorem settle_control (s0 s : State) : (s0.settle s).control = s.control := ((Calm.refl s).settle s0).control

theorem compareWm_control (s : State) (p : Nat) : (s.compareWm p).control = s.control :=
  ((Calm.refl s).compareWm p).control

theorem foldl_control {α : Type} {f : State → α → State} (hf : ∀ u x, (f u x).control = u.control) (l : List α)
    (s : State) : (l.foldl f s).control = s.control := by
  induction l generalizing s with
  | nil => rfl
  | cons a l ih => exact (ih (f s a)).trans (hf s a)

theorem control_rst (h : t.control = s.control) : t.rst = s.rst :=
  (congrArg State.rst h : t.control.rst = s.control.rst)

theorem control_safety (h : t.control = s.control) : t.safety = s.safety :=
  (congrArg State.safety h : t.control.safety = s.control.safety)

theorem control_gaf (h : t.control = s.control) : t.gaf = s.gaf :=
  (congrArg State.gaf h : t.control.gaf = s.control.gaf)

/-- A decided status touches the data path only. -/
theorem failWork_control (s : State) (p n : Nat) (st : Status) : (s.failWork p n st).control = s.control := by
  unfold State.failWork
  split
  · rfl
  · next w _ =>
    dsimp only
    split
    · rfl
    · have hcut := ((((Cut.refl s).modWork p n fun x => { x with verdict := some st }).cutWork p w).abandonReqs
        (fun q => q.pch == p && q.serial == n && !q.abandoned)).foldl (laterThan n (s.chan p).started)
        (fun _ x k => k.abandonWork p true x)
      exact (raise_control _ _).trans hcut.control

/-! ### Log records and causes -/

/-- The Gaffer without its log. -/
def Gaffer.unlogged (g : Gaffer) : Gaffer :=
  { g with logs := [], logNext := 0, logQueue := [], logLost := 0, logLostSince := 0 }

theorem log_gaf (s : State) (k src : Nat) (l : List Byte) : (s.log k src l).gaf.unlogged = s.gaf.unlogged := by
  unfold State.log
  split
  · rfl
  · split
    · rfl
    · exact (congrArg Gaffer.unlogged (control_gaf (raise_control _ 1455))).trans rfl

theorem log_rst (s : State) (k src : Nat) (l : List Byte) : (s.log k src l).rst = s.rst := by
  obtain ⟨g, h⟩ := log_aside s k src l
  exact h.rst

/-- A cause keeps the resets and the lost clocks. -/
theorem setCause_keeps (s : State) (b : Nat) : (s.setCause b).rst = s.rst
    ∧ (s.setCause b).safety.clkLoss = s.safety.clkLoss ∧ (s.setCause b).gaf.unlogged = s.gaf.unlogged := by
  cases h : s.safety.asserted with
  | true =>
    rw [setCause_of_asserted h]
    exact ⟨rfl, rfl, rfl⟩
  | false =>
    refine ⟨?_, ?_, ?_⟩
    · unfold State.setCause
      dsimp only
      rw [if_neg (by rw [h]; decide), log_rst, control_rst (raiseUp_control _ _)]
    · rw [setCause_safety_of_released h]
    · unfold State.setCause
      dsimp only
      rw [if_neg (by rw [h]; decide), log_gaf, control_gaf (raiseUp_control _ _)]

theorem setCause_cause (s : State) (b : Nat) : (s.setCause b).safety.cause = s.safety.cause ||| BitVec.ofNat 16 (2 ^ b) := by
  cases h : s.safety.asserted with
  | true => rw [setCause_of_asserted h]
  | false => rw [setCause_safety_of_released h]

theorem setCause_asserted (s : State) (b : Nat) : (s.setCause b).safety.asserted = true := by
  cases h : s.safety.asserted with
  | true =>
    rw [setCause_of_asserted h]
    exact h
  | false => rw [setCause_safety_of_released h]

theorem setCause_bit (hb : b < 16) : (s.setCause b).safety.cause.getLsbD b = true := by
  rw [setCause_cause]
  exact getLsbD_or_pow_same _ hb

/-- `t` has the clocks of `s`, its lost ones, and every cause of `s`. -/
structure Alarmed (s t : State) : Prop where
  stable : t.rst.stable = s.rst.stable
  lost : t.rst.lost = s.rst.lost
  waiting : t.rst.waiting = s.rst.waiting
  clkLoss : t.safety.clkLoss = s.safety.clkLoss
  cause : ∀ b, b < 16 → s.safety.cause.getLsbD b = true → t.safety.cause.getLsbD b = true
  asserted : s.safety.asserted = true → t.safety.asserted = true

theorem Alarmed.refl (s : State) : Alarmed s s := ⟨rfl, rfl, rfl, rfl, fun _ _ => id, id⟩

theorem Alarmed.trans (x : Alarmed s t) (y : Alarmed t u) : Alarmed s u :=
  ⟨y.stable.trans x.stable, y.lost.trans x.lost, y.waiting.trans x.waiting, y.clkLoss.trans x.clkLoss,
    fun b hb h => y.cause b hb (x.cause b hb h), fun h => y.asserted (x.asserted h)⟩

theorem Alarmed.of_control (h : t.control = s.control) : Alarmed s t := by
  have hrst := control_rst h
  have hsafe := control_safety h
  constructor
  · rw [hrst]
  · rw [hrst]
  · rw [hrst]
  · rw [hsafe]
  · rw [hsafe]
    exact fun _ _ => id
  · rw [hsafe]
    exact id

theorem Alarmed.setCause (s : State) (b : Nat) : Alarmed s (s.setCause b) := by
  obtain ⟨hrst, hloss, _⟩ := setCause_keeps s b
  refine ⟨by rw [hrst], by rw [hrst], by rw [hrst], hloss, fun c hc h => ?_, fun _ => setCause_asserted s b⟩
  rw [setCause_cause, getLsbD_or_pow _ hc, h, Bool.or_true]

theorem Alarmed.raiseUp (h : Alarmed s t) (n : Nat) : Alarmed s (t.raiseUp n) :=
  h.trans (Alarmed.of_control (raiseUp_control t n))

/-! ### Works through a raise -/

/-- The works of a channel by what a raise of a signal leaves of them. -/
def Chan.aims (c : Chan) : List (Bool × Option Status × Desc) :=
  c.started.map fun w => (w.abandoned, w.verdict, w.desc)

/-- Every channel of `s` stands in `t` with its works. -/
def Stays (s t : State) : Prop := ∀ e ∈ s.chans, ∃ x ∈ t.chans, x.2.aims = e.2.aims

theorem Stays.refl (s : State) : Stays s s := fun e he => ⟨e, he, rfl⟩

theorem Stays.trans (x : Stays s t) (y : Stays t u) : Stays s u := fun e he => by
  obtain ⟨f, hf, hfe⟩ := x e he
  obtain ⟨k, hk, hkf⟩ := y f hf
  exact ⟨k, hk, hkf.trans hfe⟩

theorem Stays.upd (h : u.chans = s.chans := by rfl) : Stays s u := fun e he => ⟨e, h ▸ he, rfl⟩

/-- A value put over the one that is read takes its place, and every other entry stays. -/
theorem put_look_mem {α β : Type} (dflt : α) (f : α → β) {l : Tbl α} {n : Nat} {v : α} (hv : f v = f (look dflt l n)) :
    ∀ e ∈ l, ∃ x ∈ put l n v, f x.2 = f e.2 := by
  induction l with
  | nil => nofun
  | cons a r ih =>
    obtain ⟨k, w⟩ := a
    intro e he
    unfold put
    rw [look_cons] at hv
    split
    · exact ⟨e, List.mem_cons_of_mem _ he, rfl⟩
    · by_cases hk : n = k
      · rw [if_pos hk]
        rw [if_pos hk] at hv
        rcases List.mem_cons.1 he with rfl | he
        · exact ⟨(n, v), List.mem_cons_self, hv⟩
        · exact ⟨e, List.mem_cons_of_mem _ he, rfl⟩
      · rw [if_neg hk]
        rw [if_neg hk] at hv
        rcases List.mem_cons.1 he with rfl | he
        · exact ⟨(k, w), List.mem_cons_self, rfl⟩
        · obtain ⟨x, hx, hxe⟩ := ih hv e he
          exact ⟨x, List.mem_cons_of_mem _ hx, hxe⟩

theorem Chan.giveSignal_aims (o : Nat) (c : Chan) : (c.giveSignal o).aims = c.aims := by
  unfold Chan.giveSignal
  split
  · rfl
  · unfold Chan.aims mapIf
    rw [List.map_map]
    exact List.map_congr_left fun w _ => by
      dsimp only [Function.comp]
      split <;> rfl

theorem Stays.setPending (s : State) (n : Nat) : Stays s (s.setPending n) := by
  unfold State.setPending
  split
  · exact put_look_mem ({} : Chan) Chan.aims rfl
  · split
    · exact Stays.upd
    · split
      · exact Stays.upd
      · exact Stays.upd

theorem Stays.deliver (s : State) (r : Route) : Stays s (s.deliver r) := by
  cases r with
  | none => exact Stays.refl s
  | int w => exact Stays.refl s
  | vector v => exact Stays.upd (decideVec_chans _ v false)
  | trigOut k => exact Stays.upd
  | signal f k =>
    show Stays s (s.raiseSignal f k)
    unfold State.raiseSignal
    split
    · next o _ =>
      intro e he
      exact ⟨(e.1, e.2.giveSignal o), List.mem_map_of_mem he, e.2.giveSignal_aims o⟩
    · split
      · exact Stays.upd
      · exact Stays.upd

theorem Stays.raise (s : State) (n : Nat) : Stays s (s.raise n) := (Stays.setPending s n).trans (Stays.deliver _ _)

theorem Stays.raiseUp (s : State) (n : Nat) : Stays s (s.raiseUp n) := by
  unfold State.raiseUp
  split
  · exact Stays.raise s n
  · exact Stays.refl s

theorem Stays.log (s : State) (k src : Nat) (l : List Byte) : Stays s (s.log k src l) := by
  unfold State.log
  split
  · exact Stays.upd
  · split
    · exact Stays.upd
    · exact (Stays.upd (u := { s with gaf := _ })).trans (Stays.raise _ 1455)

theorem Stays.setCause (s : State) (b : Nat) : Stays s (s.setCause b) := by
  unfold State.setCause
  dsimp only
  split
  · exact Stays.upd
  · exact ((Stays.upd (u := { s with safety := _ })).trans (Stays.raiseUp _ 1416)).trans (Stays.log _ _ _ _)

/-- A channel names a stream port of group `g` by its works. -/
theorem inGroup_isSome_iff (g : Nat) (c : Chan) : (c.inGroup g).isSome = c.aims.any fun x =>
    (!x.1 && x.2.1.isNone) && ((x.2.2.toPort && x.2.2.dstAddr / 16 == g) || (x.2.2.takes && x.2.2.srcAddr / 16 == g)) := by
  unfold Chan.inGroup Chan.aims
  rw [List.any_map, Bool.eq_iff_iff, List.find?_isSome, List.any_eq_true]
  rfl

theorem Stays.inGroup (h : Stays s t) {g : Nat} (hs : (s.chans.any fun e => (e.2.inGroup g).isSome) = true) :
    (t.chans.any fun e => (e.2.inGroup g).isSome) = true := by
  obtain ⟨e, he, hg⟩ := List.any_eq_true.1 hs
  obtain ⟨x, hx, haims⟩ := h e he
  refine List.any_eq_true.2 ⟨x, hx, ?_⟩
  rw [inGroup_isSome_iff] at hg ⊢
  rw [haims]
  exact hg

/-! ### The Gaffer's resets -/

/-- The Gaffer's reset edge as it stands after the reset: held, without a staging and without an activation. -/
def Gaffer.atReset (g : Gaffer) : Prop := g.state = .booting ∧ g.staging = false

theorem atReset_of_unlogged {g h : Gaffer} (he : g.unlogged = h.unlogged) : g.atReset → h.atReset := by
  rintro ⟨hstate, hstaging⟩
  have hs : g.state = h.state := (congrArg Gaffer.state he : g.unlogged.state = h.unlogged.state)
  have ht : g.staging = h.staging := (congrArg Gaffer.staging he : g.unlogged.staging = h.unlogged.staging)
  exact ⟨hs ▸ hstate, ht ▸ hstaging⟩

theorem restored_atReset {g : Gaffer} (h : g.atReset) : g.restored.atReset := by
  unfold Gaffer.restored
  split
  · exact h
  · exact h

theorem act_of_unlogged {g h : Gaffer} (he : g.unlogged = h.unlogged) : g.act = h.act :=
  (congrArg Gaffer.act he : g.unlogged.act = h.unlogged.act)

theorem setMailbox_gaf (s : State) (m : Nat) (x : Mailbox) : (s.setMailbox m x).gaf = s.gaf ∧ (s.setMailbox m x).rst = s.rst :=
  ⟨rfl, rfl⟩

theorem mbReply_gaf (s : State) (m : Nat) (st : BitVec 8) (l : List Byte) :
    (s.mbReply m st l).gaf = s.gaf ∧ (s.mbReply m st l).rst = s.rst := by
  have hcontrol := raiseUp_control (s.setMailbox m ((s.mailbox m).answered st l)) (mbEvent m)
  rw [mbReply_eq]
  exact ⟨(control_gaf hcontrol).trans rfl, (control_rst hcontrol).trans rfl⟩

theorem unactivate_gaf (s : State) (a : Activation) (k : Nat) : (s.unactivate a k).rst = s.rst
    ∧ (s.unactivate a k).gaf.unlogged
      = ({ s.gaf.restored with act := none, resRollback := satAdd 8 s.gaf.resRollback 1 } : Gaffer).unlogged := by
  unfold State.unactivate State.logActivated
  dsimp only
  constructor
  · rw [log_rst, control_rst (raiseUp_control _ 1454)]
    rfl
  · rw [log_gaf, control_gaf (raiseUp_control _ 1454)]
    rfl

theorem rollBack_gaf (h : s.gaf.atReset) (k : Nat) :
    (s.rollBack k).rst = s.rst ∧ (s.rollBack k).gaf.atReset ∧ (s.rollBack k).gaf.act = none := by
  unfold State.rollBack
  split
  · next hact => exact ⟨rfl, h, hact⟩
  · next a _ =>
    obtain ⟨hrst, hgaf⟩ := unactivate_gaf s a k
    have hreset := atReset_of_unlogged hgaf.symm (restored_atReset h)
    have hact := act_of_unlogged hgaf
    dsimp only
    split
    · obtain ⟨kgaf, krst⟩ := mbReply_gaf ((s.unactivate a k).log 0x31 0xFE
        ([0x81, 0, 2, 0] ++ reqBytes (s.mailbox a.mb) 0 8)) a.mb 2 (activateReply s.gaf.restored.fwVersion
          s.gaf.restored.actSeq k 1)
      have hlog := log_gaf (s.unactivate a k) 0x31 0xFE ([0x81, 0, 2, 0] ++ reqBytes (s.mailbox a.mb) 0 8)
      rw [kgaf, krst, log_rst]
      exact ⟨hrst, atReset_of_unlogged hlog.symm hreset, (act_of_unlogged hlog).trans hact⟩
    · exact ⟨hrst, hreset, hact⟩

theorem answerBusy_gaf (s : State) (m : Nat) : (s.answerBusy m).gaf = s.gaf ∧ (s.answerBusy m).rst = s.rst := by
  unfold State.answerBusy
  dsimp only
  split
  · exact mbReply_gaf (s.setMailbox m { s.mailbox m with again := false, wait := .none }) m 1 []
  · exact ⟨rfl, rfl⟩

theorem answerAllBusy_gaf (l : List Nat) (s : State) :
    (l.foldl State.answerBusy s).gaf = s.gaf ∧ (l.foldl State.answerBusy s).rst = s.rst := by
  induction l generalizing s with
  | nil => exact ⟨rfl, rfl⟩
  | cons m l ih =>
    obtain ⟨hgaf, hrst⟩ := answerBusy_gaf s m
    obtain ⟨kgaf, krst⟩ := ih (s.answerBusy m)
    exact ⟨kgaf.trans hgaf, krst.trans hrst⟩

/-- The state of a Gaffer reset before its roll back and its answers. -/
def State.gafferHeld (s : State) (cause : Nat) : State :=
  (({ s with rst := { s.rst with gaffer := false }
             gaf := { s.gaf with state := .booting, down := true, staging := false, flashMb := none } } : State).raiseUp
    1449).log 0x03 0xFF [BitVec.ofNat 8 cause]

theorem gafferReset_eq (s : State) (cause : Nat) : s.gafferReset cause =
    { (List.range 17).foldl State.answerBusy ((s.gafferHeld cause).rollBack 0) with goOrder := [], goTied := [] } := rfl

theorem gafferHeld_gaf (s : State) (cause : Nat) :
    (s.gafferHeld cause).gaf.atReset ∧ (s.gafferHeld cause).rst.gaffer = false := by
  unfold State.gafferHeld
  constructor
  · refine atReset_of_unlogged (log_gaf _ _ _ _).symm ?_
    rw [control_gaf (raiseUp_control _ 1449)]
    exact ⟨rfl, rfl⟩
  · rw [log_rst, control_rst (raiseUp_control _ 1449)]

theorem gafferReset_spec (s : State) (cause : Nat) : (s.gafferReset cause).rst.gaffer = false
    ∧ (s.gafferReset cause).gaf.state = .booting ∧ (s.gafferReset cause).gaf.staging = false
    ∧ (s.gafferReset cause).gaf.act = none ∧ (s.gafferReset cause).goOrder = [] ∧ (s.gafferReset cause).goTied = [] := by
  obtain ⟨hheld, hrst⟩ := gafferHeld_gaf s cause
  obtain ⟨krst, kgaf, kact⟩ := rollBack_gaf hheld 0
  obtain ⟨agaf, arst⟩ := answerAllBusy_gaf (List.range 17) ((s.gafferHeld cause).rollBack 0)
  rw [gafferReset_eq]
  generalize (List.range 17).foldl State.answerBusy ((s.gafferHeld cause).rollBack 0) = t at agaf arst
  refine ⟨?_, ?_, ?_, ?_, rfl, rfl⟩
  · rw [arst, krst, hrst]
  · rw [agaf]
    exact kgaf.1
  · rw [agaf]
    exact kgaf.2
  · rw [agaf]
    exact kact

/-! ### CLOCK_LOSS and REFCLK_LOSS -/

/-- The state of a lost clock before what follows the loss of its domain. -/
def State.clockGone (s : State) (d : Nat) : State :=
  { s with
    rst := { s.rst with stable := s.rst.stable &&& ~~~ bit9 d, waiting := s.rst.waiting ||| bit9 d
                        lost := s.rst.lost ||| bit9 d, memLost := s.rst.memLost || decide (d ≤ 1) }
    safety := { s.safety with clkLoss := s.safety.clkLoss ||| BitVec.ofNat 10 (2 ^ d) }
    gaf := { s.gaf with sensors := { s.gaf.sensors with clkKhz := put s.gaf.sensors.clkKhz d 0 } } }

theorem exec_clockLoss (hd : d < 9) (hs : s.rst.stable.getLsbD d = true) : exec (.clockLoss d) s
    = .next (s.settle ((((s.clockGone d).setCause 6).raiseUp 1415).domainLost d)) := by
  show execClockLoss d s = _
  unfold execClockLoss
  rw [if_pos (by rw [decide_eq_true hd, hs]; rfl)]
  rfl

theorem groupLost_alarmed (s : State) (g : Nat) : Alarmed s (s.groupLost g)
    ∧ ((s.chans.any fun e => (e.2.inGroup g).isSome) = true → (s.groupLost g).safety.cause.getLsbD 5 = true) := by
  unfold State.groupLost
  dsimp only
  generalize hhit : (s.chans.filterMap fun e => (e.2.inGroup g).map fun w => (e.1, w.serial)) = hit
  have hfail := foldl_control (f := fun t (e : Nat × Nat) => t.failWork e.1 e.2 .stall)
    (fun u x => failWork_control u x.1 x.2 .stall) hit s
  generalize hit.foldl (fun t (e : Nat × Nat) => t.failWork e.1 e.2 .stall) s = v at hfail
  have hports : ∀ u : State, ((u.ports.filter fun e => e.1 / 16 == g).foldl
      (fun t e => (t.modPort e.1 Port.clockLost).compareWm e.1) u).control = u.control := fun u =>
    foldl_control (fun t (e : Nat × Port) => (compareWm_control (t.modPort e.1 Port.clockLost) e.1).trans rfl) _ u
  refine ⟨((Alarmed.of_control hfail).trans ?_).trans (Alarmed.of_control (hports _)), fun hany => ?_⟩
  · split
    · exact Alarmed.refl v
    · exact Alarmed.setCause v 5
  · have hne : hit.isEmpty = false := by
      obtain ⟨e, he, hg⟩ := List.any_eq_true.1 hany
      obtain ⟨w, hw⟩ := Option.isSome_iff_exists.1 hg
      rw [List.isEmpty_eq_false_iff, ← hhit]
      exact List.ne_nil_of_mem (List.mem_filterMap.2 ⟨e, he, by rw [hw]; rfl⟩)
    rw [control_safety (hports _), if_neg (by rw [hne]; decide)]
    exact setCause_bit (by decide)

theorem domainLost_alarmed (s : State) (d : Nat) : Alarmed s (s.domainLost d) := by
  unfold State.domainLost
  split
  · exact ⟨rfl, rfl, rfl, rfl, fun _ _ => id, id⟩
  · split
    · exact (groupLost_alarmed s _).1
    · split
      · exact ⟨rfl, rfl, rfl, rfl, fun _ _ => id, id⟩
      · split
        · unfold State.gclkLost
          refine Alarmed.raiseUp ?_ 1449
          exact ⟨rfl, rfl, rfl, rfl, fun _ _ => id, id⟩
        · split
          · exact ⟨rfl, rfl, rfl, rfl, fun _ _ => id, id⟩
          · exact Alarmed.refl s

theorem gclkLost_held (s : State) : s.gclkLost.gaf.state = .booting ∧ s.gclkLost.rst.gaffer = false := by
  unfold State.gclkLost
  rw [control_gaf (raiseUp_control _ 1449), control_rst (raiseUp_control _ 1449)]
  exact ⟨rfl, rfl⟩

/-- What the loss of a clock leaves (R284, R322). -/
theorem clockLoss_spec (hd : d < 9) : ∃ t, t = s.settle ((((s.clockGone d).setCause 6).raiseUp 1415).domainLost d)
    ∧ t.rst.stable.getLsbD d = false ∧ t.rst.lost.getLsbD d = true ∧ t.rst.waiting.getLsbD d = true
    ∧ t.safety.clkLoss.getLsbD d = true ∧ t.safety.cause.getLsbD 6 = true ∧ t.safety.asserted = true
    ∧ (3 ≤ d → d ≤ 6 → (s.chans.any fun e => (e.2.inGroup (d - 3)).isSome) = true → t.safety.cause.getLsbD 5 = true)
    ∧ (d = 8 → t.gaf.state = .booting ∧ t.rst.gaffer = false) := by
  have hcause : Alarmed ((s.clockGone d).setCause 6) (((s.clockGone d).setCause 6).raiseUp 1415) :=
    Alarmed.of_control (raiseUp_control _ 1415)
  have hstays : Stays s (((s.clockGone d).setCause 6).raiseUp 1415) :=
    ((Stays.upd (u := s.clockGone d)).trans (Stays.setCause _ 6)).trans (Stays.raiseUp _ 1415)
  have hgone := Alarmed.setCause (s.clockGone d) 6
  generalize hv : ((s.clockGone d).setCause 6).raiseUp 1415 = v at hcause hstays
  have hsettle := settle_control s (v.domainLost d)
  have hall := (hcause.trans (domainLost_alarmed v d)).trans (Alarmed.of_control hsettle)
  have hrest := hgone.trans hall
  refine ⟨_, rfl, ?_, ?_, ?_, ?_, ?_, ?_, fun h3 h6 hany => ?_, fun h8 => ?_⟩
  · rw [hrest.stable]
    show (s.rst.stable &&& ~~~ BitVec.ofNat 9 (2 ^ d)).getLsbD d = false
    rw [BitVec.getLsbD_and, BitVec.getLsbD_not, BitVec.getLsbD_ofNat, Nat.testBit_two_pow_self, decide_eq_true hd]
    exact Bool.and_false _
  · rw [hrest.lost]
    exact getLsbD_or_pow_same _ hd
  · rw [hrest.waiting]
    exact getLsbD_or_pow_same _ hd
  · rw [hrest.clkLoss]
    exact getLsbD_or_pow_same _ (by omega)
  · exact hall.cause 6 (by decide) (setCause_bit (by decide))
  · exact hall.asserted (setCause_asserted _ 6)
  · rw [control_safety hsettle]
    unfold State.domainLost
    rw [if_neg (by omega), if_pos ⟨h3, h6⟩]
    exact (groupLost_alarmed v (d - 3)).2 (hstays.inGroup hany)
  · subst h8
    rw [control_gaf hsettle, control_rst hsettle]
    exact gclkLost_held v

theorem refclkLoss_spec (hup : cclkUp s = true ∨ s.rst.stable.getLsbD 8 = true) (hon : s.rst.refLost = false) :
    ∃ t, exec .refclkLoss s = .next t ∧ t.rst.refLost = true ∧ t.safety.alarmP = false ∧ t.safety.alarmN = false
      ∧ t.safety.cause.getLsbD 6 = true ∧ t.safety.clkLoss.getLsbD 9 = true := by
  have hexec : exec .refclkLoss s = execRefclkLoss s := rfl
  rw [hexec]
  unfold execRefclkLoss
  rw [if_pos (by rcases hup with h | h <;> simp [h, hon])]
  dsimp only
  generalize hu : ({ s with rst := { s.rst with refLost := true }
                            safety := { s.safety with clkLoss := s.safety.clkLoss ||| 0x200 } } : State) = u
  obtain ⟨hrst, hloss, _⟩ := setCause_keeps u 6
  have hcause := setCause_bit (s := u) (b := 6) (by decide)
  generalize u.setCause 6 = v at hrst hloss hcause
  refine ⟨_, rfl, ?_, rfl, rfl, hcause, ?_⟩
  · show v.rst.refLost = true
    rw [hrst, ← hu]
  · show v.safety.clkLoss.getLsbD 9 = true
    rw [hloss, ← hu]
    exact getLsbD_or_pow_same (i := 9) _ (by decide)

/-! ### Sensors -/

theorem exec_thermalSample {v : BitVec 16} (hn : n < 4) (hok : look false s.gaf.sensors.faulty n = false) :
    exec (.thermalSample n v) s = .next (
      if (look true s.gaf.sensors.armed n && decide (s.gaf.sensors.thermHigh.toInt ≤ v.toInt)) = true then
        ((s.modSensors fun y => { y.sample n v with armed := put y.armed n false }).sensorEvent (1424 + n) v.toNat)
      else if v.toInt < s.gaf.sensors.thermHigh.toInt - 16 then
        s.modSensors fun y => { y.sample n v with armed := put y.armed n true }
      else s.modSensors fun y => y.sample n v) := by
  show execThermalSample n v s = _
  unfold execThermalSample
  dsimp only
  rw [if_neg (by rw [hok]; rintro (h | h); exacts [absurd h (by omega), nomatch h])]
  split
  · rfl
  · split <;> rfl

theorem thermalSample_cases {v : BitVec 16} (hn : n < 4) (hok : look false s.gaf.sensors.faulty n = false) :
    (look true s.gaf.sensors.armed n = true → s.gaf.sensors.thermHigh.toInt ≤ v.toInt → exec (.thermalSample n v) s
      = .next ((s.modSensors fun y => { y.sample n v with armed := put y.armed n false }).sensorEvent (1424 + n) v.toNat))
    ∧ (v.toInt < s.gaf.sensors.thermHigh.toInt - 16 → exec (.thermalSample n v) s
      = .next (s.modSensors fun y => { y.sample n v with armed := put y.armed n true }))
    ∧ (s.gaf.sensors.thermHigh.toInt - 16 ≤ v.toInt →
        (look true s.gaf.sensors.armed n = false ∨ v.toInt < s.gaf.sensors.thermHigh.toInt) →
      exec (.thermalSample n v) s = .next (s.modSensors fun y => y.sample n v)) := by
  rw [exec_thermalSample hn hok]
  refine ⟨fun harmed hhigh => ?_, fun hlow => ?_, fun hlow hquiet => ?_⟩
  · rw [harmed, decide_eq_true hhigh, if_pos (by decide)]
  · rw [decide_eq_false (by omega), Bool.and_false, if_neg (by decide), if_pos hlow]
  · have hno : (look true s.gaf.sensors.armed n && decide (s.gaf.sensors.thermHigh.toInt ≤ v.toInt)) = false := by
      rcases hquiet with h | h
      · rw [h, Bool.false_and]
      · rw [decide_eq_false (by omega), Bool.and_false]
    rw [hno, if_neg (by decide), if_neg (by omega)]

theorem droop_cases {mv : Nat} (hn : n < 3) :
    (mv < s.gaf.sensors.droopLow → look false s.gaf.sensors.excursion n = false → exec (.droopExcursion n mv) s
      = .next ((s.modSensors fun y => { y with
          droopMin := put y.droopMin n (min (look mv y.droopMin n) mv), excursion := put y.excursion n true
          droopCnt := put y.droopCnt n (satAdd 16 (look 0 y.droopCnt n) 1) }).sensorEvent (1428 + n) mv))
    ∧ (s.gaf.sensors.droopLow ≤ mv ∨ look false s.gaf.sensors.excursion n = true → exec (.droopExcursion n mv) s
      = .next (s.modSensors fun y => { y with droopMin := put y.droopMin n (min (look mv y.droopMin n) mv) }))
    ∧ (look false s.gaf.sensors.excursion n = true → s.gaf.sensors.droopLow + 10 ≤ mv →
        exec (.droopExcursionEnd n mv) s
      = .next (s.modSensors fun y => { y with excursion := put y.excursion n false })) := by
  have hexec : exec (.droopExcursion n mv) s = execDroopExcursion n mv s := rfl
  have hend : exec (.droopExcursionEnd n mv) s = execDroopExcursionEnd n mv s := rfl
  rw [hexec, hend]
  unfold execDroopExcursion execDroopExcursionEnd
  dsimp only
  rw [if_neg (by omega)]
  refine ⟨fun hlow hnew => if_pos ⟨hlow, hnew⟩, fun hno => if_neg ?_, fun hon hhigh => if_pos ⟨hn, hon, hhigh⟩⟩
  rintro ⟨hlow, hnew⟩
  rcases hno with h | h
  · omega
  · rw [hnew] at h
    cases h

/-- Settles O45: resets of the Gaffer, lost clocks, and the sensors' samples, events and faults. -/
theorem lossesAndSensors : Obligations.LossesAndSensors := by
  intro s
  refine ⟨fun hup hstate => ⟨?_, fun hfull => ⟨_, rfl, ?_⟩⟩, gafferReset_spec s, fun d hd hs => ?_, refclkLoss_spec,
    fun n hn hok v => thermalSample_cases hn hok, fun n mv hn => droop_cases hn, fun n hn => ?_, fun n hn => ?_,
    fun _ _ => rfl, fun d khz hd => if_pos hd⟩
  · exact if_pos (by rw [hup]; simpa using hstate)
  · exact if_pos (by rw [hup, hfull]; simpa using hstate)
  · obtain ⟨t, ht, hspec⟩ := clockLoss_spec (s := s) hd
    exact ⟨t, by rw [exec_clockLoss hd hs, ht], hspec⟩
  · show execSensorFault n s = _
    unfold execSensorFault
    rw [if_pos hn, if_pos hn]
    rfl
  · show execSensorFault n s = _
    unfold execSensorFault
    rw [if_neg (by omega), if_neg (by omega)]

end Sys2Proof.Machine
end

section
/-! The option load and the bring-up (R325 to R327, R335, R336, R338, R356, R363). -/

namespace Sys2Proof.Machine

variable {s t : State} {n : Nat}

/-! ### The option map -/

theorem startRelease_opt (s : State) : s.startRelease.opt = s.opt ∧ s.startRelease.rst.optLoading = s.rst.optLoading := by
  unfold State.startRelease
  split
  · exact ⟨rfl, rfl⟩
  · exact ⟨rfl, rfl⟩

theorem loadDone_opt (s : State) (o : Opt) : (s.loadDone o).opt = o ∧ (s.loadDone o).rst.optLoading = false := by
  obtain ⟨hopt, hload⟩ := startRelease_opt { s with
    opt := o, rst := { s.rst with optLoading := false, optReq := false }
    safety := { s.safety with alarmN := !s.rst.refLost } }
  exact ⟨hopt, hload⟩

/-- What a failed load leaves (R327). -/
theorem loadFailed_spec (s : State) (why : OptReason) : (s.loadFailed why).opt = optSafe s.member s.opt why
    ∧ (s.loadFailed why).safety.cause.getLsbD 8 = true ∧ (s.loadFailed why).rst.optLoading = false := by
  obtain ⟨hopt, hload⟩ := loadDone_opt s (optSafe s.member s.opt why)
  unfold State.loadFailed
  dsimp only
  generalize s.loadDone (optSafe s.member s.opt why) = u at hopt hload
  obtain ⟨hrst, _, _⟩ := setCause_keeps { u with rst := { u.rst with optEvent := true } } 8
  refine ⟨?_, ?_, ?_⟩
  · exact (((Kept.refl _).setCause 8).log 0x50 0xFF [BitVec.ofNat 8 why.code]).opt.trans hopt
  · rw [log_safety]
    exact setCause_bit (by decide)
  · rw [log_rst, hrst]
    exact hload

/-- The state with its next option word. -/
def State.optTaken (s : State) (v : W32) : State :=
  { s with opt := { s.opt with words := put s.opt.words s.rst.optNext v }
           rst := { s.rst with optNext := s.rst.optNext + 1, optReq := false } }

section
variable (hcold : s.rst.coldHeld = false) (hload : s.rst.optLoading = true)
include hcold hload

theorem exec_optWordRead (v : W32) : exec (.optWordRead v) s = .next (
    if s.rst.optNext < 15 then s.optTaken v
    else if (crc16 (optBytes fun i => look 0 (s.optTaken v).opt.words i)).toNat
        ≠ field32 (look 0 (s.optTaken v).opt.words 15) 15 0 then (s.optTaken v).loadFailed .crc
    else if optContentOk s.member (fun i => look 0 (s.optTaken v).opt.words i) = true then
      (s.optTaken v).loadDone (optGood (s.optTaken v).opt fun i => look 0 (s.optTaken v).opt.words i)
    else (s.optTaken v).loadFailed .content) := by
  show execOptWordRead v s = _
  unfold execOptWordRead
  rw [if_neg (by rw [hcold, hload]; decide), apply_ite Host.Outcome.next, apply_ite Host.Outcome.next,
    apply_ite Host.Outcome.next]
  rfl

theorem optWordRead_cases (v : W32) :
    let w := fun i => look 0 (s.optTaken v).opt.words i
    let passes := (crc16 (optBytes w)).toNat = (w 15).toNat % 2 ^ 16
    (s.rst.optNext < 15 → exec (.optWordRead v) s = .next (s.optTaken v))
    ∧ (s.rst.optNext = 15 → ¬ passes → exec (.optWordRead v) s = .next ((s.optTaken v).loadFailed .crc))
    ∧ (s.rst.optNext = 15 → passes → optContentOk s.member w = false →
      exec (.optWordRead v) s = .next ((s.optTaken v).loadFailed .content))
    ∧ (s.rst.optNext = 15 → passes → optContentOk s.member w = true → ∃ u, exec (.optWordRead v) s = .next u
      ∧ u = (s.optTaken v).loadDone (optGood (s.optTaken v).opt w) ∧ u.opt.loaded = true ∧ u.opt.bad = s.opt.bad
      ∧ u.opt.instanceId = (w 1).toNat % 2 ^ 18 ∧ u.opt.debugLock = (w 0).getLsbD 19) := by
  intro w passes
  have hcrc : field32 (w 15) 15 0 = (w 15).toNat % 2 ^ 16 := congrArg (· % 2 ^ 16) (Nat.div_one _)
  have hid : field32 (w 1) 17 0 = (w 1).toNat % 2 ^ 18 := congrArg (· % 2 ^ 18) (Nat.div_one _)
  have hexec := exec_optWordRead hcold hload v
  rw [hcrc] at hexec
  refine ⟨fun hlt => ?_, fun h15 hno => ?_, fun h15 hyes hbad => ?_, fun h15 hyes hok => ⟨_, ?_, rfl, ?_⟩⟩
  · rw [hexec, if_pos hlt]
  · rw [hexec, if_neg (by omega), if_pos hno]
  · rw [hexec, if_neg (by omega), if_neg (not_not_intro hyes), if_neg (by rw [hbad]; decide)]
  · rw [hexec, if_neg (by omega), if_neg (not_not_intro hyes), if_pos hok]
  · rw [(loadDone_opt (s.optTaken v) (optGood (s.optTaken v).opt w)).1]
    exact ⟨rfl, rfl, hid, rfl⟩

end

/-! ### Readiness -/

theorem readyOne_eq (s : State) (f : Nat) : s.readyOne f
    = if ((s.fn f).enabled && !(s.fn f).ready && !(s.fn f).resetting && s.rst.crucible && s.rst.gaffer) = true then
        (s.setFn f { s.fn f with ready := true }).raise (fnEvent f 0)
      else s := by
  unfold State.readyOne State.makeReady
  cases s.rst.crucible with
  | false => exact (if_neg (by simp)).trans (if_neg (by simp)).symm
  | true =>
    cases s.rst.gaffer with
    | false => exact (if_neg (by simp)).trans (if_neg (by simp)).symm
    | true =>
      refine (if_pos rfl).trans ?_
      rw [Bool.and_true, Bool.and_true]
      rfl

theorem readyOne_control (s : State) (f : Nat) : (s.readyOne f).control = s.control := by
  rw [readyOne_eq]
  split
  · exact (raise_control _ _).trans rfl
  · rfl

theorem exec_crucibleFillDone (hup : cclkUp s = true) (hfill : s.rst.crucible = false) :
    exec .crucibleFillDone s = .next (({ s with rst := { s.rst with crucible := true } } : State).readyFns) := by
  show execCrucibleFillDone s = _
  unfold execCrucibleFillDone
  rw [if_pos (by rw [hup, hfill]; rfl)]

/-! ### The Gaffer's boot -/

/-- The Gaffer and the resets of a state, but for the log. -/
def State.gafView (s : State) : Gaffer × Rst := (s.gaf.unlogged, s.rst)

theorem gafView_of_control (h : t.control = s.control) : t.gafView = s.gafView := by
  unfold State.gafView
  rw [control_gaf h, control_rst h]

theorem flushLog_gafView (s : State) : s.flushLog.gafView = s.gafView := by
  have hfold : ∀ (l : List LogRec) (t : State),
      (l.foldl (fun t r => t.putLog { r with flags := r.flags + 2 }) t).gafView = t.gafView := by
    intro l
    induction l with
    | nil => exact fun _ => rfl
    | cons a l ih => exact fun t => (ih _).trans rfl
  have hqueue := hfold s.gaf.logQueue s
  unfold State.flushLog
  dsimp only
  generalize List.foldl _ s s.gaf.logQueue = u at hqueue
  split
  · exact hqueue
  · exact hqueue

theorem log_gafView (s : State) (k src : Nat) (l : List Byte) : (s.log k src l).gafView = s.gafView := by
  unfold State.gafView
  rw [log_gaf, log_rst]

theorem mbReply_gafView (s : State) (m : Nat) (st : BitVec 8) (l : List Byte) : (s.mbReply m st l).gafView = s.gafView := by
  obtain ⟨hgaf, hrst⟩ := mbReply_gaf s m st l
  unfold State.gafView
  rw [hgaf, hrst]

theorem foldl_gafView {α : Type} {f : State → α → State} (hf : ∀ u x, (f u x).gafView = u.gafView) (l : List α)
    (s : State) : (l.foldl f s).gafView = s.gafView := by
  induction l generalizing s with
  | nil => rfl
  | cons a l ih => exact (ih (f s a)).trans (hf s a)

theorem answerEnded_gafView (s : State) (m : Nat) : (s.answerEnded m).gafView = s.gafView := by
  unfold State.answerEnded
  dsimp only
  split
  · exact (mbReply_gafView _ m 0 []).trans rfl
  · rfl

theorem answerAllEnded_gafView (s : State) : s.answerAllEnded.gafView = s.gafView :=
  foldl_gafView answerEnded_gafView _ s

theorem readyFns_gafView (s : State) : s.readyFns.gafView = s.gafView :=
  foldl_gafView (fun u f => gafView_of_control (readyOne_control u f)) _ s

/-- The Gaffer with an image that it runs. -/
def State.imageUp (s : State) (i : GafImage) (sram : Bool) : State :=
  { s with
    rst := { s.rst with gaffer := true, gafferFail := false, needFlash := false }
    gaf := { s.gaf with state := .running, down := false, recovering := false, recovery := false, image := some i
                        slot := i.slot, bank := i.bank, fwVersion := i.version, actSeq := i.seq, fromSram := sram } }

theorem gafferUp_gafView (s : State) (i : GafImage) (sram : Bool) :
    (s.gafferUp i sram).gafView = (s.imageUp i sram).gafView := by
  have hup : (((s.imageUp i sram).flushLog.logBoot (if sram then 1 else 0)).raiseUp 1450).readyFns.answerAllEnded.gafView
      = (s.imageUp i sram).gafView :=
    (answerAllEnded_gafView _).trans ((readyFns_gafView _).trans
      ((gafView_of_control (raiseUp_control _ 1450)).trans ((log_gafView _ _ _ _).trans (flushLog_gafView _))))
  have heq : s.gafferUp i sram = if s.gaf.recovering = true then
      (((s.imageUp i sram).flushLog.logBoot (if sram then 1 else 0)).raiseUp 1450).readyFns.answerAllEnded.raiseUp 1419
      else (((s.imageUp i sram).flushLog.logBoot (if sram then 1 else 0)).raiseUp 1450).readyFns.answerAllEnded := rfl
  rw [heq]
  split
  · exact (gafView_of_control (raiseUp_control _ 1419)).trans hup
  · exact hup

/-- Recovery mode before its boot record. -/
def State.inRecovery (s : State) (a b : FlashSlot) : State :=
  { s with
    rst := { s.rst with gafferFail := true }
    gaf := { s.gaf with state := .recovery, down := false, recovering := false, recovery := true, image := none
                        slot := recoverySlot a b, bank := 0, fwVersion := 0, fromSram := false
                        actSeq := ((if recoverySlot a b = 0 then a.seq? else b.seq?).getD 0) } }

theorem gafferRecovery_gafView (s : State) (a b : FlashSlot) :
    (s.gafferRecovery a b).gafView = (s.inRecovery a b).gafView := by
  have heq : s.gafferRecovery a b = ((s.inRecovery a b).flushLog.logBoot 2).answerAllEnded := rfl
  rw [heq]
  exact (answerAllEnded_gafView _).trans ((log_gafView _ _ _ _).trans (flushLog_gafView _))

theorem gafferUp_spec (s : State) (i : GafImage) (sram : Bool) : (s.gafferUp i sram).gaf.state = .running
    ∧ (s.gafferUp i sram).rst.gaffer = true ∧ (s.gafferUp i sram).gaf.fwVersion = i.version
    ∧ (s.gafferUp i sram).gaf.actSeq = i.seq := by
  have h := gafferUp_gafView s i sram
  generalize s.gafferUp i sram = t at h
  have hfield : ∀ {α : Type} (proj : Gaffer → α), proj t.gaf.unlogged = proj (s.imageUp i sram).gaf.unlogged :=
    fun proj => congrArg (fun x => proj x.1) h
  exact ⟨hfield Gaffer.state, congrArg (fun x => x.2.gaffer) h, hfield Gaffer.fwVersion, hfield Gaffer.actSeq⟩

theorem gafferRecovery_spec (s : State) (a b : FlashSlot) : (s.gafferRecovery a b).gaf.state = .recovery
    ∧ (s.gafferRecovery a b).gaf.recovery = true ∧ (s.gafferRecovery a b).rst.gafferFail = true
    ∧ (s.gafferRecovery a b).rst.gaffer = s.rst.gaffer ∧ (s.gafferRecovery a b).gaf.image = none := by
  have h := gafferRecovery_gafView s a b
  generalize s.gafferRecovery a b = t at h
  have hfield : ∀ {α : Type} (proj : Gaffer → α), proj t.gaf.unlogged = proj (s.inRecovery a b).gaf.unlogged :=
    fun proj => congrArg (fun x => proj x.1) h
  exact ⟨hfield Gaffer.state, hfield Gaffer.recovery, congrArg (fun x => x.2.gafferFail) h,
    congrArg (fun x => x.2.gaffer) h, hfield Gaffer.image⟩

/-- The Gaffer with what a flash boot reads. -/
def State.flashRead (s : State) (x : Sfdp) (a b : FlashSlot) : State :=
  { s with gaf := { s.gaf.foundSfdp s.opt.quadAllow x with slotA := some a, slotB := some b } }

theorem flashBoot_cases (s : State) (x : Sfdp) (a b : FlashSlot) :
    (∀ j, flashImage a b = some j → s.flashBoot x a b = (s.flashRead x a b).gafferUp j false)
    ∧ (flashImage a b = none → s.flashBoot x a b = (s.flashRead x a b).gafferRecovery a b) := by
  unfold State.flashBoot
  refine ⟨fun j hj => ?_, fun hnone => ?_⟩
  · rw [hj]
    rfl
  · rw [hnone]
    rfl

theorem exec_gafferBootDone_image (hup : s.rst.stable.getLsbD 8 = true) (hboot : s.gaf.state = .booting) {i : GafImage}
    (hi : s.gaf.image = some i) (ok : Bool) (x : Sfdp) (a b : FlashSlot) :
    exec (.gafferBootDone ok x ⟨a, b⟩) s = .next (if (ok && !s.rst.needFlash) = true then (s.gafferUp i true).rollBack 0
      else (s.flashBoot x a b).rollBack 0) := by
  show execGafferBootDone ok x ⟨a, b⟩ s = _
  unfold execGafferBootDone gclkUp
  rw [if_neg (by rw [hup, hboot]; decide), hi]
  dsimp only
  split
  · rfl
  · rfl

theorem exec_gafferBootDone_empty (hup : s.rst.stable.getLsbD 8 = true) (hboot : s.gaf.state = .booting)
    (hi : s.gaf.image = none) (ok : Bool) (x : Sfdp) (a b : FlashSlot) :
    exec (.gafferBootDone ok x ⟨a, b⟩) s = .next (s.flashBoot x a b) := by
  show execGafferBootDone ok x ⟨a, b⟩ s = _
  unfold execGafferBootDone gclkUp
  rw [if_neg (by rw [hup, hboot]; decide), hi]

theorem gafferBootDone_cases (hup : s.rst.stable.getLsbD 8 = true) (hboot : s.gaf.state = .booting) (x : Sfdp)
    (a b : FlashSlot) :
    (∀ i, s.gaf.image = some i → s.rst.needFlash = false →
      exec (.gafferBootDone true x ⟨a, b⟩) s = .next ((s.gafferUp i true).rollBack 0))
    ∧ (∀ ok, s.gaf.image = none →
      (∀ j, flashImage a b = some j → exec (.gafferBootDone ok x ⟨a, b⟩) s = .next ((s.flashRead x a b).gafferUp j false))
      ∧ (flashImage a b = none → exec (.gafferBootDone ok x ⟨a, b⟩) s = .next ((s.flashRead x a b).gafferRecovery a b)))
    ∧ (∀ ok, s.gaf.image.isSome = true → (ok = false ∨ s.rst.needFlash = true) →
      (∀ j, flashImage a b = some j →
        exec (.gafferBootDone ok x ⟨a, b⟩) s = .next (((s.flashRead x a b).gafferUp j false).rollBack 0))
      ∧ (flashImage a b = none →
        exec (.gafferBootDone ok x ⟨a, b⟩) s = .next (((s.flashRead x a b).gafferRecovery a b).rollBack 0))) := by
  obtain ⟨hsome, hnone⟩ := flashBoot_cases s x a b
  refine ⟨fun i hi hflash => ?_, fun ok hi => ?_, fun ok hi hno => ?_⟩
  · rw [exec_gafferBootDone_image hup hboot hi, hflash, if_pos (by decide)]
  · rw [exec_gafferBootDone_empty hup hboot hi]
    exact ⟨fun j hj => by rw [hsome j hj], fun hn => by rw [hnone hn]⟩
  · obtain ⟨i, hi⟩ := Option.isSome_iff_exists.1 hi
    rw [exec_gafferBootDone_image hup hboot hi, if_neg (by rcases hno with h | h <;> rw [h] <;> simp)]
    exact ⟨fun j hj => by rw [hsome j hj], fun hn => by rw [hnone hn]⟩

/-- The division is the least even one that keeps FL_SCK at or below 100 MHz. -/
theorem fastestDiv_spec (k : Nat) : fastestDiv k % 2 = 0 ∧ 2 ≤ fastestDiv k ∧ k ≤ 100000 * fastestDiv k
    ∧ ∀ m, m % 2 = 0 → 2 ≤ m → k ≤ 100000 * m → fastestDiv k ≤ m := by
  unfold fastestDiv
  refine ⟨?_, ?_, ?_, fun m hm h2 hk => ?_⟩ <;> omega

theorem seq?_eq (x : FlashSlot) : x.seq? = if imageField (imageBytes x.recordBytes 16) 0 4 = 0x41435456
      ∧ imageField (imageBytes x.recordBytes 16) 12 4 = (crc32 ((imageBytes x.recordBytes 16).take 12)).toNat
      ∧ BitVec.ofNat 32 (imageField (imageBytes x.recordBytes 16) 8 4) = x.digestLo then
      some (imageField (imageBytes x.recordBytes 16) 4 4) else none := by
  unfold FlashSlot.seq? FlashSlot.record
  dsimp only
  by_cases hrec : imageField (imageBytes x.recordBytes 16) 0 4 = 0x41435456
      ∧ imageField (imageBytes x.recordBytes 16) 12 4 = (crc32 ((imageBytes x.recordBytes 16).take 12)).toNat
  · rw [if_pos hrec]
    by_cases hd : BitVec.ofNat 32 (imageField (imageBytes x.recordBytes 16) 8 4) = x.digestLo
    · rw [if_pos ⟨hrec.1, hrec.2, hd⟩]
      exact if_pos hd
    · rw [if_neg fun h => hd h.2.2]
      exact if_neg hd
  · rw [if_neg hrec, if_neg fun h => hrec ⟨h.1, h.2.1⟩]

/-- The first slot that a flash boot tries runs when it verifies. -/
theorem flashImage_first {a b : FlashSlot} {k : Nat} {x : FlashSlot} {rest : List (Nat × FlashSlot)} {m : Nat}
    (horder : bootOrder a b = (k, x) :: rest) (hseq : x.seq? = some m) (hok : x.verifies = true) :
    flashImage a b = some { slot := k, bank := 0, version := x.version, seq := m } := by
  unfold flashImage
  rw [horder, List.find?_cons, hok, Option.map_some, hseq]
  rfl

theorem flashImage_second {a b : FlashSlot} {k l : Nat} {x y : FlashSlot} {m : Nat}
    (horder : bootOrder a b = [(k, x), (l, y)]) (hbad : x.verifies = false) (hseq : y.seq? = some m)
    (hok : y.verifies = true) :
    flashImage a b = some { slot := l, bank := 0, version := y.version, seq := m } := by
  unfold flashImage
  rw [horder, List.find?_cons, hbad, List.find?_cons, hok, Option.map_some, hseq]
  rfl

theorem bootOrder_a {a b : FlashSlot} {m n : Nat} (ha : a.seq? = some m)
    (hb : b.seq? = none ∨ (b.seq? = some n ∧ n ≤ m)) : ∃ rest, bootOrder a b = (0, a) :: rest := by
  unfold bootOrder
  rcases hb with hb | ⟨hb, hle⟩
  · rw [ha, hb]
    exact ⟨_, rfl⟩
  · rw [ha, hb]
    dsimp only
    rw [if_neg (by omega)]
    exact ⟨_, rfl⟩

theorem bootOrder_both {a b : FlashSlot} {m n : Nat} (ha : a.seq? = some m) (hb : b.seq? = some n) (hlt : m < n) :
    bootOrder a b = [(1, b), (0, a)] := by
  unfold bootOrder
  rw [ha, hb]
  exact if_pos hlt

theorem bootOrder_b {a b : FlashSlot} {m n : Nat} (hb : b.seq? = some n)
    (ha : a.seq? = none ∨ (a.seq? = some m ∧ m < n)) : ∃ rest, bootOrder a b = (1, b) :: rest := by
  rcases ha with ha | ⟨ha, hlt⟩
  · unfold bootOrder
    rw [ha, hb]
    exact ⟨_, rfl⟩
  · exact ⟨_, bootOrder_both ha hb hlt⟩

/-- Settles O44: the load of the option map, readiness, and the boots of the Gaffer. -/
theorem optionLoadAndBringUp : Obligations.OptionLoadAndBringUp := by
  intro s
  refine ⟨fun hcold hload => ⟨optWordRead_cases hcold hload, ?_⟩, fun why => ?_,
    fun hup hfill => ⟨_, rfl, exec_crucibleFillDone hup hfill⟩, readyOne_eq s,
    fun hup hboot x a b => gafferBootDone_cases hup hboot x a b, fun x => ⟨rfl, rfl, _, rfl, fastestDiv_spec x.gclkKhz⟩,
    gafferUp_spec s, gafferRecovery_spec s, seq?_eq, fun a b m n => ⟨fun ha hb hok => ?_, fun hb ha hok => ?_,
      fun ha hb hlt hbad hok => flashImage_second (bootOrder_both ha hb hlt) hbad ha hok⟩⟩
  · show execOptAckTimeout s = _
    unfold execOptAckTimeout
    rw [if_neg (by rw [hcold, hload]; decide)]
  · obtain ⟨hopt, hcause, hload⟩ := loadFailed_spec s why
    rw [hopt]
    exact ⟨rfl, rfl, rfl, rfl, rfl, hcause, hload⟩
  · obtain ⟨_, horder⟩ := bootOrder_a ha hb
    exact flashImage_first horder ha hok
  · obtain ⟨_, horder⟩ := bootOrder_b hb ha
    exact flashImage_first horder hb hok

end Sys2Proof.Machine
end

section
/-! Cold, warm and debug resets and their releases (R315 to R322, R328 to R330), the ends of function and bench resets
(R333, R334), and the test ports under DEBUG_LOCK (R64 to R66). -/

namespace Sys2Proof.Machine

variable {s t u : State}

/-! ### Warm resets -/

/-- With no route set, a record of the log touches the Gaffer and the pending bits of the global sources only. -/
theorem log_of_unrouted (h : s.ev.routes = []) (k src : Nat) (d : List Byte) :
    ∃ g e, s.log k src d = { s with gaf := g, ev := e } := by
  unfold State.log
  split
  · exact ⟨_, _, rfl⟩
  · split
    · exact ⟨_, _, rfl⟩
    · refine ⟨_, _, raise_of_route (r := .none) ?_⟩
      rw [State.route, show State.ev _ = s.ev from rfl, h]
      rfl

/-- The state at the assertion edge of a warm reset, before its log record. -/
def State.warmCleared (s : State) (last : Nat) : State :=
  { member := s.member, pending := s.pending, now := s.now, edges := s.edges, tap := s.tap, wrapper := s.wrapper
    apb := { held := s.apb.held }, goCount := s.goCount, opt := s.opt, nextId := s.nextId, txns := s.retireTxns
    rst :=
      { coldHeld := false, warmHeld := true, optLoading := s.rst.optLoading, optNext := s.rst.optNext, optReq := s.rst.optReq
        last := last,
        warmCount := satAdd 16 s.rst.warmCount 1, needFlash := s.gaf.image.isNone, optEvent := s.rst.optEvent,
        sweep := true, lost := s.rst.lost, refLost := s.rst.refLost }
    cul := s.cul.kept, gaf := s.gaf.kept, safety := Safety.held s.opt.loaded s.rst.refLost }

theorem warmAssert_shape (s : State) (last : Nat) : ∃ g e, s.warmAssert last = { s.warmCleared last with gaf := g, ev := e }
    ∧ g.image = s.gaf.image := by
  obtain ⟨g, e, h⟩ := log_of_unrouted (s := s.warmCleared last) rfl 0x02 0xFF
    (leBytes 4 ((s.warmCleared last).gValue 0x04C).toNat)
  have hgaf := log_gaf (s.warmCleared last) 0x02 0xFF (leBytes 4 ((s.warmCleared last).gValue 0x04C).toNat)
  rw [h] at hgaf
  exact ⟨g, e, h, (congrArg Gaffer.image hgaf : g.unlogged.image = s.gaf.kept.unlogged.image)⟩

theorem exec_warm (pin : Bool) (hcold : s.rst.coldHeld = false) (hlock : pin = true ∨ s.opt.debugLock = false) :
    exec (if pin = true then .warmResetPin else .debugReset) s = .next (s.warmAssert (if pin = true then 2 else 4)) := by
  cases pin with
  | true => exact congrArg Host.Outcome.next (if_neg (by rw [hcold]; decide))
  | false =>
    have hopen : s.opt.debugLock = false := hlock.resolve_left Bool.false_ne_true
    exact congrArg Host.Outcome.next (if_neg (by rw [hcold, hopen]; decide))

/-! ### Releases -/

theorem exec_resetRelease_warm (hcold : s.rst.coldHeld = false) (hwarm : s.rst.warmHeld = true) :
    exec .resetRelease s = .next ({ s with rst := { s.rst with warmHeld := false } } : State).startRelease := by
  show execResetRelease s = _
  unfold execResetRelease
  rw [if_neg (by rw [hcold]; decide), if_pos hwarm]

theorem startRelease_waits (h : s.rst.optLoading = true) : s.startRelease = s :=
  if_pos (by rw [h, Bool.or_true])

theorem startRelease_goes (hcold : s.rst.coldHeld = false) (hwarm : s.rst.warmHeld = false)
    (hload : s.rst.optLoading = false) :
    s.startRelease = { s with rst := { s.rst with releasing := true, waiting := ~~~ s.rst.stable } } :=
  if_neg (by rw [hcold, hwarm, hload]; decide)

/-- The core after its release, before the waiting register accesses apply and a sweep starts. -/
def State.coreUp (s : State) : State :=
  { s with rst := { s.rst with sweep := false }, regq := [] }

theorem rst_no_optEvent {r : Rst} (h : r.optEvent = false) :
    ({ r with optEvent := false, sweep := false } : Rst) = { r with sweep := false } := by
  cases r
  dsimp only at h
  subst h
  rfl

theorem cclkReleased_eq (h : s.rst.optEvent = false) : s.cclkReleased
    = (if s.rst.sweep && s.member.hasCullet then s.coreUp.startSweep else s.coreUp).settle
        (s.regq.foldl State.applyEntry (if s.rst.sweep && s.member.hasCullet then s.coreUp.startSweep else s.coreUp)) := by
  unfold State.cclkReleased State.coreUp
  have hno : (if s.rst.optEvent = true then s.raise 1472 else s) = s := if_neg (by rw [h]; decide)
  rw [hno]
  dsimp only
  rw [rst_no_optEvent h]

theorem startSweep_eq (h : s.cul.fresh ≠ 0) : s.startSweep = { s with cul := { s.cul with
    sweep := true, sweepPos := 0, sweepNext := 0, sweepEnd := s.cul.fresh, quar := 0, quota := false } } := if_neg h

/-! ### The end of a reset's wait -/

/-- The mailbox when what `w` names has come. -/
def Mailbox.waitEnded (w : MbWait) (up : Bool) (x : Mailbox) : Mailbox :=
  let y := { x with store := x.store.map (Replay.done w) }
  if x.wait = w then
    if (x.busy && up) = true then
      ({ y with wait := .none, again := false, replay := x.again } : Mailbox).answered 0 []
    else { y with wait := if x.busy then .ended else .none }
  else y

/-- A wait's end writes its mailbox, and raises its event with a reply. -/
theorem endWait_shape (w : MbWait) (s : State) (m : Nat) :
    s.endWait w m = s.setMailbox m ((s.mailbox m).waitEnded w (gclkUp s))
    ∨ s.endWait w m = (s.setMailbox m ((s.mailbox m).waitEnded w (gclkUp s))).raiseUp (mbEvent m) := by
  unfold State.endWait Mailbox.waitEnded
  dsimp only
  split
  · split
    · refine .inr ?_
      rw [mbReply_eq, setMailbox_mailbox, State.setMailbox_setMailbox]
    · exact .inl rfl
  · exact .inl rfl

/-- `t` has the channels, functions and pending bits of `s`, but for what a raise brings. -/
structure Raised (s t : State) : Prop where
  core : ∀ p, (t.chan p).core = (s.chan p).core
  fns : ∀ f, (t.fn f).core = (s.fn f).core
  pending : ∀ n, n < 1476 → s.isPending n = true → t.isPending n = true
  rst : t.rst = s.rst
  benches : t.benches = s.benches

theorem Raised.refl (s : State) : Raised s s := ⟨fun _ => rfl, fun _ => rfl, fun _ _ => id, rfl, rfl⟩

theorem Raised.trans (x : Raised s t) (y : Raised t u) : Raised s u :=
  ⟨fun p => (y.core p).trans (x.core p), fun f => (y.fns f).trans (x.fns f),
    fun n hn h => y.pending n hn (x.pending n hn h), y.rst.trans x.rst, y.benches.trans x.benches⟩

theorem Raised.raise (s : State) {n : Nat} (hn : n < 1476) : Raised s (s.raise n) :=
  ⟨((Calm.refl s).raise n).core, raise_fn_core n,
    fun m hm h => by rw [raise_isPending hn hm, h, Bool.or_true],
    ((Aside.refl s).raise n).rst, ((Aside.refl s).raise n).benches⟩

theorem Raised.raiseUp (s : State) {n : Nat} (hn : n < 1476) : Raised s (s.raiseUp n) := by
  unfold State.raiseUp
  split
  · exact Raised.raise s hn
  · exact Raised.refl s

theorem mbEvent_lt {m : Nat} (h : m < 17) : mbEvent m < 1476 := by
  unfold mbEvent fnEvent
  split <;> omega

theorem Raised.endWait (w : MbWait) (s : State) {m : Nat} (hm : m < 17) : Raised s (s.endWait w m) := by
  have hset : Raised s (s.setMailbox m ((s.mailbox m).waitEnded w (gclkUp s))) :=
    ⟨fun _ => rfl, fun _ => rfl, fun _ _ => id, rfl, rfl⟩
  rcases endWait_shape w s m with h | h
  · rw [h]
    exact hset
  · rw [h]
    exact hset.trans (Raised.raiseUp _ (mbEvent_lt hm))

theorem endWait_mailbox (w : MbWait) (s : State) (m q : Nat) :
    (s.endWait w m).mailbox q = if q = m then (s.mailbox m).waitEnded w (gclkUp s) else s.mailbox q := by
  rcases endWait_shape w s m with h | h
  · rw [h, State.setMailbox_mailbox]
  · rw [h, mailbox_congr ((Aside.refl _).raiseUp (mbEvent m)).mailboxes, State.setMailbox_mailbox]

/-- The waits of the mailboxes in a list end, each once. -/
theorem foldl_endWait (w : MbWait) : ∀ (l : List Nat) (s : State), l.Nodup → (∀ m ∈ l, m < 17) →
    Raised s (l.foldl (State.endWait w) s)
    ∧ ∀ q ∈ l, (l.foldl (State.endWait w) s).mailbox q = (s.mailbox q).waitEnded w (gclkUp s) := by
  have hkeep : ∀ (l : List Nat) (s : State) (q : Nat), q ∉ l → (l.foldl (State.endWait w) s).mailbox q = s.mailbox q := by
    intro l
    induction l with
    | nil => exact fun _ _ _ => rfl
    | cons m l ih =>
      intro s q hq
      obtain ⟨hne, hrest⟩ := not_or.1 fun h => hq (List.mem_cons.2 h)
      rw [List.foldl_cons, ih _ q hrest, endWait_mailbox, if_neg hne]
  intro l
  induction l with
  | nil => exact fun s _ _ => ⟨Raised.refl s, List.forall_mem_nil _⟩
  | cons m l ih =>
    intro s hnd hlt
    obtain ⟨hm, hl⟩ := List.forall_mem_cons.1 hlt
    obtain ⟨hnot, hndl⟩ := List.nodup_cons.1 hnd
    have hone := Raised.endWait w s hm
    obtain ⟨hrest, hbox⟩ := ih (s.endWait w m) hndl hl
    refine ⟨hone.trans hrest, List.forall_mem_cons.2 ⟨?_, fun q hq => ?_⟩⟩
    · rw [List.foldl_cons, hkeep l _ m hnot, endWait_mailbox, if_pos rfl]
    · have hup : gclkUp (s.endWait w m) = gclkUp s := congrArg (fun r : Rst => r.stable.getLsbD 8) hone.rst
      rw [List.foldl_cons, hbox q hq, hup, endWait_mailbox, if_neg (ne_of_mem_of_not_mem hq hnot)]

theorem endWaits_spec (w : MbWait) (s : State) : Raised s (s.endWaits w)
    ∧ ∀ q, q < 17 → (s.endWaits w).mailbox q = (s.mailbox q).waitEnded w (gclkUp s) := by
  obtain ⟨hraised, hbox⟩ := foldl_endWait w (List.range 17) s List.nodup_range fun m => List.mem_range.1
  exact ⟨hraised, fun q hq => hbox q (List.mem_range.2 hq)⟩

/-! ### RESET_DONE -/

theorem Chan.resetDone_resetDone (c : Chan) : c.resetDone.resetDone = c.resetDone := rfl

theorem foldl_resetDone : ∀ (l : List Nat) (s : State) (q : Nat),
    (l.foldl (fun t p => t.modChan p Chan.resetDone) s).chan q = (if q ∈ l then (s.chan q).resetDone else s.chan q) := by
  intro l
  induction l with
  | nil => exact fun _ _ => rfl
  | cons p l ih =>
    intro s q
    rw [List.foldl_cons, ih, State.modChan_chan]
    by_cases hqp : q = p
    · subst q
      rw [if_pos rfl, if_pos List.mem_cons_self, Chan.resetDone_resetDone, ite_self]
    · rw [if_neg hqp]
      simp only [List.mem_cons, hqp, false_or]

theorem foldl_resetDone_fns (l : List Nat) (s : State) :
    (l.foldl (fun t p => t.modChan p Chan.resetDone) s).fns = s.fns := by
  induction l generalizing s with
  | nil => rfl
  | cons p l ih => exact ih _

/-- A mapped channel stands in its function's list. -/
theorem mem_chansOf_of_owner {p f sl : Nat} (h : (s.chan p).owner = some (f, sl)) : p ∈ s.chansOf f := by
  rcases look_mem_or ({} : Chan) s.chans p with hnone | hmem
  · rw [State.chan, hnone] at h
    cases h
  · refine List.mem_map.2 ⟨_, List.mem_filter.2 ⟨hmem, ?_⟩, rfl⟩
    rw [show look ({} : Chan) s.chans p = s.chan p from rfl, h]
    exact beq_iff_eq.2 rfl

/-- The function's channels and itself at RESET_DONE, before its events. -/
def State.resetOver (s : State) (f : Nat) : State :=
  ((s.chansOf f).foldl (fun t p => t.modChan p Chan.resetDone) s).modFn f fun x =>
    { x with resetting := false, rings := x.rings.map fun e => (e.1, { e.2 with head := 0, producer := 0, tail := 0 }) }

theorem exec_resetDone {f : Nat} (hr : (s.fn f).resetting = true) (hq : s.fnQuiet f = true) :
    exec (.resetDone f) s = .next ((((s.resetOver f).raise (fnEvent f 6)).makeReady f).endWaits (.resetDone f)) :=
  if_pos (by rw [hr, hq]; rfl)

theorem resetOver_fn (s : State) (f : Nat) : ((s.resetOver f).fn f).resetting = false
    ∧ ((s.resetOver f).fn f).ready = (s.fn f).ready ∧ ((s.resetOver f).fn f).enabled = (s.fn f).enabled := by
  have hfn : ((s.chansOf f).foldl (fun t p => t.modChan p Chan.resetDone) s).fn f = s.fn f :=
    congrArg (fun l : Tbl Fn => look ({} : Fn) l f) (foldl_resetDone_fns _ _)
  unfold State.resetOver
  rw [State.modFn_fn, if_pos rfl, hfn]
  exact ⟨rfl, rfl, rfl⟩

theorem resetOver_chan {f p sl : Nat} (h : (s.chan p).owner = some (f, sl)) :
    (s.resetOver f).chan p = (s.chan p).resetDone := by
  show State.chan (List.foldl _ s _) p = _
  rw [foldl_resetDone, if_pos (mem_chansOf_of_owner h)]

theorem fn_of_core {x y : Fn} (h : x.core = y.core) :
    x.resetting = y.resetting ∧ x.ready = y.ready ∧ x.enabled = y.enabled :=
  ⟨(congrArg Fn.resetting h : x.core.resetting = y.core.resetting), (congrArg Fn.ready h : x.core.ready = y.core.ready),
    (congrArg Fn.enabled h : x.core.enabled = y.core.enabled)⟩

theorem makeReady_spec (s : State) (f : Nat) (hr : (s.fn f).resetting = false) :
    ((s.makeReady f).fn f).resetting = false ∧ ((s.makeReady f).fn f).ready = ((s.fn f).ready || (s.fn f).enabled)
    ∧ (∀ p, ((s.makeReady f).chan p).core = (s.chan p).core)
    ∧ (f < 16 → ∀ n, n < 1476 → s.isPending n = true → (s.makeReady f).isPending n = true) := by
  unfold State.makeReady
  dsimp only
  split
  · next hc =>
    simp only [Bool.and_eq_true, Bool.not_eq_true'] at hc
    obtain ⟨⟨hen, hnot⟩, _⟩ := hc
    have hcore := raise_fn_core (s := s.modFn f fun y => { y with ready := true }) (fnEvent f 0) f
    rw [State.modFn_fn, if_pos rfl] at hcore
    obtain ⟨hresetting, hready, _⟩ := fn_of_core hcore
    refine ⟨hresetting.trans hr, hready.trans ?_,
      ((Calm.refl _).raise _).core, fun hf n hn h => ?_⟩
    · rw [hen, Bool.or_true]
    · have hset : (s.modFn f fun y => { y with ready := true }).isPending n = s.isPending n :=
        isPending_congr (fun _ => rfl) (fun _ _ => rfl) (fun q _ => by
          rw [State.modFn_fn]
          split
          · next h => rw [h]
          · rfl) fun _ => rfl
      rw [raise_isPending (by unfold fnEvent; omega) hn, hset, h, Bool.or_true]
  · next hc =>
    refine ⟨hr, ?_, fun _ => rfl, fun _ _ _ => id⟩
    rw [hr] at hc
    revert hc
    cases (s.fn f).enabled <;> cases (s.fn f).ready <;> decide

theorem resetDone_of_core {c d : Chan} (h : c.core = d.resetDone.core) : c.ring.t = 0 ∧ c.ring.f = 0 ∧ c.ring.h = 0
    ∧ c.owner = d.owner ∧ c.state = if (d.cfg.ringMode && d.ring.bound) = true then .running else .idle :=
  ⟨(congrArg (fun x : Chan × List (Nat × Option Status) => x.1.ring.t) h : _),
    (congrArg (fun x : Chan × List (Nat × Option Status) => x.1.ring.f) h : _),
    (congrArg (fun x : Chan × List (Nat × Option Status) => x.1.ring.h) h : _),
    (congrArg (fun x : Chan × List (Nat × Option Status) => x.1.owner) h : _),
    (congrArg (fun x : Chan × List (Nat × Option Status) => x.1.state) h : _)⟩

/-- The events of a function's RESET_DONE, and what waited for it. -/
theorem resetEvents_spec (s : State) {f : Nat} (hr : (s.fn f).resetting = false) :
    ∃ t, t = ((s.raise (fnEvent f 6)).makeReady f).endWaits (.resetDone f) ∧ (t.fn f).resetting = false
    ∧ (t.fn f).ready = ((s.fn f).ready || (s.fn f).enabled) ∧ (f < 16 → t.isPending (fnEvent f 6) = true)
    ∧ ∀ p, (t.chan p).core = (s.chan p).core := by
  obtain ⟨hraised, hrready, hren⟩ := fn_of_core (raise_fn_core (s := s) (fnEvent f 6) f)
  obtain ⟨hmade, hmready, hmcore, hmpend⟩ := makeReady_spec (s.raise (fnEvent f 6)) f (hraised.trans hr)
  obtain ⟨hend, _⟩ := endWaits_spec (.resetDone f) ((s.raise (fnEvent f 6)).makeReady f)
  obtain ⟨hended, heready, _⟩ := fn_of_core (hend.fns f)
  refine ⟨_, rfl, hended.trans hmade, heready.trans ?_, fun hf => ?_,
    fun p => (hend.core p).trans ((hmcore p).trans (((Calm.refl s).raise _).core p))⟩
  · rw [hmready, hrready, hren]
  · have hev : fnEvent f 6 < 1476 := by unfold fnEvent; omega
    refine hend.pending _ hev (hmpend hf _ hev ?_)
    rw [raise_isPending hev hev, decide_eq_true rfl, Bool.true_or]

theorem resetDone_spec {f : Nat} (hr : (s.fn f).resetting = true) (hq : s.fnQuiet f = true) :
    ∃ t, exec (.resetDone f) s = .next t
    ∧ (t.fn f).resetting = false ∧ (t.fn f).ready = ((s.fn f).ready || (s.fn f).enabled)
    ∧ (f < 16 → t.isPending (fnEvent f 6) = true)
    ∧ ∀ p sl, (s.chan p).owner = some (f, sl) → (t.chan p).ring.t = 0 ∧ (t.chan p).ring.f = 0
      ∧ (t.chan p).ring.h = 0 ∧ (t.chan p).owner = some (f, sl)
      ∧ (t.chan p).state = if ((s.chan p).cfg.ringMode && (s.chan p).ring.bound) = true then .running else .idle := by
  obtain ⟨hover, hready, hen⟩ := resetOver_fn s f
  obtain ⟨t, ht, hended, htready, hpend, hcore⟩ := resetEvents_spec (s.resetOver f) hover
  refine ⟨t, ht ▸ exec_resetDone hr hq, hended, by rw [htready, hready, hen], hpend, fun p sl hown => ?_⟩
  have hchan := hcore p
  rw [resetOver_chan hown] at hchan
  obtain ⟨ht, hf, hh, howner, hstate⟩ := resetDone_of_core hchan
  exact ⟨ht, hf, hh, howner.trans hown, hstate⟩

/-! ### BENCH_RESET_DONE -/

theorem benchResetDone_spec {b : Nat} (hr : (s.bench b).resetting = true) : ∃ t, exec (.benchResetDone b) s = .next t
    ∧ t.benches = put s.benches b { s.bench b with resetting := false }
    ∧ (∀ m, m < 17 → (s.mailbox m).wait = .bench b → (s.mailbox m).busy = true → gclkUp s = true →
        (t.mailbox m).wait = .none ∧ (t.mailbox m).busy = false ∧ (t.mailbox m).done = true
        ∧ (t.mailbox m).status = 0) := by
  refine ⟨_, if_pos hr, ?_⟩
  obtain ⟨hend, hbox⟩ := endWaits_spec (.bench b) (s.modBench b fun x => { x with resetting := false })
  refine ⟨hend.benches, fun m hm hwait hbusy hup => ?_⟩
  rw [hbox m hm]
  have hended : (s.mailbox m).waitEnded (.bench b) (gclkUp s)
      = ({ s.mailbox m with store := (s.mailbox m).store.map (Replay.done (.bench b)), wait := .none, again := false
                            replay := (s.mailbox m).again } : Mailbox).answered 0 [] := by
    unfold Mailbox.waitEnded
    dsimp only
    rw [if_pos hwait, if_pos (by rw [hbusy, hup]; rfl)]
  show ((s.mailbox m).waitEnded (.bench b) (gclkUp s)).wait = _ ∧ ((s.mailbox m).waitEnded (.bench b) (gclkUp s)).busy = _
    ∧ ((s.mailbox m).waitEnded (.bench b) (gclkUp s)).done = _ ∧ ((s.mailbox m).waitEnded (.bench b) (gclkUp s)).status = _
  rw [hended]
  exact ⟨rfl, rfl, rfl, rfl⟩

/-! ### The test ports -/

/-- Five cycles with TMS high lead to Test-Logic-Reset. -/
theorem next_five_high (p : TapPhase) :
    ((((p.next true).next true).next true).next true).next true = .reset := by
  cases p <;> rfl

theorem cycle_instr_of_reset {x : Tap} {tms : Bool} (h : x.phase.next tms = .reset) (lock : Bool) (id : W32) (tdi : Bool) :
    (x.cycle lock id tms tdi).phase = .reset ∧ (x.cycle lock id tms tdi).instr = .idcode := by
  unfold Tap.cycle
  dsimp only
  rw [h]
  exact ⟨rfl, rfl⟩

theorem cycle_captures {x : Tap} (h : x.phase = .captureDr) (lock : Bool) (id : W32) (tdi : Bool) :
    (x.cycle lock id false tdi).phase = .shiftDr
    ∧ (x.cycle lock id false tdi).drShift = tapCapture id (tapActing lock x.instr) := by
  unfold Tap.cycle
  dsimp only
  rw [h]
  exact ⟨rfl, rfl⟩

/-- Any other instruction than IDCODE is BYPASS under DEBUG_LOCK. -/
theorem tapCapture_bypass {i : TapInstr} {lock : Bool} (hne : i ≠ .idcode) (h : lock = true ∨ i = .bypass) (id : W32) :
    tapCapture id (tapActing lock i) = [false] := by
  cases i with
  | idcode => exact absurd rfl hne
  | bypass => rfl
  | samplePreload => rfl
  | extest => rfl
  | debug =>
    rw [h.resolve_right nofun]
    rfl

/-- Settles O43: a warm reset leaves no route, so that its log record disturbs nothing. -/
theorem resetsAndTheirReleases : Obligations.ResetsAndTheirReleases := by
  intro s
  refine ⟨rfl, fun hcold => ⟨congrArg Host.Outcome.next (if_pos hcold), congrArg Host.Outcome.next (if_pos ?_)⟩,
    fun hlock => congrArg Host.Outcome.next (if_pos ?_), fun pin hcold hpin => ?_, fun hcold => if_pos hcold,
    fun hcold hwarm => ⟨fun hload => ?_, fun hload => ?_⟩, fun d hrel hd hwait => ⟨fun h0 h2 => ?_, fun h2 => ?_, ?_⟩,
    fun f => resetDone_spec, fun b => benchResetDone_spec,
    fun x lock id => ⟨fun a b c d e => ?_, fun hphase hid tdi => ?_, fun hphase hne hlock tdi => ?_⟩,
    fun bits hall => if_pos hall, fun x n capture update wsi => rfl, fun hlock => ?_⟩
  · rw [hcold, Bool.true_or]
  · rw [hlock, Bool.or_true]
  · obtain ⟨g, e, heq, himage⟩ := warmAssert_shape s (if pin = true then 2 else 4)
    refine ⟨_, exec_warm pin hcold hpin, ?_⟩
    rw [heq]
    exact ⟨rfl, rfl, rfl, rfl, rfl, rfl, rfl, himage, rfl, rfl, rfl, rfl, rfl, rfl, rfl, rfl, rfl, rfl, rfl, rfl, rfl,
      rfl⟩
  · rw [exec_resetRelease_warm hcold hwarm]
    exact congrArg Host.Outcome.next (startRelease_waits hload)
  · rw [exec_resetRelease_warm hcold hwarm]
    exact congrArg Host.Outcome.next (startRelease_goes hcold rfl hload)
  · rw [exec_domainRelease hrel hd hwait, if_neg h0, if_neg h2]
    rfl
  · subst h2
    exact exec_domainRelease hrel hd hwait
  · rintro rfl hopt
    have hexec := exec_domainRelease hrel hd hwait
    rw [if_pos rfl, cclkReleased_eq (s := s.releaseDomain 0) hopt] at hexec
    refine ⟨fun hsweep hcul hfresh => ⟨_, rfl, hexec.trans ?_⟩, fun hno => ⟨_, rfl, hexec.trans ?_⟩⟩
    · rw [if_pos (by rw [show (s.releaseDomain 0).rst.sweep = true from hsweep]; exact hcul),
        startSweep_eq (s := (s.releaseDomain 0).coreUp) hfresh]
      rfl
    · rw [if_neg (by
        rintro hboth
        obtain ⟨hsweep, hcul⟩ := (Bool.and_eq_true _ _).mp hboth
        rcases hno with h | h
        · exact absurd (hsweep.symm.trans h) nofun
        · exact absurd (hcul.symm.trans h) nofun)]
      rfl
  · exact cycle_instr_of_reset (next_five_high x.phase) lock id e
  · obtain ⟨hshift, hdr⟩ := cycle_captures hphase lock id tdi
    refine ⟨hshift, hdr.trans ?_⟩
    rw [hid]
    rfl
  · exact (cycle_captures hphase lock id tdi).2.trans (tapCapture_bypass hne hlock id)
  · unfold State.isolated
    rw [hlock]
    rfl

end Sys2Proof.Machine
end

section
/-! The start of work (R131, R153 to R158, R231, R244, R270, R295, R309): what each opcode does at its start edge. -/

namespace Sys2Proof.Machine

variable {s t u : State} {p n : Nat} {w : Work} {c : Chan}

/-! ### A started piece of work -/

/-- The state with `c` as channel `p`, and `w` as its newest started piece of work. -/
def State.holding (s : State) (p : Nat) (c : Chan) (w : Work) : State :=
  { s.setChan p { c with started := c.started ++ [w] } with nextId := s.nextId + 1 }

theorem setChan_chan_same (s : State) (p : Nat) (c : Chan) : (s.setChan p c).chan p = c := look_put_same _ _ _ _

theorem holding_chan (s : State) (p : Nat) (c : Chan) (w : Work) :
    (s.holding p c w).chan p = { c with started := c.started ++ [w] } := setChan_chan_same s p _

theorem withWork_setChan (s : State) (p : Nat) (c : Chan) (w : Work) : (s.setChan p c).withWork p w = s.holding p c w := by
  unfold State.withWork State.modChan State.holding
  rw [setChan_chan_same, State.setChan_setChan]
  rfl

/-- The number names the newest piece of work alone. -/
def Chan.lacks (c : Chan) (n : Nat) : Prop := c.started.find? (fun x => x.serial == n) = none

theorem holding_work? (h : c.lacks w.serial) : (s.holding p c w).work? p w.serial = some w := by
  unfold Chan.lacks at h
  rw [State.work?, holding_chan, List.find?_append, h, List.find?_cons, beq_self_eq_true]
  rfl

theorem updWork_append {l : List Work} (h : l.find? (fun x => x.serial == w.serial) = none) (g : Work → Work) :
    updWork w.serial g (l ++ [w]) = l ++ [g w] := by
  induction l with
  | nil => exact if_pos rfl
  | cons x l ih =>
    rw [List.find?_cons] at h
    split at h
    · cases h
    · next hx =>
      rw [List.cons_append, updWork, if_neg (beq_eq_false_iff_ne.1 hx), ih h]
      rfl

theorem holding_modWork (h : c.lacks w.serial) (g : Work → Work) :
    (s.holding p c w).modWork p w.serial g = s.holding p c (g w) := by
  have hset : (s.holding p c w).modWork p w.serial g
      = { (s.setChan p { c with started := c.started ++ [w] }).setChan p
            { (s.holding p c w).chan p with started := updWork w.serial g ((s.holding p c w).chan p).started } with
          nextId := s.nextId + 1 } := rfl
  rw [hset, holding_chan, State.setChan_setChan, updWork_append h]
  rfl

/-- A change of the newest piece of work, beside a change that leaves the channels. -/
theorem modWork_of_holding (hnew : c.lacks w.serial) (g : Work → Work)
    (h : t.chans = (s.holding p c w).chans := by rfl) :
    t.modWork p w.serial g = { t with chans := (s.holding p c (g w)).chans } := by
  rw [← holding_modWork hnew g]
  unfold State.modWork State.modChan State.setChan State.chan
  rw [h]

/-! ### What a start begins -/

section
variable (hnew : c.lacks w.serial)
include hnew

theorem holding_beginResolve : (s.holding p c w).beginResolve p w = s.holding p c
    { w with chain := .unresolved, headGob := handleGob w.desc.srcAddr, headGen := handleGen w.desc.srcAddr
             pinned := w.desc.op != some .punty && !s.stale w.desc.srcAddr } := holding_modWork hnew _

/-- A reader of a chain pins it and asks for its head record. -/
theorem holding_beginResolve_reader (h : w.desc.op ≠ some .punty) : (s.holding p c w).beginResolve p w = s.holding p c
    { w with chain := .unresolved, headGob := handleGob w.desc.srcAddr, headGen := handleGen w.desc.srcAddr
             pinned := !s.stale w.desc.srcAddr } := by
  rw [holding_beginResolve hnew, bne_iff_ne.2 h, Bool.true_and]

theorem beginWork_plain (h : ∃ o ∈ [Op.copy, .copy2d, .copy3d, .gatherIdx, .scatterIdx, .blockGather, .frag, .streamOut,
      .signal, .nop, .fenceOnly], w.desc.op = some o) :
    (s.holding p c w).beginWork p w = s.holding p c (if w.desc.fromChain then
      { w with chain := .unresolved, headGob := handleGob w.desc.srcAddr, headGen := handleGen w.desc.srcAddr
               pinned := !s.stale w.desc.srcAddr } else w) := by
  have hreader : w.desc.op ≠ some .punty → (if w.desc.fromChain then (s.holding p c w).beginResolve p w
      else s.holding p c w) = s.holding p c (if w.desc.fromChain then
      { w with chain := .unresolved, headGob := handleGob w.desc.srcAddr, headGen := handleGen w.desc.srcAddr
               pinned := !s.stale w.desc.srcAddr } else w) := fun hne => by
    rw [holding_beginResolve_reader hnew hne]
    split <;> rfl
  obtain ⟨o, ho, hop⟩ := h
  unfold State.beginWork
  rw [hop] at hreader ⊢
  simp only [List.mem_cons, List.not_mem_nil, or_false] at ho
  rcases ho with rfl | rfl | rfl | rfl | rfl | rfl | rfl | rfl | rfl | rfl | rfl <;> exact hreader nofun

theorem beginWork_punty (h : w.desc.op = some .punty) : (s.holding p c w).beginWork p w = s.holding p c
    { w with chain := .unresolved, headGob := handleGob w.desc.srcAddr, headGen := handleGen w.desc.srcAddr
             pinned := false } := by
  unfold State.beginWork
  rw [h]
  dsimp only
  rw [holding_beginResolve hnew, h]
  rfl

/-- A WAIT_TRIG arms as the next waiter. -/
theorem armed_eq : ({ (s.holding p c w).modWork p w.serial (fun x => { x with
      armed := true, armedAt := (s.holding p c w).ev.order }) with
        ev := { (s.holding p c w).ev with order := (s.holding p c w).ev.order + 1 } } : State)
    = { s.holding p c { w with armed := true, armedAt := s.ev.order } with
        ev := { s.ev with order := s.ev.order + 1 } } := by
  rw [holding_modWork hnew]
  rfl

section
variable (hown : c.owner = (s.chan p).owner)
include hown

omit hnew in
theorem holding_chFn : (s.holding p c w).chFn p = s.chFn p := by
  unfold State.chFn State.fnOfChan
  rw [holding_chan, ← hown]

theorem beginWork_waits (h : w.desc.op = some .waitTrig) (hno : w.desc.gate ≠ 0 ∨ s.sigCount (s.chFn p) w.desc.signalId = 0) :
    (s.holding p c w).beginWork p w = { s.holding p c { w with armed := true, armedAt := s.ev.order } with
      ev := { s.ev with order := s.ev.order + 1 } } := by
  unfold State.beginWork
  rw [h, holding_chFn hown]
  dsimp only
  rw [armed_eq hnew]
  refine if_neg ?_
  rintro ⟨hgate, hcount⟩
  exact hno.elim (fun hg => hg hgate) fun hc => absurd hc (Nat.pos_iff_ne_zero.1 hcount)

theorem beginWork_acts (h : w.desc.op = some .waitTrig) (hgate : w.desc.gate = 0)
    (hcount : 0 < s.sigCount (s.chFn p) w.desc.signalId) :
    (s.holding p c w).beginWork p w = ({ s.holding p c { w with armed := true, armedAt := s.ev.order, acted := true } with
      ev := { s.ev with order := s.ev.order + 1 } } : State).takeSignal (s.chFn p) w.desc.signalId := by
  unfold State.beginWork
  rw [h, holding_chFn hown]
  dsimp only
  rw [armed_eq hnew, if_pos ⟨hgate, hcount⟩]
  exact modWork_of_holding (s := s) (w := { w with armed := true, armedAt := s.ev.order }) hnew _

omit hnew in
theorem beginWork_unreachable (h : w.desc.op = some .remoteRead ∨ w.desc.op = some .remoteWrite)
    (hpeer : s.peerFor (s.chFn p) w.desc.remoteInstance = none) :
    (s.holding p c w).beginWork p w = (s.holding p c w).failWork p w.serial .windowDenied := by
  have hnone : (s.holding p c w).peerFor (s.chFn p) w.desc.remoteInstance = none := hpeer
  unfold State.beginWork
  rw [holding_chFn hown]
  rcases h with h | h
  · rw [h]
    dsimp only
    rw [hnone]
  · rw [h]
    dsimp only
    rw [hnone]

/-- A piece of work with the peer that it addresses. -/
def Work.toPeer (w : Work) (f n : Nat) (x : Peer) : Work :=
  { w with peer := n, remoteFn := x.remoteFn.toNat / 16 ^ f % 16, peerPort := x.port, peerRetry := x.retry }

theorem beginWork_remote (h : w.desc.op = some .remoteRead ∨ w.desc.op = some .remoteWrite) {x : Peer}
    (hpeer : s.peerFor (s.chFn p) w.desc.remoteInstance = some (n, x)) :
    (s.holding p c w).beginWork p w = s.holding p c (if w.desc.fromChain then
      { w.toPeer (s.chFn p) n x with
        chain := .unresolved, headGob := handleGob w.desc.srcAddr, headGen := handleGen w.desc.srcAddr
        pinned := !s.stale w.desc.srcAddr } else w.toPeer (s.chFn p) n x) := by
  have hsome : (s.holding p c w).peerFor (s.chFn p) w.desc.remoteInstance = some (n, x) := hpeer
  have hmod : (s.holding p c w).modWork p w.serial (fun y => y.toPeer (s.chFn p) n x) = _ := holding_modWork hnew _
  have hresolve := holding_beginResolve_reader (s := s) (p := p) (c := c) (w := w.toPeer (s.chFn p) n x) hnew
    (by show w.desc.op ≠ _; rcases h with h | h <;> rw [h] <;> nofun)
  have hboth : (if w.desc.fromChain then (s.holding p c (w.toPeer (s.chFn p) n x)).beginResolve p (w.toPeer (s.chFn p) n x)
        else s.holding p c (w.toPeer (s.chFn p) n x)) = s.holding p c (if w.desc.fromChain then
      { w.toPeer (s.chFn p) n x with
        chain := .unresolved, headGob := handleGob w.desc.srcAddr, headGen := handleGen w.desc.srcAddr
        pinned := !s.stale w.desc.srcAddr } else w.toPeer (s.chFn p) n x) := by
    rw [hresolve]
    split <;> rfl
  rw [← hboth]
  unfold State.beginWork
  rw [holding_chFn hown]
  rcases h with h | h
  · rw [h]
    dsimp only
    rw [hsome, ← hmod]
    rfl
  · rw [h]
    dsimp only
    rw [hsome, ← hmod]
    rfl

end

/-! ### Takers -/

omit hnew in
theorem beginWork_taker (h : w.desc.op = some .streamIn ∨ w.desc.op = some .streamInGob) :
    (s.holding p c w).beginWork p w = (s.holding p c w).wantPacket p w.serial w.desc.srcAddr := by
  unfold State.beginWork
  rcases h with h | h <;> rw [h]

omit hnew in
theorem wantPacket_waits {q : Nat} (hnone : (s.port q).packets = []) :
    (s.holding p c w).wantPacket p w.serial q
      = (s.holding p c w).modPort q fun x => { x with takers := x.takers ++ [(p, w.serial)] } := by
  unfold State.wantPacket
  rw [show ((s.holding p c w).port q).packets = [] from hnone]

/-- The port gives its oldest packet, whose gap it shows. -/
def State.packetOut (s : State) (q : Nat) (rest : List Packet) (k : Packet) : State :=
  s.modPort q fun x => { x with packets := rest, gapSeen := x.gapSeen || k.gap }

/-- A piece of work with the packet it takes. -/
def Work.taken (w : Work) (k : Packet) : Work :=
  ({ w with pkt := some k, outWords := 0 } : Work).takeRead ({ w with pkt := some k, outWords := 0 } : Work).packetBits

omit hnew in
theorem gap_shown (t : State) (q : Nat) (rest : List Packet) (k : Packet) :
    (if k.gap then (t.modPort q fun x => { x with packets := rest }).modPort q fun x => { x with gapSeen := true }
      else t.modPort q fun x => { x with packets := rest }) = t.packetOut q rest k := by
  unfold State.packetOut State.modPort
  cases hgap : k.gap with
  | false =>
    dsimp only
    rw [if_neg Bool.false_ne_true, Bool.or_false]
  | true =>
    dsimp only
    rw [if_pos rfl, State.setPort_setPort, Bool.or_true, show State.port (State.setPort _ _ _) q = _ from look_put_same _ _ _ _]

theorem wantPacket_gives {k : Packet} {rest : List Packet} (hpkt : (s.port w.desc.srcAddr).packets = k :: rest) :
    (s.holding p c w).wantPacket p w.serial w.desc.srcAddr
      = let t := (s.holding p c (w.taken k)).packetOut w.desc.srcAddr rest k
        if w.desc.op = some .streamInGob then
          if w.oversize k then t.failWork p w.serial .indexRange
          else (s.holding p c { w.taken k with chain := .requesting }).packetOut w.desc.srcAddr rest k
        else if wordsFitting w.desc.dstLayout w.desc.length = 0 then t.failWork p w.serial .indexRange
        else t := by
  have hwork : ((s.holding p c w).modPort w.desc.srcAddr fun x => { x with packets := rest }).work? p w.serial = some w :=
    holding_work? hnew
  have htake : ((s.holding p c w).modPort w.desc.srcAddr fun x => { x with packets := rest }).modWork p w.serial
      (fun x => ({ x with pkt := some k, outWords := 0 } : Work).takeRead
        ({ x with pkt := some k, outWords := 0 } : Work).packetBits)
      = (s.holding p c (w.taken k)).modPort w.desc.srcAddr fun x => { x with packets := rest } := modWork_of_holding (s := s) (w := w) hnew _
  have hreq : ((s.holding p c (w.taken k)).packetOut w.desc.srcAddr rest k).modWork p w.serial
      (fun x => { x with chain := .requesting })
      = (s.holding p c { w.taken k with chain := .requesting }).packetOut w.desc.srcAddr rest k := modWork_of_holding (s := s) (w := w.taken k) hnew _
  unfold State.wantPacket
  rw [show ((s.holding p c w).port w.desc.srcAddr).packets = k :: rest from hpkt]
  dsimp only
  unfold State.givePacket
  rw [hwork]
  dsimp only
  rw [htake, gap_shown, hreq]

end

/-! ### A status that is decided -/

/-- The state of a channel at a failure edge, before its works are cut. -/
def State.failing (s : State) (p n : Nat) (st : Status) : State :=
  (s.modWork p n fun x => { x with verdict := some st }).modChan p fun x =>
    { x with halt := { x.halt with pending := true }, wantsSignal := none, gobWait := none }

theorem halting_core {c d : Chan} (h : c.core = d.core) :
    ({ c with halt := { c.halt with pending := true }, wantsSignal := none, gobWait := none } : Chan).core
      = ({ d with halt := { d.halt with pending := true }, wantsSignal := none, gobWait := none } : Chan).core := by
  have hset := congrArg (fun x : Chan × List (Nat × Option Status) =>
    (({ x.1 with halt := { x.1.halt with pending := true } } : Chan), x.2)) h
  exact hset

/-- A decided status leaves of the channels' modes, registers and works only its own marks. -/
theorem failWork_core (hw : s.work? p n = some w) (hlive : w.live = true) (hst : (s.chan p).state ≠ .aborting)
    (st : Status) : SameCore (s.failing p n st) (s.failWork p n st) := by
  have hcut := (((SameCore.refl (s.modWork p n fun x => { x with verdict := some st })).cutWork p w).dropReqs p n).foldl
    (laterThan n (s.chan p).started) (f := fun t x => t.abandonWork p true x) fun _ x k => k.abandonWork p true x
  have hfail : s.failWork p n st = (((laterThan n (s.chan p).started).foldl (fun t x => t.abandonWork p true x)
      (((s.modWork p n fun x => { x with verdict := some st }).cutWork p w).dropReqs p n)).modChan p fun x =>
        { x with halt := { x.halt with pending := true }, wantsSignal := none, gobWait := none }).raise (chanEvent p 3) := by
    unfold State.failWork
    dsimp only
    rw [hw]
    exact if_neg (not_or.2 ⟨hst, by rw [hlive]; decide⟩)
  rw [hfail]
  refine SameCore.raise (fun q => ?_) _
  unfold State.failing
  rw [State.modChan_chan, State.modChan_chan]
  split
  · exact halting_core (hcut p)
  · exact hcut q

theorem find?_core (n : Nat) (l : List Work) : (l.find? fun x => x.serial == n).map Work.core
    = (l.map Work.core).find? fun x => x.1 == n := by
  rw [List.find?_map]
  rfl

theorem work?_core (h : SameCore s t) (p n : Nat) : (t.work? p n).map Work.core = (s.work? p n).map Work.core := by
  rw [State.work?, State.work?, find?_core, find?_core]
  exact congrArg (fun x : Chan × List (Nat × Option Status) => x.2.find? fun x => x.1 == n) (h p)

theorem updWork_find? {l : List Work} (h : l.find? (fun x => x.serial == n) = some w) {g : Work → Work}
    (hg : (g w).serial = w.serial) : (updWork n g l).find? (fun x => x.serial == n) = some (g w) := by
  induction l with
  | nil => cases h
  | cons x l ih =>
    rw [List.find?_cons] at h
    rw [updWork]
    split at h
    · next hx =>
      cases h
      rw [if_pos (beq_iff_eq.1 hx), List.find?_cons, hg, hx]
    · next hx =>
      rw [if_neg (beq_eq_false_iff_ne.1 hx), List.find?_cons, hx]
      exact ih h

theorem modWork_work? (hw : s.work? p n = some w) {g : Work → Work} (hg : (g w).serial = w.serial) :
    (s.modWork p n g).work? p n = some (g w) := by
  unfold State.modWork
  rw [State.work?, State.modChan_chan, if_pos rfl]
  exact updWork_find? hw hg

theorem failing_work? (hw : s.work? p n = some w) (st : Status) :
    (s.failing p n st).work? p n = some { w with verdict := some st } := by
  have h := modWork_work? (g := fun x => { x with verdict := some st }) hw rfl
  unfold State.failing
  rw [State.work?, State.modChan_chan, if_pos rfl]
  exact h

theorem failWork_verdict (hw : s.work? p n = some w) (hlive : w.live = true) (hst : (s.chan p).state ≠ .aborting)
    (st : Status) : ((s.failWork p n st).work? p n).map Work.core = some (w.serial, some st) := by
  rw [work?_core (failWork_core hw hlive hst st), failing_work? hw]
  rfl

theorem not_live_of_core {o : Option Work} {st : Status} (h : o.map Work.core = some (n, some st)) :
    o.any Work.live = false := by
  obtain ⟨x, rfl, hx⟩ := Option.map_eq_some_iff.1 h
  have hverdict : x.verdict = some st := congrArg Prod.snd hx
  rw [Option.any_some, Work.live, hverdict]
  exact Bool.and_false _

theorem SameCore.log (h : SameCore s t) (k src : Nat) (d : List Byte) : SameCore s (t.log k src d) := by
  unfold State.log
  split
  · exact h.upd
  · split
    · exact h.upd
    · exact (h.upd (u := { t with gaf := { t.gaf with
        logLost := satAdd 16 t.gaf.logLost 1, logLostSince := t.gaf.logLostSince + 1 } })).raise _

theorem SameCore.raiseUp (h : SameCore s t) (n : Nat) : SameCore s (t.raiseUp n) := ite (h.raise n) h

theorem SameCore.setCause (h : SameCore s t) (b : Nat) : SameCore s (t.setCause b) := by
  unfold State.setCause
  dsimp only
  split
  · exact h.upd
  · exact (SameCore.raiseUp h.upd _).log _ _ _

theorem SameCore.chanCause (h : SameCore s t) (p b : Nat) : SameCore s (t.chanCause p b) := by
  unfold State.chanCause
  split
  · exact ite (h.setCause b) h
  · exact h

/-! ### A stale start -/

/-- A stale edge decides STALE for live work of a channel that does not abort. -/
theorem staleEdge_verdict (hw : s.work? p w.serial = some w) (hlive : w.live = true) (hst : (s.chan p).state ≠ .aborting)
    (hcause : (s.staleCause p w).isSome = true) :
    ((s.staleEdge p w).work? p w.serial).map Work.core = some (w.serial, some .stale) := by
  obtain ⟨k, hk⟩ := Option.isSome_iff_exists.1 hcause
  unfold State.staleEdge
  rw [hk]
  dsimp only
  rw [work?_core ((((SameCore.refl _).raise (chanEvent p 6)).chanCause p 0).raise 1408)]
  refine failWork_verdict (w := { w with staleDone := true }) (modWork_work? ?_ rfl) hlive ?_ .stale
  · rw [State.work?, State.modChan_chan, if_pos rfl]
    exact hw
  · unfold State.modWork
    rw [State.modChan_chan, if_pos rfl, State.modChan_chan, if_pos rfl]
    exact hst

theorem startWork_stale {idx : Nat} {desc : Desc} {pass : Bool} (hw : w = { serial := s.nextId, idx := idx, desc := desc, pass := pass })
    (hfree : s.work? p s.nextId = none) (hst : (s.chan p).state ≠ .aborting)
    (hstale : (s.withWork p w).isStale p w = true) :
    s.startWork p idx desc pass [] = (s.withWork p w).staleEdge p w := by
  have hserial : w.serial = s.nextId := by rw [hw]
  have hcause : ((s.withWork p w).staleCause p w).isSome = true := by
    rw [State.isStale, Bool.and_eq_true] at hstale
    exact hstale.2
  have hstate : ((s.withWork p w).chan p).state ≠ .aborting := by
    show ((s.modChan p fun c => { c with started := c.started ++ [w] }).chan p).state ≠ _
    rw [State.modChan_chan, if_pos rfl]
    exact hst
  have hverdict := staleEdge_verdict (withWork_work? (hserial ▸ hfree)) (by rw [hw]; rfl) hstate hcause
  subst hw
  rw [startWork_eq]
  dsimp only [State.ctxFaults, List.foldl_nil]
  rw [if_pos hstale]
  exact if_neg (by rw [not_live_of_core hverdict]; decide)

/-! ### The start of an entry -/

/-- The channel with a credit of its gate spent. -/
def Chan.spent (c : Chan) : Chan := { c with credit := if c.cfg.paceSrc = 0 then c.credit else c.credit - 1 }

theorem takeCredit_credited (h : (s.chan p).cfg.paceSrc = 0 ∨ 0 < (s.chan p).credit) :
    ∃ t, s.takeCredit p = (true, t) ∧ t.chan p = (s.chan p).spent ∧ ∀ g, t.modChan p g = s.setChan p (g (s.chan p).spent) := by
  by_cases hfree : (s.chan p).cfg.paceSrc = 0
  · have hspent : (s.chan p).spent = s.chan p := by rw [Chan.spent, if_pos hfree]
    rw [hspent]
    exact ⟨s, takeCredit_free hfree, rfl, fun _ => rfl⟩
  · have hspent : (s.chan p).spent = { s.chan p with credit := (s.chan p).credit - 1 } := by rw [Chan.spent, if_neg hfree]
    rw [hspent]
    refine ⟨s.modChan p fun x => { x with credit := x.credit - 1 }, ?_, by rw [State.modChan_chan, if_pos rfl],
      fun g => modChan_modChan s p _ g⟩
    unfold State.takeCredit
    dsimp only
    rw [if_neg hfree, if_pos (h.resolve_left hfree)]

theorem startable_running {e : Entry} (h : s.startable p = some e) : (s.chan p).state = .running := by
  unfold State.startable at h
  dsimp only at h
  split at h
  · cases h
  · split at h
    · next hc =>
      simp only [Bool.and_eq_true] at hc
      obtain ⟨⟨⟨⟨⟨_, hrun⟩, _⟩, _⟩, _⟩, _⟩ := hc
      exact beq_iff_eq.1 hrun
    · cases h

/-- The channel at the start edge of its next accepted entry. -/
def Chan.entered (c : Chan) : Chan := { c.spent with ring := { c.ring with accepted := c.ring.accepted.drop 1 } }

theorem entered_free (h : c.cfg.paceSrc = 0) :
    c.entered = { c with ring := { c.ring with accepted := c.ring.accepted.drop 1 } } := by
  rw [Chan.entered, Chan.spent, if_pos h]

section
variable {e : Entry} (hnext : s.startable p = some e)
include hnext

theorem exec_descriptorStart (hcredit : (s.chan p).cfg.paceSrc = 0 ∨ 0 < (s.chan p).credit) :
    (∀ cond, s.malformation p e.desc = some cond → exec (.descriptorStart p []) s = .next (s.settle
      ((s.setChan p (s.chan p).entered).malformed p e.idx cond (BitVec.ofNat 8 e.desc.opcode))))
    ∧ (s.malformation p e.desc = none → exec (.descriptorStart p []) s = .next (s.settle
      ((s.setChan p (s.chan p).entered).startWork p e.idx e.desc false []))) := by
  obtain ⟨t, htake, _, hmod⟩ := takeCredit_credited hcredit
  have hentered := hmod fun c => { c with ring := { c.ring with accepted := c.ring.accepted.drop 1 } }
  refine ⟨fun cond hbad => ?_, fun hgood => ?_⟩
  · show execDescriptorStart p [] s = _
    unfold execDescriptorStart
    rw [hnext]
    dsimp only
    rw [htake]
    dsimp only
    rw [hbad, hentered]
    rfl
  · show execDescriptorStart p [] s = _
    unfold execDescriptorStart
    rw [hnext]
    dsimp only
    rw [htake]
    dsimp only
    rw [hgood, hentered]
    rfl

/-- An entry whose gate gives no credit waits. -/
theorem exec_descriptorStart_waits (htake : s.takeCredit p = (false, t)) :
    exec (.descriptorStart p []) s = .next (s.settle t) := by
  show execDescriptorStart p [] s = _
  unfold execDescriptorStart
  rw [hnext]
  dsimp only
  rw [htake]
  rfl

end

theorem isStale_holding (hage : c.ageBound = (s.chan p).ageBound) (hlead : c.leadLimit = (s.chan p).leadLimit) :
    (s.holding p c w).isStale p w = s.isStale p w := by
  unfold State.isStale State.staleCause
  dsimp only
  rw [holding_chan, ← hage, ← hlead]
  rfl

section
variable {e : Entry} (hnext : s.startable p = some e) (hcredit : (s.chan p).cfg.paceSrc = 0 ∨ 0 < (s.chan p).credit)
  (hgood : s.malformation p e.desc = none) (hfree : s.work? p s.nextId = none)
  (hw : w = { serial := s.nextId, idx := e.idx, desc := e.desc })
include hnext hcredit hgood hfree hw

theorem descriptorStart_stale (hstale : s.isStale p w = true) : exec (.descriptorStart p []) s
    = .next (s.settle ((s.holding p (s.chan p).entered w).staleEdge p w)) := by
  have hheld := withWork_setChan s p (s.chan p).entered w
  rw [(exec_descriptorStart hnext hcredit).2 hgood, startWork_stale (s := s.setChan p _) (w := w) hw, hheld]
  · rw [State.work?, setChan_chan_same]
    exact hfree
  · rw [setChan_chan_same]
    show (s.chan p).state ≠ _
    rw [startable_running hnext]
    nofun
  · rw [hheld]
    exact (isStale_holding (c := (s.chan p).entered) rfl rfl).trans hstale

theorem descriptorStart_begins (hstale : s.isStale p w = false) : exec (.descriptorStart p []) s
    = .next (s.settle ((s.holding p (s.chan p).entered w).beginWork p w)) := by
  have hheld := withWork_setChan s p (s.chan p).entered w
  rw [(exec_descriptorStart hnext hcredit).2 hgood, startWork_begins (s := s.setChan p _) (w := w) hw, hheld]
  · rw [State.work?, setChan_chan_same]
    exact hfree
  · rw [hheld]
    exact (isStale_holding (c := (s.chan p).entered) rfl rfl).trans hstale

end

/-! ### The halt of a function -/

/-- Each function of `t` has its registers of `s`, but for its events and signals. -/
def FnKept (s t : State) : Prop := ∀ f, (t.fn f).core = (s.fn f).core

theorem FnKept.refl (s : State) : FnKept s s := fun _ => rfl

theorem FnKept.upd (h : FnKept s t) (hf : u.fns = t.fns := by rfl) : FnKept s u :=
  fun f => by rw [State.fn, hf]; exact h f

theorem FnKept.modChan (h : FnKept s t) (p : Nat) (g : Chan → Chan) : FnKept s (t.modChan p g) := h.upd

theorem FnKept.cut (h : FnKept s t) (c : Cut t u) : FnKept s u := h.upd c.fns

theorem FnKept.raise (h : FnKept s t) (k : Nat) : FnKept s (t.raise k) := fun f => (raise_fn_core k f).trans (h f)

theorem FnKept.ite {d : Prop} [Decidable d] {a b : State} (ha : FnKept s a) (hb : FnKept s b) :
    FnKept s (if d then a else b) := by split <;> assumption

theorem FnKept.foldl {α : Type} {f : State → α → State} (l : List α) (h : FnKept s t)
    (hf : ∀ u x, FnKept s u → FnKept s (f u x)) : FnKept s (l.foldl f t) := by
  induction l generalizing t with
  | nil => exact h
  | cons a r ih => exact ih (hf t a h)

theorem FnKept.dropEntries (h : FnKept s t) (p : Nat) : FnKept s (t.dropEntries p) :=
  (h.cut ((Cut.refl t).dropWhere _)).upd

theorem FnKept.kickIndex (h : FnKept s t) (p : Nat) : FnKept s (t.kickIndex p) := by
  unfold State.kickIndex
  exact ite h.upd h

theorem FnKept.flushIndex (h : FnKept s t) (p : Nat) (r : Report) : FnKept s (t.flushIndex p r) := by
  unfold State.flushIndex
  exact ite (FnKept.kickIndex (h.upd (u := State.modChan t p _)) p) h

theorem FnKept.addReport (h : FnKept s t) (p : Nat) (r : Report) (now : Bool) : FnKept s (t.addReport p r now) := by
  unfold State.addReport
  exact ite h.upd (FnKept.kickIndex (h.upd (u := State.setChan t p _)) p)

theorem FnKept.dropSpace (h : FnKept s t) (p : Nat) (w : Work) : FnKept s (t.dropSpace p w) := by
  have hfree := h.foldl w.landed (f := fun u g => u.freeLane (benchOf p) (segLanding w g) g.space)
    fun u g k => k.cut ((Cut.refl u).freeLane _ _ _)
  unfold State.dropSpace
  dsimp only
  split
  · exact hfree.upd
  · exact hfree

theorem FnKept.clearWork (h : FnKept s t) (p : Nat) : FnKept s (t.clearWork p) :=
  (h.foldl _ fun _ w k => k.dropSpace p w).upd

theorem FnKept.finishAbort (h : FnKept s t) (p : Nat) : FnKept s (t.finishAbort p) := by
  unfold State.finishAbort
  dsimp only
  split
  · exact (((h.dropEntries p).modChan p _).flushIndex p _).raise _
  · have hend := fun g k => (((h.clearWork p).modChan p g).dropEntries p).modChan p k
    exact ite ((hend _ _).addReport p _ true) ((hend _ _).raise _)

theorem FnKept.startAbort (h : FnKept s t) (p : Nat) (byFn : Bool) : FnKept s (t.startAbort p byFn) := by
  have hdrop : FnKept s ((t.modChan p fun c => c.aborting byFn).dropFetch p) :=
    (h.upd (u := t.modChan p _)).cut ((Cut.refl _).dropWhere _)
  rw [startAbort_eq]
  dsimp only
  split
  · exact hdrop.finishAbort p
  · next w later _ =>
    have hlater := hdrop.foldl later (f := fun u x => u.abandonWork p false x)
      fun u x k => k.cut ((Cut.refl u).abandonWork p false x)
    exact hlater.cut (((Cut.refl _).cutWork p w).modWork _ _ _)

theorem FnKept.haltChan (h : FnKept s t) (p : Nat) : FnKept s (t.haltChan p) := by
  unfold State.haltChan
  dsimp only
  split
  · exact h
  · split
    · exact (h.raise _).startAbort p true
    · exact (h.raise _).startAbort p true
    · exact (h.raise _).upd
    · exact h

theorem FnKept.forgetPoint (h : FnKept s t) (p : Nat) : FnKept s (t.forgetPoint p) := by
  unfold State.forgetPoint
  exact ite h.upd h

/-- A malformed entry halts its channel's function with its condition. -/
theorem malformed_halts (s : State) (p idx cond : Nat) (opcode : BitVec 8) :
    ((s.malformed p idx cond opcode).fn (s.chFn p)).halted = true
    ∧ ((s.malformed p idx cond opcode).fn (s.chFn p)).haltSeen = true
    ∧ ((s.malformed p idx cond opcode).fn (s.chFn p)).haltCond = cond := by
  have hmod := State.modFn_fn s (s.chFn p) (s.chFn p) fun x =>
    { x with halted := true, haltSeen := true, malformedCount := satAdd 16 x.malformedCount 1
             haltSlot := ((s.chan p).owner.map Prod.snd).getD 0, haltCond := cond, haltOpcode := opcode
             haltIdx := (s.chan p).idxReg idx }
  rw [if_pos rfl] at hmod
  have hkept := ((((FnKept.refl (s.modFn (s.chFn p) fun x =>
    { x with halted := true, haltSeen := true, malformedCount := satAdd 16 x.malformedCount 1
             haltSlot := ((s.chan p).owner.map Prod.snd).getD 0, haltCond := cond, haltOpcode := opcode
             haltIdx := (s.chan p).idxReg idx })).forgetPoint p).foldl
      (State.chansOf (s.modFn (s.chFn p) fun x =>
    { x with halted := true, haltSeen := true, malformedCount := satAdd 16 x.malformedCount 1
             haltSlot := ((s.chan p).owner.map Prod.snd).getD 0, haltCond := cond, haltOpcode := opcode
             haltIdx := (s.chan p).idxReg idx }) (s.chFn p)) (f := fun t q => t.haltChan q)
      fun _ q k => k.haltChan q).raise (fnEvent (s.chFn p) 1)) (s.chFn p)
  rw [hmod] at hkept
  exact ⟨(congrArg Fn.halted hkept : _), (congrArg Fn.haltSeen hkept : _), (congrArg Fn.haltCond hkept : _)⟩

/-! ### The start of a pass -/

theorem exec_passStart (hdue : (s.chan p).direct.due = true) (hrun : (s.chan p).state = .running)
    (hmode : (s.chan p).cfg.ringMode = false) (hnone : (s.chan p).started = []) (hpend : (s.chan p).halt.pending = false)
    (hcredit : (s.chan p).cfg.paceSrc = 0 ∨ 0 < (s.chan p).credit) :
    (s.passRefused p = true → exec (.passStart p) s = .next (s.settle (((s.setChan p { (s.chan p).spent with
      state := .idle, direct := { (s.chan p).direct with due := false, first := false } }).ignFn (s.chFn p)
        (s.ctlOffset p) 2).raise (chanEvent p 4))))
    ∧ (s.passRefused p = false → exec (.passStart p) s = .next (s.settle ((s.setChan p { (s.chan p).spent with
      direct := { (s.chan p).direct with due := false, first := false } }).startWork p 0 (s.chan p).passDesc true []))) := by
  obtain ⟨t, htake, hchan, hmod⟩ := takeCredit_credited hcredit
  have hopen : (!((s.chan p).direct.due && (s.chan p).state == ChState.running && !(s.chan p).cfg.ringMode
      && (s.chan p).started.isEmpty && !(s.chan p).halt.pending)) = false := by
    rw [hdue, hrun, hmode, hnone, hpend]
    rfl
  have hexec : exec (.passStart p) s = execPassStart p s := rfl
  have hbegin : t.passBegin p = (s.setChan p { (s.chan p).spent with
      direct := { (s.chan p).direct with due := false, first := false } }).startWork p 0 (s.chan p).passDesc true [] := by
    unfold State.passBegin
    rw [hmod, hchan]
    rfl
  rw [hexec]
  unfold execPassStart
  dsimp only
  rw [hopen, if_neg Bool.false_ne_true, htake]
  dsimp only
  refine ⟨fun hbad => ?_, fun hgood => ?_⟩
  · rw [if_pos hbad, hmod]
    rfl
  · rw [if_neg (by rw [hgood]; decide), hbegin]
    rfl

/-- The channel of a started pass, but for the pass. -/
def Chan.passing (c : Chan) : Chan := { c.spent with direct := { c.direct with due := false, first := false } }

theorem passDesc_op_port {c : Chan} (h : spaceOf c.direct.src = 1) : c.passDesc.op = some .streamIn := by
  rw [Desc.op, passDesc_opcode, if_pos h]
  rfl

theorem passStart_begins (hnone : (s.chan p).started = []) (hw : w = { serial := s.nextId, idx := 0, desc := (s.chan p).passDesc, pass := true }) :
    (s.setChan p (s.chan p).passing).startWork p 0 (s.chan p).passDesc true []
      = (s.holding p (s.chan p).passing w).beginWork p w := by
  rw [startWork_begins (s := s.setChan p _) (w := w) hw, withWork_setChan]
  · rw [State.work?, setChan_chan_same, show (s.chan p).passing.started = (s.chan p).started from rfl, hnone]
    rfl
  · exact isStale_pass (by rw [hw])

section
variable (hnone : (s.chan p).started = [])
  (hw : w = { serial := s.nextId, idx := 0, desc := (s.chan p).passDesc, pass := true })
include hnone hw

theorem pass_fromMemory (hsrc : spaceOf (s.chan p).direct.src = 0) :
    (s.setChan p (s.chan p).passing).startWork p 0 (s.chan p).passDesc true [] = s.holding p (s.chan p).passing w := by
  rw [passStart_begins hnone hw]
  exact beginWork_passFromMemory (by rw [hw]) hsrc

/-- A pass from a port takes its packet as a STREAM_IN does. -/
theorem pass_fromPort (hsrc : spaceOf (s.chan p).direct.src = 1) :
    (s.setChan p (s.chan p).passing).startWork p 0 (s.chan p).passDesc true []
      = (s.holding p (s.chan p).passing w).wantPacket p w.serial w.desc.srcAddr := by
  rw [passStart_begins hnone hw]
  exact beginWork_taker (.inl (by rw [hw]; exact passDesc_op_port hsrc))

end

/-- A memory-bound taker with room for a word keeps its packet. -/
theorem wantPacket_words (hnew : c.lacks w.serial) {k : Packet} {rest : List Packet}
    (hpkt : (s.port w.desc.srcAddr).packets = k :: rest) (hop : w.desc.op = some .streamIn)
    (hfits : wordsFitting w.desc.dstLayout w.desc.length ≠ 0) :
    (s.holding p c w).wantPacket p w.serial w.desc.srcAddr
      = (s.holding p c (w.taken k)).packetOut w.desc.srcAddr rest k := by
  rw [wantPacket_gives hnew hpkt]
  dsimp only
  rw [if_neg (by rw [hop]; nofun), if_neg hfits]

/-- Settles O32: every start is `State.holding` of its channel and work, followed by what its opcode begins. -/
theorem workStarts : Obligations.WorkStarts := by
  intro s p hfree
  refine ⟨fun e hnext hcredit hgood => ⟨descriptorStart_stale hnext hcredit hgood hfree rfl, fun hfresh => ?_⟩,
    fun e hnext hcredit => ⟨fun hpace => ?_, fun hpace hcount hwants => ?_⟩,
    fun e cond hnext hpace hbad => ⟨_, (exec_descriptorStart hnext (.inl hpace)).1 cond hbad, ?_, ?_⟩,
    fun hdue hrun hmode hnone hpend hcredit => ?_⟩
  · have hnew : (s.chan p).entered.lacks ({ serial := s.nextId, idx := e.idx, desc := e.desc } : Work).serial := hfree
    have hstart := fun {t : State} (h : State.beginWork _ p _ = t) =>
      (descriptorStart_begins hnext hcredit hgood hfree rfl hfresh).trans
        (congrArg (fun t => Host.Outcome.next (s.settle t)) h)
    refine ⟨fun hop => hstart (beginWork_plain hnew hop), fun hop => hstart (beginWork_punty hnew hop),
      fun hop hno => hstart (beginWork_waits hnew rfl hop hno),
      fun hop hgate hcount => hstart (beginWork_acts hnew rfl hop hgate hcount),
      fun hop hnone => hstart ((beginWork_taker hop).trans (wantPacket_waits hnone)), fun k rest hpkt => ?_,
      fun hop => ⟨fun hpeer => hstart (beginWork_unreachable rfl hop hpeer),
        fun n x hpeer => hstart (beginWork_remote hnew rfl hop hpeer)⟩⟩
    refine ⟨fun hop hfits => hstart ((beginWork_taker (.inl hop)).trans (wantPacket_words hnew hpkt hop hfits)),
      fun hop hfits => hstart ((beginWork_taker (.inl hop)).trans ((wantPacket_gives hnew hpkt).trans ?_)),
      fun hop hroom => hstart ((beginWork_taker (.inr hop)).trans ((wantPacket_gives hnew hpkt).trans ?_)),
      fun hop hroom => hstart ((beginWork_taker (.inr hop)).trans ((wantPacket_gives hnew hpkt).trans ?_))⟩
    · dsimp only
      rw [if_neg (by rw [hop]; nofun), if_pos hfits]
      rfl
    · dsimp only
      rw [if_pos hop, if_neg (by rw [Work.oversize, decide_eq_true_iff]; exact Nat.not_lt.2 hroom)]
      rfl
    · dsimp only
      rw [if_pos hop, if_pos (by rw [Work.oversize, decide_eq_true_iff]; exact hroom)]
      rfl
  · refine exec_descriptorStart_waits hnext ?_
    unfold State.takeCredit
    dsimp only
    rw [if_neg (by omega), if_neg (by omega), if_neg (by omega)]
  · refine exec_descriptorStart_waits hnext ?_
    unfold State.takeCredit
    dsimp only
    rw [if_neg (by omega), if_neg (by omega), if_pos hpace, if_neg (by omega),
      if_neg (by rw [hwants]; decide)]
    rfl
  · rw [entered_free hpace]
  · have hhalts := malformed_halts (s.setChan p (s.chan p).entered) p e.idx cond (BitVec.ofNat 8 e.desc.opcode)
    have hfn : (s.setChan p (s.chan p).entered).chFn p = s.chFn p := by
      unfold State.chFn State.fnOfChan
      rw [setChan_chan_same]
      rfl
    rw [hfn] at hhalts
    exact hhalts
  · obtain ⟨hbad, hgood⟩ := exec_passStart hdue hrun hmode hnone hpend hcredit
    have hnew : (s.chan p).passing.lacks
        ({ serial := s.nextId, idx := 0, desc := (s.chan p).passDesc, pass := true } : Work).serial := hfree
    have hstart := fun {t : State} hok (h : (s.setChan p (s.chan p).passing).startWork p 0 (s.chan p).passDesc true [] = t) =>
      (hgood hok).trans (congrArg (fun t => Host.Outcome.next (s.settle t)) h)
    have hlist : ∀ x : Work, s.holding p (s.chan p).passing x
        = { s.setChan p { (s.chan p).passing with started := [x] } with nextId := s.nextId + 1 } := fun x => by
      unfold State.holding
      rw [show (s.chan p).passing.started = (s.chan p).started from rfl, hnone]
      rfl
    refine ⟨fun hok hsrc => hstart hok ((pass_fromMemory hnone rfl hsrc).trans (hlist _)), fun hok hsrc hpkt => ?_,
      fun k rest hok hsrc hpkt hfits => ?_, hbad⟩
    · refine hstart hok ((pass_fromPort hnone rfl hsrc).trans ((wantPacket_waits hpkt).trans ?_))
      rw [hlist]
      rfl
    · refine hstart hok ((pass_fromPort hnone rfl hsrc).trans ((wantPacket_words hnew hpkt (passDesc_op_port hsrc)
        hfits).trans ?_))
      rw [hlist]
      rfl

end Sys2Proof.Machine
end

section
/-! The schedulers of a bench (R139 to R142), the burst of a grant (R280) and the address scan (R281). -/

namespace Sys2Proof.Machine

variable {s t u : State} {b pick k i p n : Nat} {dir : Dir}

/-! ### The class and the channel -/

theorem mem_candidates_cls {step1 : Bool} : i ∈ s.candidates b dir pick k step1 ↔ i < 16
    ∧ ∃ q, s.nextBid b dir pick k i = some q ∧ q.cls = k ∧ (step1 = false ∨ k = 3
      ∨ ((((s.bench b).sched dir).cl k).count + q.txn.beats ≤ capOf ((s.bench b).cap dir) k)) := by
  rw [mem_candidates]
  have hcls : ∀ q, s.nextBid b dir pick k i = some q → q.cls = k := fun q hq => by
    have hmem := List.mem_of_getElem? hq
    exact beq_iff_eq.1 (List.mem_filter.1 hmem).2
  have hcap : ∀ q : Bid, (step1 = true → k ≠ 3 → (((s.bench b).sched dir).cl k).count + q.txn.beats
        ≤ capOf ((s.bench b).cap dir) k)
      ↔ (step1 = false ∨ k = 3 ∨ ((((s.bench b).sched dir).cl k).count + q.txn.beats ≤ capOf ((s.bench b).cap dir) k)) :=
    fun q => by
      cases step1 with
      | false => exact ⟨fun _ => .inl rfl, fun _ => nofun⟩
      | true =>
        constructor
        · intro h
          by_cases hk : k = 3
          · exact .inr (.inl hk)
          · exact .inr (.inr (h rfl hk))
        · rintro (h | h | h)
          · cases h
          · exact fun _ hk => absurd h hk
          · exact fun _ _ => h
  refine and_congr_right fun _ => exists_congr fun q => ?_
  constructor
  · rintro ⟨hq, hc⟩
    exact ⟨hq, hcls q hq, (hcap q).1 hc⟩
  · rintro ⟨hq, _, hc⟩
    exact ⟨hq, (hcap q).2 hc⟩

/-- The first class with candidates is found, whatever they are. -/
theorem find_first_class {cand : Nat → List Nat} (hk : k < 4) (hsome : cand k ≠ []) (hnone : ∀ j, j < k → cand j = []) :
    ((List.range 4).map fun j => (j, cand j)).find? (fun e => !e.2.isEmpty) = some (k, cand k) := by
  rw [List.find?_eq_some_iff_getElem]
  refine ⟨by rw [List.isEmpty_eq_false_iff.2 hsome]; rfl, k, by simpa using hk, by simp, fun j hj => ?_⟩
  simp [hnone j hj]

theorem find_no_class {cand : Nat → List Nat} (hnone : ∀ j, j < 4 → cand j = []) :
    ((List.range 4).map fun j => (j, cand j)).find? (fun e => !e.2.isEmpty) = none := by
  rw [List.find?_eq_none]
  intro e he
  obtain ⟨j, hj, rfl⟩ := List.mem_map.1 he
  simp [hnone j (List.mem_range.1 hj)]

theorem selectClass_capped (hk : k < 4) (hsome : s.candidates b dir pick k true ≠ [])
    (hnone : ∀ j, j < k → s.candidates b dir pick j true = []) :
    s.selectClass b dir pick = some (k, s.candidates b dir pick k true) := by
  unfold State.selectClass
  dsimp only
  rw [find_first_class (cand := fun j => s.candidates b dir pick j true) hk hsome hnone, Option.some_or]

theorem selectClass_uncapped (hfull : ∀ j, j < 4 → s.candidates b dir pick j true = []) :
    s.selectClass b dir pick = ((List.range 4).map fun j => (j, s.candidates b dir pick j false)).find?
      (fun e => !e.2.isEmpty) := by
  unfold State.selectClass
  dsimp only
  rw [find_no_class (cand := fun j => s.candidates b dir pick j true) hfull, Option.none_or]

theorem selectClass_none (h : ∀ k i, k < 4 → i < 16 → s.nextBid b dir pick k i = none) :
    s.selectClass b dir pick = none := by
  have hempty : ∀ step1 j, j < 4 → s.candidates b dir pick j step1 = [] := fun step1 j hj => by
    refine List.eq_nil_iff_forall_not_mem.2 fun i hi => ?_
    obtain ⟨h16, q, hq, _⟩ := mem_candidates.1 hi
    rw [h j i hj h16] at hq
    cases hq
  rw [selectClass_uncapped (hempty true)]
  exact find_no_class (cand := fun j => s.candidates b dir pick j false) (hempty false)

/-- The channel after the last turn comes first. -/
theorem nextAfter_least {last a : Nat} {l : List Nat} (hlast : last < 16) (h : nextAfter last l = some a) (hi : i ∈ l)
    (h16 : i < 16) : (a + 15 - last) % 16 ≤ (i + 15 - last) % 16 := by
  unfold nextAfter at h
  obtain ⟨_, m, hm, ha, hbefore⟩ := List.find?_eq_some_iff_getElem.1 h
  simp only [List.length_map, List.length_range] at hm
  simp only [List.getElem_map, List.getElem_range] at ha hbefore
  by_contra hlt
  have hskip := hbefore ((i + 15 - last) % 16) (by omega)
  rw [show (last + 1 + (i + 15 - last) % 16) % 16 = i by omega, List.contains_iff_mem.2 hi] at hskip
  cases hskip

theorem nextAfter_of_least {last : Nat} {l : List Nat} (hlast : last < 16) (h16 : i < 16) (hi : i ∈ l)
    (hleast : ∀ j ∈ l, j < 16 → (i + 15 - last) % 16 ≤ (j + 15 - last) % 16) : nextAfter last l = some i := by
  obtain ⟨a, ha, hmem, ha16⟩ := nextAfter_mem (last := last) ⟨i, hi, h16⟩
  have hle := nextAfter_least hlast ha hi h16
  have hge := hleast a hmem ha16
  rw [ha, show a = i by omega]

section
variable {c : ClassState} {cand : List Nat}

theorem turn_goes_on (h : c.inTurn = true ∧ c.last ∈ cand ∧ c.used < (s.chan (16 * b + c.last)).cfg.burst) :
    s.turn b c cand = some (c.last, { c with used := c.used + 1 }) := by
  obtain ⟨hturn, hmem, hused⟩ := h
  exact if_pos (by rw [hturn, List.contains_iff_mem.2 hmem, decide_eq_true hused]; rfl)

theorem turn_passes (h : ¬ (c.inTurn = true ∧ c.last ∈ cand ∧ c.used < (s.chan (16 * b + c.last)).cfg.burst)) :
    (∀ i, nextAfter c.last (cand.filter fun i => decide (0 < look 0 (s.turnsLeft b c) i)) = some i →
      s.turn b c cand = some (i, c.takeTurn (s.turnsLeft b c) i))
    ∧ (nextAfter c.last (cand.filter fun i => decide (0 < look 0 (s.turnsLeft b c) i)) = none → ∀ i,
      nextAfter c.last cand = some i → s.turn b c cand = some (i, c.takeTurn (s.weights b) i)) := by
  have hover : (c.inTurn && cand.contains c.last && decide (c.used < (s.chan (16 * b + c.last)).cfg.burst)) ≠ true := by
    simp only [Bool.and_eq_true, List.contains_iff_mem, decide_eq_true_iff, and_assoc, ne_eq]
    exact h
  unfold State.turn
  rw [if_neg hover]
  refine ⟨fun i hi => by rw [hi], fun hnone i hi => ?_⟩
  rw [hnone, hi]
  rfl

theorem weights_look (h : i < 16) : look 0 (s.weights b) i = (s.chan (16 * b + i)).cfg.weight := by
  have hlook : ∀ (f : Nat → Nat) (l : List Nat), i ∈ l → look 0 (l.map fun j => (j, f j)) i = f i := by
    intro f l
    induction l with
    | nil => nofun
    | cons a l ih =>
      intro hi
      rw [List.map_cons, look_cons]
      split
      · next ha => rw [ha]
      · next ha => exact ih ((List.mem_cons.1 hi).resolve_left ha)
  exact hlook _ _ (List.mem_range.2 h)

theorem turnsLeft_new (h : c.left = []) : s.turnsLeft b c = s.weights b := if_pos (by rw [h]; rfl)

theorem turnsLeft_running (h : c.left ≠ []) : s.turnsLeft b c = c.left :=
  if_neg (by rw [List.isEmpty_eq_false_iff.2 h]; decide)

theorem atEdge_eq (c : ClassState) (el : List Nat) : c.atEdge el = { c with
    inTurn := c.inTurn && el.contains c.last
    left := if ∃ i ∈ el, 0 < look 0 c.left i then c.left else [] } := by
  have hany : (el.any fun i => decide (0 < look 0 c.left i)) = true ↔ ∃ i ∈ el, 0 < look 0 c.left i := by
    simp only [List.any_eq_true, decide_eq_true_iff]
  unfold ClassState.atEdge
  simp only [hany]

end

/-! ### The count of a grant -/

/-- Entries rewritten one after the other, each in its own way. -/
theorem look_foldl_put {α : Type} (d : α) (h : Nat → α → α) (hh : ∀ j a, h j (h j a) = h j a) :
    ∀ (l : List Nat) (t : Tbl α) (m : Nat), look d (l.foldl (fun t j => put t j (h j (look d t j))) t) m
      = if m ∈ l then h m (look d t m) else look d t m := by
  intro l
  induction l with
  | nil => exact fun _ _ => rfl
  | cons a l ih =>
    intro t m
    rw [List.foldl_cons, ih, look_put]
    by_cases hm : m = a
    · subst m
      rw [if_pos rfl, if_pos List.mem_cons_self, hh, ite_self]
    · rw [if_neg hm]
      simp only [List.mem_cons, hm, false_or]

/-- The classes with the granted beats, before a full window closes. -/
def Sched.granted (x : Sched) (k beats : Nat) (c : ClassState) : Tbl ClassState :=
  put ((List.range 4).foldl (fun t j => put t j { x.cl j with inTurn := false }) x.cls) k { c with count := c.count + beats }

theorem granted_look {x : Sched} {c : ClassState} {j : Nat} (hj : j < 4) : look {} (x.granted k n c) j
    = if j = k then { c with count := c.count + n } else { x.cl j with inTurn := false } := by
  unfold Sched.granted
  rw [look_put]
  split
  · rfl
  · exact (look_foldl_put ({} : ClassState) (fun j _ => { x.cl j with inTurn := false }) (fun _ _ => rfl) (List.range 4)
      x.cls j).trans (if_pos (List.mem_range.2 hj))

theorem granted_count {x : Sched} {c : ClassState} {j : Nat} (hj : j < 4) : (look {} (x.granted k n c) j).count
    = if j = k then c.count + n else (x.cl j).count := by
  rw [granted_look hj]
  split <;> rfl

theorem account_spec (x : Sched) (c : ClassState) :
    (x.account k n c).lastCls = some k ∧ ∀ j, j < 4 → (x.account k n c).cl j
      = { (if j = k then c else { x.cl j with inTurn := false }) with
          count := if 256 ≤ ((List.range 4).map fun j => if j = k then c.count + n else (x.cl j).count).sum then 0
            else if j = k then c.count + n else (x.cl j).count } := by
  have htotal : ((List.range 4).map fun j => (look {} (x.granted k n c) j).count)
      = (List.range 4).map fun j => if j = k then c.count + n else (x.cl j).count :=
    List.map_congr_left fun j hj => granted_count (List.mem_range.1 hj)
  refine ⟨rfl, fun j hj => ?_⟩
  show look {} (if 256 ≤ ((List.range 4).map fun j => (look {} (x.granted k n c) j).count).sum then
    (List.range 4).foldl (fun t j => put t j { look {} t j with count := 0 }) (x.granted k n c) else x.granted k n c) j = _
  rw [htotal]
  split
  · refine (look_foldl_put ({} : ClassState) (fun _ a => { a with count := 0 }) (fun _ _ => rfl) (List.range 4)
      (x.granted k n c) j).trans ?_
    rw [if_pos (List.mem_range.2 hj), granted_look hj]
    split <;> rfl
  · rw [granted_look hj]
    split <;> rfl

/-! ### The end of turns and rounds -/

/-- The eligible channels of a class at an edge. -/
def State.eligible (s : State) (b : Nat) (dir : Dir) (k : Nat) : List Nat :=
  (List.range 16).filter fun i => (s.bids (16 * b + i) dir).any fun q => q.cls == k

/-- A scheduler at an edge. -/
def State.schedEdge (s : State) (b : Nat) (dir : Dir) (x : Sched) : Sched :=
  { x with cls := x.cls.map fun e => (e.1, e.2.atEdge (s.eligible b dir e.1)) }

theorem schedEdge_cl (x : Sched) : (s.schedEdge b dir x).cl k = (x.cl k).atEdge (s.eligible b dir k) := by
  refine look_map ({} : ClassState) x.cls (fun k c => c.atEdge (s.eligible b dir k)) k ?_
  unfold ClassState.atEdge
  rw [ite_self]
  rfl

theorem endTurns_cl (s : State) (b k : Nat) (dir : Dir) : ((s.endTurns.bench b).sched dir).cl k
    = (((s.bench b).sched dir).cl k).atEdge (s.eligible b dir k) := by
  have hbench : s.endTurns.bench b
      = { s.bench b with rd := s.schedEdge b .read (s.bench b).rd, wr := s.schedEdge b .write (s.bench b).wr } := by
    unfold State.endTurns State.bench
    dsimp only
    exact look_map (Bench.reset s.member) s.benches
      (fun b e => { e with rd := s.schedEdge b .read e.rd, wr := s.schedEdge b .write e.wr }) b rfl
  rw [hbench]
  cases dir with
  | read => exact schedEdge_cl _
  | write => exact schedEdge_cl _

/-! ### The burst of a grant -/

theorem exec_schedulerGrant (hb : b < s.member.benches) (hup : cclkUp s = true) (hfill : s.rst.crucible = true)
    {cand : List Nat} {c : ClassState} {q : Bid} (hsel : s.selectClass b dir pick = some (k, cand))
    (hturn : s.turn b (((s.bench b).sched dir).cl k) cand = some (i, c)) (hbid : s.nextBid b dir pick k i = some q)
    (fault : Bool) (found : List CruFault) (ctx : List CtxFault) :
    exec (.schedulerGrant b dir pick fault ⟨found, ctx⟩) s = .next (s.settle (((s.modBench b fun z =>
      z.setSched dir (((s.bench b).sched dir).account k q.txn.beats c)).issueBid (16 * b + i) q fault found).ctxFaults
        ctx)) := by
  have hopen : (!(decide (b < s.member.benches) && cclkUp s && s.rst.crucible)) = false := by
    rw [decide_eq_true hb, hup, hfill]
    rfl
  have hexec : exec (.schedulerGrant b dir pick fault ⟨found, ctx⟩) s
      = execSchedulerGrant b dir pick fault ⟨found, ctx⟩ s := rfl
  rw [hexec]
  unfold execSchedulerGrant
  rw [hopen, if_neg Bool.false_ne_true, hsel]
  dsimp only
  rw [hturn]
  dsimp only
  rw [hbid]

theorem exec_schedulerGrant_none (h : ∀ k i, k < 4 → i < 16 → s.nextBid b dir pick k i = none) (fault : Bool)
    (faulty : Faulty) : exec (.schedulerGrant b dir pick fault faulty) s = .next s := by
  show execSchedulerGrant b dir pick fault faulty s = _
  unfold execSchedulerGrant
  split
  · rfl
  · rw [selectClass_none h]

theorem takeLane_txns (s : State) (b : Nat) (l : Landing) (n : Nat) : (s.takeLane b l n).txns = s.txns
    ∧ (s.takeLane b l n).nextId = s.nextId ∧ (s.takeLane b l n).chans = s.chans := by
  unfold State.takeLane
  split <;> exact ⟨rfl, rfl, rfl⟩

/-- The burst, with the cell that it lands in, in the request queue. -/
def State.queued (s : State) (p : Nat) (q : Bid) : State :=
  (s.takeLane (benchOf p) q.txn.landing q.txn.space).post { q.txn with cell := s.nextCell (benchOf p) q.txn.landing }

theorem queued_txns (s : State) (p : Nat) (q : Bid) : (s.queued p q).txns
    = s.txns ++ [{ q.txn with id := s.nextId, cell := s.nextCell (benchOf p) q.txn.landing }] := by
  obtain ⟨htxns, hid, _⟩ := takeLane_txns s (benchOf p) q.txn.landing q.txn.space
  unfold State.queued State.post
  dsimp only
  rw [htxns, hid]

theorem claimPort_parts (s : State) (p n : Nat) : (s.claimPort p n).txns = s.txns ∧ (s.claimPort p n).chans = s.chans := by
  unfold State.claimPort
  split
  · exact ⟨rfl, rfl⟩
  · split
    · exact ⟨rfl, rfl⟩
    · exact ⟨rfl, rfl⟩

/-- A piece of work without a table has no entry to decode. -/
theorem decodeEntry_tableless {w : Work} (hw : s.work? p n = some w) {o : Op} (hop : w.desc.op = some o)
    (ho : o.usesTable = false) : s.decodeEntry p n = s := by
  unfold State.decodeEntry
  rw [hw]
  dsimp only
  rw [hop]
  dsimp only
  rw [ho]
  rfl

theorem afterRead_desc (w : Work) (a n : Nat) : (w.afterRead a n).desc = w.desc ∧ (w.afterRead a n).serial = w.serial := by
  unfold Work.afterRead
  split
  · exact ⟨rfl, rfl⟩
  · split <;> exact ⟨rfl, rfl⟩

theorem afterWrite_desc (w : Work) (a n : Nat) : (w.afterWrite a n).desc = w.desc ∧ (w.afterWrite a n).serial = w.serial := by
  unfold Work.afterWrite
  split
  · exact ⟨rfl, rfl⟩
  · split <;> exact ⟨rfl, rfl⟩

theorem takeCrc_desc (w : Work) (hi : Nat) : (w.takeCrc hi).desc = w.desc ∧ (w.takeCrc hi).serial = w.serial := by
  obtain ⟨_, _, _, h⟩ := w.takeCrc_eq hi
  rw [h]
  exact ⟨rfl, rfl⟩

/-- Opcodes whose bursts only move a cursor: they read no table, and none of them is a taker or a commit. -/
def movesOnly (o : Op) : Prop := o ∈ [Op.copy, .copy2d, .copy3d, .streamOut, .remoteWrite]

theorem movesOnly_spec {o : Op} (h : movesOnly o) : o.usesTable = false ∧ o ≠ .streamIn ∧ o ≠ .streamInGob := by
  simp only [movesOnly, List.mem_cons, List.not_mem_nil, or_false] at h
  rcases h with rfl | rfl | rfl | rfl | rfl <;> exact ⟨rfl, nofun, nofun⟩

section
variable {q : Bid} {w : Work} {o : Op} (hw : s.work? p n = some w) (hop : w.desc.op = some o) (ho : movesOnly o)
include hw hop ho

theorem formBid_read_txns (hask : q.ask = .read n) : (s.formBid p q).txns = (s.queued p q).txns := by
  have hqueue : (s.queued p q).work? p n = some w := by
    rw [State.work?, State.chan, show (s.queued p q).chans = s.chans from (takeLane_txns _ _ _ _).2.2]
    exact hw
  have hread := modWork_work? (g := fun w => w.afterRead s.cul.poolBase q.txn.rlen) hqueue (afterRead_desc _ _ _).2
  obtain ⟨htxns, hchans⟩ := claimPort_parts ((s.queued p q).modWork p n fun w => w.afterRead s.cul.poolBase q.txn.rlen) p n
  have hclaim : (((s.queued p q).modWork p n fun w => w.afterRead s.cul.poolBase q.txn.rlen).claimPort p n).work? p n
      = some (w.afterRead s.cul.poolBase q.txn.rlen) := by
    rw [State.work?, State.chan, hchans]
    exact hread
  have hform : s.formBid p q = (((s.queued p q).modWork p n fun w =>
      w.afterRead s.cul.poolBase q.txn.rlen).claimPort p n).decodeEntry p n := by
    unfold State.formBid
    rw [hask]
    rfl
  rw [hform, decodeEntry_tableless hclaim (by rw [(afterRead_desc _ _ _).1]; exact hop) (movesOnly_spec ho).1, htxns]
  rfl

theorem formBid_write_txns (hask : q.ask = .write n) : (s.formBid p q).txns = (s.queued p q).txns := by
  obtain ⟨htable, htaker, hgob⟩ := (movesOnly_spec ho)
  have hqueue : (s.queued p q).work? p n = some w := by
    rw [State.work?, State.chan, show (s.queued p q).chans = s.chans from (takeLane_txns _ _ _ _).2.2]
    exact hw
  unfold State.formBid
  rw [hask]
  dsimp only
  rw [show State.post _ _ = s.queued p q from rfl]
  split
  · next a c lo hi hpurpose =>
    obtain ⟨hd, hn⟩ := takeCrc_desc w hi
    obtain ⟨hd2, hn2⟩ := afterWrite_desc (w.takeCrc hi) s.cul.poolBase q.txn.wdata.length
    have hwrite := modWork_work? (g := fun w => (w.takeCrc hi).afterWrite s.cul.poolBase q.txn.wdata.length) hqueue
      (hn2.trans hn)
    have hdesc : ((w.takeCrc hi).afterWrite s.cul.poolBase q.txn.wdata.length).desc.op = some o := by
      rw [hd2, hd]
      exact hop
    generalize (w.takeCrc hi).afterWrite s.cul.poolBase q.txn.wdata.length = x at hwrite hdesc
    have hkeep := modWork_work? (g := fun w => if w.desc.op = some .streamInGob ∧ w.gobs.length ≤ w.wrExt
      ∧ !w.writesDone then { w with chain := .requesting } else w) hwrite
        (by split <;> rfl)
    rw [if_neg (by rw [hdesc]; exact fun h => hgob (Option.some.inj h.1))] at hkeep
    rw [show State.work? _ p n = some x from hkeep]
    dsimp only
    rw [if_neg (by rw [hdesc]; exact fun h => htaker (Option.some.inj h.1)),
      if_neg (by rw [hdesc]; exact fun h => hgob (Option.some.inj h.1)), decodeEntry_tableless hkeep hdesc htable]
    rfl
  · rfl

end

/-- A grant without a fault in its addresses and its crucible words forms its burst. -/
theorem issueBid_formed (s : State) (p : Nat) (q : Bid) : s.issueBid p q false [] = s.formBid p q := by
  unfold State.issueBid
  cases q.ask <;> rfl

/-- The bursts whose forming enters the request queue and nothing else: all but those that read ahead in a table, take a
packet or commit a chain. -/
theorem formBid_txns {q : Bid} (h : (∃ n w, (q.ask = .read n ∨ q.ask = .write n) ∧ s.work? p n = some w
      ∧ ∃ o ∈ [Op.copy, .copy2d, .copy3d, .streamOut, .remoteWrite], w.desc.op = some o)
    ∨ q.ask = .fetch ∨ (∃ n, q.ask = .table n ∨ q.ask = .result n)) : (s.formBid p q).txns
      = s.txns ++ [{ q.txn with id := s.nextId, cell := s.nextCell (benchOf p) q.txn.landing }] := by
  rw [← queued_txns]
  rcases h with ⟨n, w, hask | hask, hw, o, ho, hop⟩ | hask | ⟨n, hask | hask⟩
  · exact formBid_read_txns hw hop ho hask
  · exact formBid_write_txns hw hop ho hask
  · unfold State.formBid
    rw [hask]
    rfl
  · unfold State.formBid
    rw [hask]
    rfl
  · unfold State.formBid
    rw [hask]
    rfl

theorem chanCause_addrBurst (s : State) (p b : Nat) : (s.chanCause p b).safety.addrBurst = s.safety.addrBurst := by
  unfold State.chanCause
  split
  · split
    · cases h : s.safety.asserted with
      | true => rw [setCause_of_asserted h]
      | false => rw [setCause_safety_of_released h]
    · rfl
  · rfl

theorem failPoint_safety (s : State) (p : Nat) (h : HaltPoint) : (s.failPoint p h).safety = s.safety := by
  unfold State.failPoint
  dsimp only
  split
  · rfl
  · exact ((Aside.refl _).raise _).safety

/-- A fetch whose two addresses differ is counted and does not enter the queue. -/
theorem issueBid_addrFault {q : Bid} (hfull : s.member.safetyFull = true) (hask : q.ask = .fetch) (p : Nat) :
    (s.issueBid p q true []).safety.addrBurst = satAdd 16 s.safety.addrBurst 1 := by
  have hissue : s.issueBid p q true [] = s.addrFault p .fetch := by
    unfold State.issueBid
    rw [hask, hfull]
    rfl
  rw [hissue]
  unfold State.addrFault
  dsimp only
  rw [((Aside.refl _).raise 1410).safety, chanCause_addrBurst, failPoint_safety]

/-! ### The address scan -/

/-- What a difference of a scanned channel fails: its oldest unfinished work, or the channel without one. -/
def State.scanFails (s : State) (p : Nat) : State :=
  match (s.chan p).started.find? Work.live with
  | some w => s.failWork p w.serial .crcMismatch
  | none =>
    if (s.chan p).owner.isSome && (s.chan p).started.isEmpty then
      s.failPoint p { cause := .addrState, status := .crcMismatch, idx := (s.chan p).ring.h, record := false }
    else s

theorem scanFails_work {w : Work} (h : (s.chan p).started.find? Work.live = some w) :
    s.scanFails p = s.failWork p w.serial .crcMismatch := by
  unfold State.scanFails
  rw [h]

theorem scanFails_idle (hown : (s.chan p).owner.isSome = true) (h : (s.chan p).started = []) : s.scanFails p
    = s.failPoint p { cause := .addrState, status := .crcMismatch, idx := (s.chan p).ring.h, record := false } := by
  unfold State.scanFails
  rw [h, List.find?_nil]
  exact if_pos (by rw [hown]; rfl)

section
variable (hb : b < s.member.benches) (hup : cclkUp s = true) (hfull : s.member.safetyFull = true)
include hb hup hfull

/-- A scan steps to the next channel of the bench. -/
theorem exec_scan_equal : exec (.addressStateScan b false) s
    = .next (s.modBench b fun q => { q with scan := ((s.bench b).scan + 1) % 16 }) := by
  have hopen : (!(decide (b < s.member.benches) && s.member.safetyFull && cclkUp s)) = false := by
    rw [decide_eq_true hb, hup, hfull]
    rfl
  show execAddressStateScan b false s = _
  unfold execAddressStateScan
  rw [hopen]
  rfl

/-- The counted difference of the scanned channel. -/
def State.scanned (s : State) (b : Nat) : State :=
  { s.modBench b (fun q => { q with scan := ((s.bench b).scan + 1) % 16 }) with
    safety := { s.safety with addrState := satAdd 16 s.safety.addrState 1 } }

theorem exec_scan_differs (hpresent : s.member.chanPresent (16 * b + (s.bench b).scan) = true) :
    exec (.addressStateScan b true) s = .next (s.settle ((((s.scanned b).scanFails (16 * b + (s.bench b).scan)).chanCause
      (16 * b + (s.bench b).scan) 2).raise 1410)) := by
  have hopen : (!(decide (b < s.member.benches) && s.member.safetyFull && cclkUp s)) = false := by
    rw [decide_eq_true hb, hup, hfull]
    rfl
  have hexec : exec (.addressStateScan b true) s = execAddressStateScan b true s := rfl
  rw [hexec]
  unfold execAddressStateScan
  rw [hopen, if_neg Bool.false_ne_true]
  dsimp only
  rw [hpresent, if_neg (by decide)]
  rfl

end

/-! ### The statement -/

/-- The grant's count is no part of the crucible's cells. -/
theorem nextCell_counted (s : State) (b k : Nat) (dir : Dir) (x : Sched) (l : Landing) :
    (s.modBench b fun z => z.setSched dir x).nextCell k l = s.nextCell k l := by
  have hlane : ((s.modBench b fun z => z.setSched dir x).bench k).taken = (s.bench k).taken := by
    rw [State.modBench_bench]
    split
    · next h =>
      rw [h]
      cases dir <;> rfl
    · rfl
  cases l with
  | lane => exact hlane
  | drain => exact hlane
  | port _ => rfl
  | none => rfl

/-- Settles O33. -/
theorem grantsFollowClassAndTurn : Obligations.GrantsFollowClassAndTurn := by
  intro s b pick dir
  refine ⟨fun k step1 i => mem_candidates_cls, fun k hk hsome hnone => selectClass_capped hk hsome hnone,
    fun k hk hfull hsome hnone => ?_, fun last l i hlast h16 hi hleast => nextAfter_of_least hlast h16 hi hleast,
    fun c cand => ⟨turn_goes_on, fun i hover hi => (turn_passes hover).1 i hi,
      fun i hover hnone hi => (turn_passes hover).2 hnone i hi, turnsLeft_new, turnsLeft_running,
      fun i => weights_look, atEdge_eq c⟩,
    fun k n c _ => account_spec _ c, fun k => endTurns_cl s b k dir, fun hb hup hfill => ⟨?_, ?_⟩, fun hb hup hfull => ?_⟩
  · rw [selectClass_uncapped hfull]
    exact find_first_class (cand := fun j => s.candidates b dir pick j false) hk hsome hnone
  · intro k cand i c q hsel hturn hbid
    refine ⟨exec_schedulerGrant hb hup hfill hsel hturn hbid, fun hask => ?_, fun hfull hask => ?_⟩
    · rw [issueBid_formed]
      refine (formBid_txns (s := s.modBench b fun z => z.setSched dir (((s.bench b).sched dir).account k q.txn.beats c))
        hask).trans ?_
      rw [nextCell_counted]
      rfl
    · exact issueBid_addrFault
        (s := s.modBench b fun z => z.setSched dir (((s.bench b).sched dir).account k q.txn.beats c)) hfull hask _
  · exact fun hnone fault faulty => exec_schedulerGrant_none hnone fault faulty
  · refine ⟨exec_scan_equal hb hup hfull, fun w hpresent hw => ?_, fun hpresent hown hnone => ?_⟩
    · rw [exec_scan_differs hb hup hfull hpresent, scanFails_work (s := s.scanned b) hw]
      rfl
    · rw [exec_scan_differs hb hup hfull hpresent, scanFails_idle (s := s.scanned b) hown hnone]
      rfl

end Sys2Proof.Machine
end

section
/-! The memory side of the block: handshakes (R41, R43, R146), responses and landings (R194, R195), table entries (R116 to
R120), delivery (R101, R134, R136) and reheats (R299, R301). -/

namespace Sys2Proof.Machine

variable {s t u : State} {p n : Nat} {w : Work} {x : Txn}

/-! ### Handshakes -/

/-- The state with a transaction that has taken its handshake. -/
def State.issued (s : State) (x : Txn) : State :=
  { s with txns := (s.txns.filter fun y => y.id != x.id) ++ [{ x with phase := .issued }] }

theorem exec_addressHandshake {port : Nat} {dir : Dir} (hup : s.portUp port = true) (hload : s.portLoad port < 512)
    (hnext : s.nextIssue port (dir == .write) = some x) (fault : Bool) :
    exec (.addressHandshake port ⟨dir, fault⟩) s = .next (s.settle
      (if (fault && s.member.safetyFull && x.purpose.ungranted) = true then s.addrFailed x else s.issued x)) := by
  show execAddressHandshake port ⟨dir, fault⟩ s = _
  unfold execAddressHandshake
  rw [hup, decide_eq_true hload, if_pos (by rfl)]
  dsimp only
  rw [hnext]
  dsimp only
  split
  · rfl
  · rfl

theorem exec_addressHandshake_full {port : Nat} (h : 512 ≤ s.portLoad port ∨ s.portUp port = false) (dir : Dir)
    (fault : Bool) : exec (.addressHandshake port ⟨dir, fault⟩) s = .next (s.settle s) := by
  show execAddressHandshake port ⟨dir, fault⟩ s = _
  unfold execAddressHandshake
  rw [if_neg (by
    rw [Bool.and_eq_true, decide_eq_true_iff]
    rintro ⟨hup, hload⟩
    rcases h with h | h
    · omega
    · rw [h] at hup
      cases hup)]
  rfl

/-! ### The owner of a failed burst -/

theorem setCause_addrBurst (s : State) (b : Nat) : (s.setCause b).safety.addrBurst = s.safety.addrBurst := by
  cases h : s.safety.asserted with
  | true => rw [setCause_of_asserted h]
  | false => rw [setCause_safety_of_released h]

theorem quarantine_control (s : State) (g : Nat) : (s.quarantine g).control = s.control :=
  (raise_control _ _).trans rfl

theorem failPoint_control (s : State) (p : Nat) (h : HaltPoint) : (s.failPoint p h).control = s.control := by
  unfold State.failPoint
  dsimp only
  split
  · rfl
  · exact (raise_control _ _).trans rfl

theorem memberRead_control (s : State) (p n g : Nat) (r : Option (BitVec 128)) :
    (s.memberRead p n g r).control = s.control := by
  unfold State.memberRead
  split
  · rfl
  · split
    · split <;> rfl
    · exact (show (State.modWork _ p n _).control = _ from quarantine_control s g)

theorem walkRead_control (s : State) (h : Nat) (r : Option (BitVec 128)) : (s.walkRead h r).control = s.control := by
  unfold State.walkRead
  split
  · rfl
  · split
    · rfl
    · next m _ =>
      split
      · split
        · rfl
        · refine (show (State.setFreeing _ h _).control = State.control (ite _ _ _) from rfl).trans ?_
          split
          · rfl
          · exact quarantine_control s m
      · exact quarantine_control s m

theorem maskVec_control (s : State) (v : Nat) (on : Bool) : (s.maskVec v on).control = s.control := by
  unfold State.maskVec
  split <;> rfl

theorem foldl_abandonWork_control (s : State) (p : Nat) (l : List Work) :
    (l.foldl (fun r w => r.abandonWork p true w) s).control = s.control :=
  foldl_control (fun u w => ((Cut.refl u).abandonWork p true w).control) l s

/-- What the owner of a burst makes of its failure touches the data path only. -/
theorem busFail_control (s : State) (x : Txn) : (s.busFail x).control = s.control := by
  unfold State.busFail
  split
  · exact failPoint_control _ _ _
  · exact failWork_control _ _ _ _
  · exact failWork_control _ _ _ _
  · exact failWork_control _ _ _ _
  · exact failWork_control _ _ _ _
  · exact (raise_control _ _).trans ((foldl_abandonWork_control _ _ _).trans rfl)
  · exact (raise_control _ _).trans ((maskVec_control _ _ _).trans rfl)
  · split
    · exact (quarantine_control _ _).trans (failWork_control _ _ _ _)
    · split
      · rfl
      · exact quarantine_control _ _
  · exact foldl_control quarantine_control _ _
  · exact foldl_control quarantine_control _ _
  · rfl
  · exact memberRead_control _ _ _ _ _
  · exact walkRead_control _ _ _
  · rfl
  · exact (quarantine_control _ _).trans rfl
  · rfl
  · rfl
  · rfl

theorem freeTxn_control (s : State) (x : Txn) : (s.freeTxn x).control = s.control := ((Cut.refl s).freeTxn x).control

theorem addrFailed_counts (s : State) (x : Txn) :
    (s.addrFailed x).safety.addrBurst = satAdd 16 s.safety.addrBurst 1 := by
  have hcause : ∀ t : State, (match x.purpose with
      | .completion p => t.chanCause p 2
      | _ => t.setCause 2).safety.addrBurst = t.safety.addrBurst := fun t => by
    split
    · exact chanCause_addrBurst t _ 2
    · exact setCause_addrBurst t 2
  unfold State.addrFailed
  dsimp only
  rw [((Aside.refl _).raise 1410).safety, control_safety (busFail_control _ x), control_safety (freeTxn_control _ x)]
  exact hcause _

/-! ### Responses -/

theorem exec_readResponse {port : Nat} {axid : BitVec 8} (ha : s.answered port axid false = some x)
    (hfetch : ∀ p, x.purpose ≠ .fetch p) (data : BitVec 1024) (resp : Resp) (found : List CruFault) (ctx : List CtxFault) :
    exec (.readResponse port axid ⟨data, ⟨found, ctx⟩⟩ resp) s = .next (s.settle
      (let y := { x with got := x.got ++ [data], failed := x.failed || resp.isError }
      if y.got.length < x.beats then (s.setTxn x.id fun _ => y).touchTxn x
      else if x.phase = .retiring then s.delTxn x.id
      else if y.failed then (s.burstFailed y).touchTxn x
      else if x.dropped || x.voided then ((s.delTxn x.id).freeTxn x).touchTxn x
      else ((((s.delTxn x.id).recovered x).readDone y found).touchTxn x).ctxFaults ctx)) := by
  show execReadResponse port axid ⟨data, ⟨found, ctx⟩⟩ resp s = _
  unfold execReadResponse
  rw [ha]
  dsimp only
  rw [if_neg (by
    split
    · next p h => exact absurd h (hfetch p)
    · exact Bool.false_ne_true)]
  simp only [apply_ite (settled s)]
  simp only [apply_ite (fun u => (Host.Outcome.next (s.settle u) : Host.Outcome State Fault Refusal))]
  rfl

theorem exec_writeResponse {port : Nat} {axid : BitVec 8} (ha : s.answered port axid true = some x)
    (hcpl : ∀ p, x.purpose ≠ .completion p) (hphase : x.phase = .issued) (hvoid : x.voided = false) (resp : Resp) :
    exec (.writeResponse port axid resp) s = .next (s.settle
      (if resp.isError = true then (s.burstFailed x).touchTxn x
      else ((((s.delTxn x.id).recovered x).writeDone x).touchTxn x))) := by
  show execWriteResponse port axid resp s = _
  unfold execWriteResponse
  rw [ha]
  dsimp only
  rw [if_neg (by
    split
    · next p h => exact absurd h (hcpl p)
    · exact Bool.false_ne_true), if_neg (by rw [hphase]; nofun), if_neg (by rw [hvoid]; decide)]
  split
  · rfl
  · rfl

/-! ### Landings -/

/-- A landing of a work's read in its bench. -/
theorem land_bench (hw : s.work? p n = some w) (l : Landing) (hl : l = .lane ∨ l = .drain) (space cell vlo : Nat)
    (bytes : List Byte) :
    let words := w.wordSpan vlo bytes.length
    let keep := min space ((words.2.2 - words.2.1 + 63) / 64)
    ((s.land p n l space cell vlo bytes).work? p n).map Work.landed = some (w.landed ++ [{
        off := vlo, bytes := bytes, space := keep, drain := l == .drain, touch := words.1, first := words.2.1
        last := words.2.2, cell := cell }])
    ∧ ∀ b, (s.land p n l space cell vlo bytes).bench b = (s.freeLane (benchOf p) l (space - keep)).bench b := by
  have hland : ∀ u : State, u.chans = s.chans → ∀ g : Work → Work, (∀ y, (g y).serial = y.serial) →
      ((u.modWork p n g).work? p n).map Work.landed = some (g w).landed := fun u hu g hg => by
    rw [modWork_work? (by rw [State.work?, State.chan, hu]; exact hw) (hg w)]
    rfl
  unfold State.land
  rw [hw]
  rcases hl with rfl | rfl
  · exact ⟨hland _ rfl _ fun _ => rfl, fun _ => rfl⟩
  · exact ⟨hland _ rfl _ fun _ => rfl, fun _ => rfl⟩

theorem readDone_dataRead {vlo len : Nat} (hp : x.purpose = .dataRead p n vlo len)
    (hl : x.landing = .lane ∨ x.landing = .drain) : s.readDone x []
      = s.land p n x.landing x.space x.cell vlo (beatsSlice x.addr x.got x.rlo x.rlen) := by
  unfold State.readDone
  rw [hp]
  dsimp only
  rcases hl with hl | hl <;> rw [hl]

/-- The landing of a work's read with its words. -/
theorem readDone_lands (hw : s.work? p n = some w) {vlo len : Nat} (hp : x.purpose = .dataRead p n vlo len)
    (hl : x.landing = .lane ∨ x.landing = .drain) :
    let bytes := beatsSlice x.addr x.got x.rlo x.rlen
    let words := w.wordSpan vlo bytes.length
    let keep := min x.space ((words.2.2 - words.2.1 + 63) / 64)
    ((s.readDone x []).work? p n).map Work.landed = some (w.landed ++ [{
        off := vlo, bytes := bytes, space := keep, drain := x.landing == .drain, touch := words.1, first := words.2.1
        last := words.2.2, cell := x.cell }])
    ∧ ∀ b, (s.readDone x []).bench b = (s.freeLane (benchOf p) x.landing (x.space - keep)).bench b := by
  rw [readDone_dataRead hp hl]
  exact land_bench hw x.landing hl x.space x.cell vlo _

theorem freeLane_lane (s : State) (b k : Nat) : ((s.freeLane b .lane k).bench b).laneCells = (s.bench b).laneCells - k
    ∧ ((s.freeLane b .lane k).bench b).drainCells = (s.bench b).drainCells := by
  rw [show s.freeLane b .lane k = s.modBench b fun x => { x with laneCells := x.laneCells - k } from rfl,
    State.modBench_bench, if_pos rfl]
  exact ⟨rfl, rfl⟩

theorem freeLane_drain (s : State) (b k : Nat) : ((s.freeLane b .drain k).bench b).drainCells = (s.bench b).drainCells - k
    ∧ ((s.freeLane b .drain k).bench b).laneCells = (s.bench b).laneCells := by
  rw [show s.freeLane b .drain k = s.modBench b fun x => { x with drainCells := x.drainCells - k } from rfl,
    State.modBench_bench, if_pos rfl]
  exact ⟨rfl, rfl⟩

/-! ### Table entries -/

theorem readDone_table {off : Nat} (hp : x.purpose = .table p n off) (hw : s.work? p n = some w) : ∃ u : State,
    s.readDone x [] = u.decodeEntry p n
    ∧ (u.work? p n).map Work.tableRaw = some (w.tableRaw ++ [(off, beatsSlice x.addr x.got x.rlo x.rlen)]) := by
  have hfree : ∀ t : State, (t.freeTxn x).chans = t.chans := fun t => by
    unfold State.freeTxn State.freeLane
    rw [hp]
    dsimp only
    split <;> rfl
  refine ⟨((s.wrote (x.landing.holder (benchOf p)) x.cell 0
    ((8 * (beatsSlice x.addr x.got x.rlo x.rlen).length + 35) / 36)).freeTxn x).modWork p n fun w =>
      { w with tableRaw := w.tableRaw ++ [(off, beatsSlice x.addr x.got x.rlo x.rlen)] }, ?_, ?_⟩
  · unfold State.readDone
    rw [hp]
    rfl
  · rw [modWork_work? (w := w) (by rw [State.work?, State.chan, hfree]; exact hw) rfl]
    rfl

theorem decodeEntry_eq (hw : s.work? p n = some w) {o : Op} {bytes : List Byte} (hop : w.desc.op = some o)
    (huses : o.usesTable = true) (hlive : w.live = true) (hend : w.tableEnd = false) (hgranted : w.entriesGranted = true)
    (hmore : w.entries.length < w.desc.entryCount)
    (hbytes : tableSlice w.tableRaw (w.entries.length * w.desc.entrySize) w.desc.entrySize = some bytes) :
    s.decodeEntry p n = if w.entryOk (BitVec.ofNat 128 (ofLeBytes bytes)) = true then
      s.modWork p n fun y => y.addEntry (BitVec.ofNat 128 (ofLeBytes bytes)) else s.failWork p n .indexRange := by
  unfold State.decodeEntry
  rw [hw]
  dsimp only
  rw [hop]
  dsimp only
  rw [huses, hlive, hend, hgranted, decide_eq_false (Nat.not_le.2 hmore), if_neg (by decide), hbytes]

/-! ### Deliveries -/

/-- A piece of work but for its own act. -/
def Work.still (w : Work) : Work := { w with acted := false }

theorem giveSignal_still (o : Nat) (c : Chan) :
    (c.giveSignal o).started.map Work.still = c.started.map Work.still := by
  unfold Chan.giveSignal
  split
  · rfl
  · unfold mapIf
    rw [List.map_map]
    refine List.map_congr_left fun w _ => ?_
    rw [Function.comp_apply]
    split <;> rfl

theorem find?_still (n : Nat) (l : List Work) : (l.find? fun y => y.serial == n).map Work.still
    = (l.map Work.still).find? fun y => y.serial == n := by
  rw [List.find?_map]
  rfl

/-- The works of every channel, but for their own acts. -/
theorem raise_stills (s : State) (k p : Nat) : ((s.raise k).chan p).started.map Work.still
    = (s.chan p).started.map Work.still := by
  have hpending : ((s.setPending k).chan p).started = (s.chan p).started := by
    unfold State.setPending
    split
    · rw [State.modChan_chan]
      split
      · next h => rw [h]
      · rfl
    · split
      · rfl
      · split <;> rfl
  have hdeliver : ∀ r, (((s.setPending k).deliver r).chan p).started.map Work.still
      = ((s.setPending k).chan p).started.map Work.still := by
    intro r
    cases r with
    | none => rfl
    | int _ => rfl
    | vector v => exact congrArg (fun l => (look ({} : Chan) l p).started.map Work.still) (decideVec_chans _ v _)
    | trigOut _ => rfl
    | signal f j =>
      show ((State.raiseSignal _ f j).chan p).started.map Work.still = _
      unfold State.raiseSignal
      split
      · exact look_map_proj ({} : Chan) _ (fun _ c => c.giveSignal _) (fun c => c.started.map Work.still)
          (fun _ c => giveSignal_still _ c) p
      · split <;> rfl
  exact (hdeliver _).trans (congrArg (List.map Work.still) hpending)

theorem raise_still {k : Nat} (hw : s.work? p n = some w) : ∃ y, (s.raise k).work? p n = some y ∧ y.still = w.still := by
  have h : ((s.raise k).work? p n).map Work.still = (s.work? p n).map Work.still := by
    rw [State.work?, State.work?, find?_still, find?_still, raise_stills]
  rw [hw] at h
  exact Option.map_eq_some_iff.1 h

/-- The half mark is reached and not raised yet (R101). -/
def Work.halfDue (w : Work) : Bool :=
  !w.halfRaised && !w.abandoned && (w.pass || w.desc.intHalf) && decide (w.desc.halfMark ≤ w.usedBits / 8)

/-- Every data bit is delivered and the CRC is not the expected one (R134). -/
def Work.miscompares (w : Work) : Bool :=
  w.live && w.clip.isNone && w.desc.crcCheck && w.desc.op.any Op.comparesCrc && w.prefixBits == w.dataBits
    && w.crcBits == w.dataBits && ~~~ w.crcReg != w.desc.expectCrc

theorem miscompares_still {y : Work} (h : y.still = w.still) : y.miscompares = w.miscompares :=
  (congrArg Work.miscompares h : y.still.miscompares = w.still.miscompares)

theorem halfCheck_eq (hw : s.work? p n = some w) : s.halfCheck p n = if w.halfDue = true then
    (s.modWork p n fun y => { y with halfRaised := true }).raise (chanEvent p 0) else s := by
  unfold State.halfCheck
  rw [hw]
  rfl

theorem expectCheck_eq (hw : s.work? p n = some w) : s.expectCheck p n = if w.miscompares = true then
    (s.modWork p n fun y => { y with expectFailed := true }).failWork p n .crcMismatch else s := by
  unfold State.expectCheck Work.miscompares
  rw [hw]
  dsimp only
  cases w.desc.op <;> rfl

/-- A change of a found piece of work is a replacement of it. -/
theorem updWork_found {l : List Work} (h : l.find? (fun y => y.serial == n) = some w) (g : Work → Work) :
    updWork n g l = updWork n (fun _ => g w) l := by
  induction l with
  | nil => rfl
  | cons a l ih =>
    rw [List.find?_cons] at h
    rw [updWork, updWork]
    split at h
    · next ha =>
      cases h
      rw [if_pos (beq_iff_eq.1 ha), if_pos (beq_iff_eq.1 ha)]
    · next ha =>
      rw [if_neg (beq_eq_false_iff_ne.1 ha), if_neg (beq_eq_false_iff_ne.1 ha), ih h]

theorem modWork_found (hw : s.work? p n = some w) (g : Work → Work) : s.modWork p n g = s.modWork p n fun _ => g w := by
  unfold State.modWork State.modChan
  dsimp only
  rw [updWork_found hw]

theorem updWork_updWork (l : List Work) {g : Work → Work} (hg : ∀ y, (g y).serial = y.serial) (h : Work → Work) :
    updWork n h (updWork n g l) = updWork n (fun y => h (g y)) l := by
  induction l with
  | nil => rfl
  | cons a l ih =>
    rw [updWork, updWork]
    split
    · next ha => rw [updWork, if_pos ((hg a).trans ha)]
    · next ha => rw [updWork, if_neg ha, ih]

theorem modWork_modWork (s : State) (p n : Nat) {g : Work → Work} (hg : ∀ y, (g y).serial = y.serial) (h : Work → Work) :
    (s.modWork p n g).modWork p n h = s.modWork p n fun y => h (g y) := by
  unfold State.modWork
  rw [modChan_modChan]
  dsimp only
  rw [updWork_updWork _ hg]
  rfl

/-- The piece of work with the bits that a write delivers. -/
def Work.withBits (w : Work) (lo hi : Nat) : Work := { w with delivered := addRange lo hi w.delivered }

section
variable {lo hi : Nat} (hw : s.work? p n = some w) (hp : x.purpose = .dataWrite p n lo hi)
include hw hp

theorem writeDone_abandoned (h : w.abandoned = true) : s.writeDone x = s := by
  unfold State.writeDone State.deliverBits
  rw [hp]
  dsimp only
  rw [hw]
  exact if_pos h

theorem writeDone_delivers (h : w.abandoned = false) : s.writeDone x
    = ((s.modWork p n fun y => y.withBits lo hi).halfCheck p n).expectCheck p n := by
  unfold State.writeDone State.deliverBits
  rw [hp]
  dsimp only
  rw [hw]
  exact if_neg (by rw [h]; decide)

theorem writeDone_spec (h : w.abandoned = false) :
    ((w.withBits lo hi).halfDue = false → (w.withBits lo hi).miscompares = false →
      s.writeDone x = s.modWork p n fun _ => w.withBits lo hi)
    ∧ ((w.withBits lo hi).halfDue = true → (w.withBits lo hi).miscompares = false → s.writeDone x
      = (s.modWork p n fun _ => { w.withBits lo hi with halfRaised := true }).raise (chanEvent p 0))
    ∧ ((w.withBits lo hi).halfDue = false → (w.withBits lo hi).miscompares = true → s.writeDone x
      = (s.modWork p n fun _ => { w.withBits lo hi with expectFailed := true }).failWork p n .crcMismatch) := by
  have hbits := modWork_work? (g := fun y => y.withBits lo hi) hw rfl
  refine ⟨fun hhalf hcrc => ?_, fun hhalf hcrc => ?_, fun hhalf hcrc => ?_⟩
  · rw [writeDone_delivers hw hp h, halfCheck_eq hbits, if_neg (by rw [hhalf]; decide), expectCheck_eq hbits,
      if_neg (by rw [hcrc]; decide), modWork_found hw]
  · rw [writeDone_delivers hw hp h, halfCheck_eq hbits, if_pos hhalf, modWork_modWork s p n (g := fun y => y.withBits lo hi) (fun _ => rfl),
      modWork_found hw]
    have hraised := modWork_work? (g := fun _ => { w.withBits lo hi with halfRaised := true }) hw rfl
    obtain ⟨y, hy, hstill⟩ := raise_still (k := chanEvent p 0) hraised
    have hno : ({ w.withBits lo hi with halfRaised := true } : Work).miscompares = false := hcrc
    rw [expectCheck_eq hy, miscompares_still hstill]
    exact if_neg (by rw [hno]; decide)
  · rw [writeDone_delivers hw hp h, halfCheck_eq hbits, if_neg (by rw [hhalf]; decide), expectCheck_eq hbits,
      if_pos hcrc, modWork_modWork s p n (g := fun y => y.withBits lo hi) (fun _ => rfl), modWork_found hw]

end

/-! ### Releases -/

theorem keepsWord_live (hlive : w.live = true) (hport : w.desc.toPort = false) (i : Nat) : s.keepsWord p w i = true
    ↔ ¬ ∃ r ∈ w.delivered, r.1 ≤ w.wordBitsBefore i ∧ w.wordBitsAfter i ≤ r.2 := by
  unfold State.keepsWord Work.wordDelivered
  rw [hport, hlive, if_neg Bool.false_ne_true, if_pos rfl]
  simp only [Bool.not_eq_true', ← Bool.not_eq_true, List.any_eq_true, Bool.and_eq_true, decide_eq_true_iff]

/-- Segments of the lane pool give back their cells. -/
theorem foldl_freeLane (b : Nat) (f : Seg → Nat) (ld : Seg → Landing) (l : List Seg) : ∀ t : State,
    (l.foldl (fun t g => t.freeLane b (ld g) (f g)) t).chans = t.chans
    ∧ ((∀ g ∈ l, ld g = .lane) → ((l.foldl (fun t g => t.freeLane b (ld g) (f g)) t).bench b).laneCells
      = (t.bench b).laneCells - (l.map f).sum) := by
  induction l with
  | nil => exact fun _ => ⟨rfl, fun _ => rfl⟩
  | cons g l ih =>
    intro t
    have hchans : (t.freeLane b (ld g) (f g)).chans = t.chans := by
      cases ld g <;> rfl
    obtain ⟨hrest, hcells⟩ := ih (t.freeLane b (ld g) (f g))
    rw [List.foldl_cons]
    refine ⟨hrest.trans hchans, fun hlane => ?_⟩
    obtain ⟨hg, hl⟩ := List.forall_mem_cons.1 hlane
    rw [hcells hl, hg, (freeLane_lane _ _ _).1, List.map_cons, List.sum_cons, Nat.sub_sub]

section
variable (hw : s.work? p w.serial = some w) (hpkt : w.pkt = none) (hvia : w.desc.viaFifo = false)
include hpkt hvia

/-- The state with the landing space that a release of `w` gives back. -/
def State.released (s : State) (p : Nat) (w : Work) : State :=
  w.landed.foldl (fun t g => t.freeLane (benchOf p) (segLanding w g) (g.space - g.holds false (s.keepsWord p w))) s

theorem trimWork_eq : s.trimWork p w = (s.released p w).modWork p w.serial fun y =>
    { y with landed := trimSegs false (s.keepsWord p w) w.landed } := by
  unfold State.trimWork State.released
  rw [hpkt, hvia]

include hw in
theorem trimWork_landed : ((s.trimWork p w).work? p w.serial).map Work.landed
    = some (trimSegs false (s.keepsWord p w) w.landed) := by
  have hchans := (foldl_freeLane (benchOf p) (fun g => g.space - g.holds false (s.keepsWord p w)) (segLanding w) w.landed
    s).1
  rw [trimWork_eq hpkt hvia, modWork_work? (w := w) ?_ rfl]
  · rfl
  · rw [State.work?, State.chan, State.released, hchans]
    exact hw

theorem trimWork_laneCells (hlane : ∀ g ∈ w.landed, g.drain = false) : ((s.trimWork p w).bench (benchOf p)).laneCells
    = (s.bench (benchOf p)).laneCells - (w.landed.map fun g => g.space - g.holds false (s.keepsWord p w)).sum := by
  have hcells := (foldl_freeLane (benchOf p) (fun g => g.space - g.holds false (s.keepsWord p w)) (segLanding w) w.landed
    s).2 fun g hg => by
      unfold segLanding
      rw [hvia, hlane g hg]
      rfl
  rw [trimWork_eq hpkt hvia]
  exact hcells

end

/-! ### Reheats -/

theorem noReheat_iff (s : State) (x : Txn) : s.noReheat x = true ↔ x.dropped = true ∨ x.voided = true
    ∨ ∃ p, x.purpose.pch? = some p ∧ (s.chan p).state = .aborting := by
  unfold State.noReheat
  rw [Bool.or_eq_true, Bool.or_eq_true, or_assoc]
  refine or_congr_right (or_congr_right ?_)
  cases h : x.purpose.pch? with
  | none => exact ⟨nofun, fun ⟨_, hp, _⟩ => nomatch hp⟩
  | some p =>
    refine beq_iff_eq.trans ⟨fun hs => ⟨p, rfl, hs⟩, fun ⟨q, hq, hs⟩ => ?_⟩
    cases hq
    exact hs

theorem burstFailed_final (h : s.noReheat x = true) : s.burstFailed x = (s.delTxn x.id).freeTxn x := if_pos h

theorem burstFailed_cases (h : s.noReheat x = false) :
    (x.attempt < s.glob.retryLimit → s.burstFailed x = s.setTxn x.id fun y =>
      { y with phase := .reheat (s.now.cclk + 64), got := [], failed := false })
    ∧ (s.glob.retryLimit ≤ x.attempt →
      s.burstFailed x = (((s.delTxn x.id).freeTxn x).countExhausted x).busFail x) := by
  unfold State.burstFailed
  rw [h, if_neg Bool.false_ne_true]
  exact ⟨fun hlt => if_pos hlt, fun hle => if_neg (Nat.not_lt.2 hle)⟩

theorem counts_of_pch {q : Nat} (h : x.purpose.pch? = some q) :
    s.countReheat x = s.modChan q (fun c => { c with halt := { c.halt with reheats := satAdd 16 c.halt.reheats 1 } })
    ∧ s.countExhausted x
      = s.modChan q (fun c => { c with halt := { c.halt with exhausted := satAdd 16 c.halt.exhausted 1 } }) := by
  unfold State.countReheat State.countExhausted
  cases hp : x.purpose <;> rw [hp] at h <;> cases h <;> exact ⟨rfl, rfl⟩

theorem busFail_of_serial {q k : Nat} (h : x.purpose.serial? = some (q, k)) : s.busFail x = s.failWork q k .busError := by
  unfold State.busFail
  cases hp : x.purpose <;> rw [hp] at h <;> cases h <;> rfl

theorem countReheat_parts (s : State) (x : Txn) : (s.countReheat x).txns = s.txns := by
  unfold State.countReheat
  split <;> rfl

theorem exec_reheat {due : Nat} (hfind : s.txns.find? (fun y => y.id == x.id) = some x) (hphase : x.phase = .reheat due)
    (hcpl : ∀ p, x.purpose ≠ .completion p) (hroom : s.queueLen x.port x.write < 64) :
    exec (.reheat x.id) s = .next (s.settle { (s.reachCclk due).countReheat x with
      txns := (s.txns.filter fun y => y.id != x.id) ++ [{ x with phase := .queued, attempt := x.attempt + 1 }] }) := by
  show execReheat x.id s = _
  unfold execReheat
  rw [hfind]
  dsimp only
  rw [hphase]
  dsimp only
  rw [if_pos (by
    split
    · next p h => exact absurd h (hcpl p)
    · exact decide_eq_true hroom)]
  unfold State.delTxn settled
  dsimp only
  rw [countReheat_parts]
  rfl

/-! ### The statement -/

/-- The condition of R101 and R160 on the work with its delivered bits. -/
theorem halfDue_iff {lo hi : Nat} (h : w.abandoned = false) : (w.withBits lo hi).halfDue = true ↔ w.halfRaised = false
    ∧ (w.pass = true ∨ w.desc.intHalf = true) ∧ w.desc.halfMark ≤ (w.withBits lo hi).usedBits / 8 := by
  show (!w.halfRaised && !w.abandoned && (w.pass || w.desc.intHalf)
    && decide (w.desc.halfMark ≤ (w.withBits lo hi).usedBits / 8)) = true ↔ _
  simp only [h, Bool.and_eq_true, Bool.or_eq_true, Bool.not_eq_true', decide_eq_true_iff, Bool.not_false, and_true,
    and_assoc]

/-- The condition of R134 on the work with its delivered bits. -/
theorem miscompares_iff {lo hi : Nat} : (w.withBits lo hi).miscompares = true ↔ w.live = true ∧ w.clip = none
    ∧ w.desc.crcCheck = true ∧ w.desc.op.any Op.comparesCrc = true ∧ (w.withBits lo hi).prefixBits = w.dataBits
    ∧ w.crcBits = w.dataBits ∧ ~~~ w.crcReg ≠ w.desc.expectCrc := by
  show (w.live && w.clip.isNone && w.desc.crcCheck && w.desc.op.any Op.comparesCrc
    && (w.withBits lo hi).prefixBits == w.dataBits && w.crcBits == w.dataBits && ~~~ w.crcReg != w.desc.expectCrc) = true ↔ _
  simp only [Bool.and_eq_true, beq_iff_eq, bne_iff_ne, Option.isNone_iff_eq_none, and_assoc]

/-- Settles O34. -/
theorem burstsIssueAndReheat : Obligations.BurstsIssueAndReheat := by
  intro s
  refine ⟨fun port dir t hup hload hnext => ⟨fun hno fault => ?_, ?_, fun hfull hun => ⟨?_, addrFailed_counts s t⟩⟩,
    fun port dir fault h => exec_addressHandshake_full h dir fault,
    fun port axid t data resp found ctx ha hfetch => ⟨fun hmore => ?_, fun hlast hphase hbad => ?_,
      fun hlast hphase hok hdrop hvoid => ?_⟩,
    fun t p n vlo len w hp hw => ⟨fun hl => (readDone_lands hw hp hl).1, fun hl => ?_, fun hl => ?_⟩,
    fun t p n off hp hw => ?_, fun p n w o bytes hw hop huses hlive hend hgranted hmore hbytes => ⟨fun hok => ?_, fun hbad => ?_⟩,
    fun port axid t ha hcpl hphase hvoid => ⟨fun resp hbad => ?_, ?_⟩,
    fun t p n lo hi w hp hw => ⟨writeDone_abandoned hw hp, fun h hhalf hcrc => ?_, fun h hhalf hcrc => ?_,
      fun h hhalf hcrc => ?_⟩,
    fun t p n w hp hw => ?_, fun t v hp => ?_, fun p w hw hpkt hvia => ⟨fun hlive hport => keepsWord_live hlive hport,
      trimWork_landed hw hpkt hvia, trimWork_laneCells hpkt hvia⟩,
    fun t => ⟨fun h => (burstFailed_cases h).1, fun h => (burstFailed_cases h).2, burstFailed_final, noReheat_iff s t,
      fun p => counts_of_pch, fun p n => busFail_of_serial, fun p hp => ?_, fun v hp => ⟨?_, ?_⟩⟩,
    fun t due hfind hphase hcpl hroom => exec_reheat hfind hphase hcpl hroom⟩
  · rw [exec_addressHandshake hup hload hnext, if_neg (by rcases hno with h | h <;> simp [h])]
    rfl
  · rw [exec_addressHandshake hup hload hnext, if_neg (by simp)]
    rfl
  · rw [exec_addressHandshake hup hload hnext, if_pos (by rw [hfull, hun]; rfl)]
  · rw [exec_readResponse ha hfetch]
    dsimp only
    rw [if_pos (by rw [List.length_append]; exact hmore)]
  · have hfail : (t.failed || resp.isError) = true := by
      rcases hbad with h | h
      · rw [h, Bool.true_or]
      · rw [Resp.isError_of_ne h, Bool.or_true]
    rw [exec_readResponse ha hfetch]
    dsimp only
    rw [if_neg (by rw [List.length_append]; exact Nat.not_lt.2 hlast), if_neg (by rw [hphase]; nofun), hfail, if_pos rfl]
  · rw [exec_readResponse ha hfetch]
    dsimp only
    rw [if_neg (by rw [List.length_append]; exact Nat.not_lt.2 hlast), if_neg (by rw [hphase]; nofun), hok, hdrop, hvoid,
      if_neg (by decide), if_neg (by decide)]
    rfl
  · obtain ⟨_, hbench⟩ := readDone_lands hw hp (.inl hl)
    rw [hbench, hl]
    exact freeLane_lane _ _ _
  · obtain ⟨_, hbench⟩ := readDone_lands hw hp (.inr hl)
    rw [hbench, hl]
    exact freeLane_drain _ _ _
  · obtain ⟨w, hw⟩ := Option.isSome_iff_exists.1 hw
    rw [hw]
    exact readDone_table hp hw
  · rw [decodeEntry_eq hw hop huses hlive hend hgranted hmore hbytes, if_pos hok]
    exact ⟨modWork_work? hw rfl, rfl⟩
  · rw [decodeEntry_eq hw hop huses hlive hend hgranted hmore hbytes, if_neg (by rw [hbad]; decide)]
  · rw [exec_writeResponse ha hcpl hphase hvoid, if_pos (Resp.isError_of_ne hbad)]
  · rw [exec_writeResponse ha hcpl hphase hvoid]
    rfl
  · exact (writeDone_spec hw hp h).1 (Bool.eq_false_iff.2 fun hd => hhalf ((halfDue_iff h).1 hd))
      (Bool.eq_false_iff.2 fun hm => hcrc (miscompares_iff.1 hm))
  · exact (writeDone_spec hw hp h).2.1 ((halfDue_iff h).2 hhalf)
      (Bool.eq_false_iff.2 fun hm => hcrc (miscompares_iff.1 hm))
  · exact (writeDone_spec hw hp h).2.2 (Bool.eq_false_iff.2 fun hd => hhalf ((halfDue_iff h).1 hd))
      (miscompares_iff.2 hcrc)
  · unfold State.writeDone
    rw [hp]
    exact modWork_work? hw rfl
  · unfold State.writeDone
    rw [hp]
  · unfold State.busFail
    rw [hp]
  · unfold State.busFail
    rw [hp]
  · unfold State.countReheat
    rw [hp]

end Sys2Proof.Machine
end

section
/-! What ending work and raising events leave: the numbers and marks of the works, the pending bits that are set, and the
transactions that are dropped or voided (R164, R195, R283, R301 to R303). -/

namespace Sys2Proof.Machine

variable {s t u : State} {p q n m : Nat} {w : Work} {x : Txn}

/-! ### The relation -/

/-- A piece of work by its number, and whether it is abandoned or has had its stale edge. -/
def Work.marks (w : Work) : Nat × Bool × Bool := (w.serial, w.abandoned, w.staleDone)

def State.marks (s : State) (p : Nat) : List (Nat × Bool × Bool) := (s.chan p).started.map Work.marks

/-- Transaction `x` is of no channel, or is one of `s` that has not come back to life. -/
def State.knows (s : State) (x : Txn) : Prop :=
  x.purpose.pch? = none ∨ ∃ y ∈ s.txns, y.purpose = x.purpose ∧ (y.dropped = true → x.dropped = true)
    ∧ (y.voided = true → x.voided = true)

/-- Every pending bit of `s` is pending in `t`. -/
def State.bitsIn (s t : State) : Prop := ∀ n, n < 1476 → s.isPending n = true → t.isPending n = true

/-- `t` has the works of `s` with their marks, the pending bits of `s`, and no transaction of a channel that `s` lacks. -/
structure Waning (s t : State) : Prop where
  marks : ∀ p, t.marks p = s.marks p
  txns : ∀ x ∈ t.txns, s.knows x
  bits : s.bitsIn t

theorem knows_of_mem (h : x ∈ s.txns) : s.knows x := .inr ⟨x, h, rfl, id, id⟩

theorem Waning.refl (s : State) : Waning s s := ⟨fun _ => rfl, fun _ => knows_of_mem, fun _ _ => id⟩

theorem Waning.knows (h : Waning s t) (hx : t.knows x) : s.knows x := by
  obtain hnone | ⟨y, hy, hpurpose, hdrop, hvoid⟩ := hx
  · exact .inl hnone
  · obtain hnone | ⟨z, hz, hzy, hdropz, hvoidz⟩ := h.txns y hy
    · exact .inl (hpurpose ▸ hnone)
    · exact .inr ⟨z, hz, hzy.trans hpurpose, hdrop ∘ hdropz, hvoid ∘ hvoidz⟩

theorem Waning.trans (a : Waning s t) (b : Waning t u) : Waning s u :=
  ⟨fun p => (b.marks p).trans (a.marks p), fun x hx => a.knows (b.txns x hx), fun n hn h => b.bits n hn (a.bits n hn h)⟩

theorem Waning.ite {c : Prop} [Decidable c] {a b : State} (ha : Waning s a) (hb : Waning s b) :
    Waning s (if c then a else b) := by split <;> assumption

theorem Waning.foldl {α : Type} {f : State → α → State} (l : List α) (h : Waning s t)
    (hf : ∀ u x, Waning s u → Waning s (f u x)) : Waning s (l.foldl f t) := by
  induction l generalizing t with
  | nil => exact h
  | cons a r ih => exact ih (hf t a h)

/-! ### Operations -/

theorem bitsIn_of (hc : ∀ p, (t.chan p).evt = (s.chan p).evt := by exact fun _ => rfl)
    (hp : ∀ q, (t.port q).evt = (s.port q).evt := by exact fun _ => rfl)
    (hf : ∀ f, (t.fn f).evt = (s.fn f).evt := by exact fun _ => rfl)
    (hg : t.ev.glob = s.ev.glob := by rfl) : s.bitsIn t := fun _ _ hs =>
  (isPending_congr (fun _ => by rw [hc]) (fun _ _ => by rw [hp]) (fun _ _ => by rw [hf]) fun _ => by rw [hg]).trans hs

/-- An update that touches no channel, no event and no transaction. -/
theorem Waning.upd (h : Waning s t) (hc : u.chans = t.chans := by rfl) (hp : u.ports = t.ports := by rfl)
    (hf : u.fns = t.fns := by rfl) (he : u.ev.glob = t.ev.glob := by rfl) (hx : u.txns = t.txns := by rfl) :
    Waning s u := by
  refine h.trans ⟨fun p => ?_, fun x hm => knows_of_mem (hx ▸ hm), bitsIn_of (fun p => ?_) (fun q => ?_) (fun f => ?_) he⟩
  · rw [State.marks, State.chan, hc]
    rfl
  · rw [State.chan, hc]
    rfl
  · rw [State.port, hp]
    rfl
  · rw [State.fn, hf]
    rfl

theorem Waning.modChan (h : Waning s t) {g : Chan → Chan} (hm : (g (t.chan p)).started.map Work.marks = t.marks p := by rfl)
    (he : (g (t.chan p)).evt = (t.chan p).evt := by rfl) : Waning s (t.modChan p g) := by
  refine h.trans ⟨fun q => ?_, fun _ => knows_of_mem, bitsIn_of fun q => ?_⟩
  · rw [State.marks, State.modChan_chan]
    split
    · next hq =>
      subst hq
      exact hm
    · rfl
  · rw [State.modChan_chan]
    split
    · next hq =>
      subst hq
      exact he
    · rfl

theorem updWork_proj {β : Type} (proj : Work → β) {g : Work → Work} (hg : ∀ w, proj (g w) = proj w) (l : List Work) :
    (updWork n g l).map proj = l.map proj := by
  induction l with
  | nil => rfl
  | cons w l ih =>
    rw [updWork]
    split
    · rw [List.map_cons, List.map_cons, hg]
    · rw [List.map_cons, List.map_cons, ih]

theorem updWork_marks_found {l : List Work} {g : Work → Work} (hw : l.find? (fun x => x.serial == n) = some w)
    (hg : (g w).marks = w.marks) : (updWork n g l).map Work.marks = l.map Work.marks := by
  induction l with
  | nil => rfl
  | cons x l ih =>
    rw [List.find?_cons] at hw
    rw [updWork]
    by_cases hx : x.serial = n
    · rw [beq_iff_eq.2 hx] at hw
      cases hw
      rw [if_pos hx, List.map_cons, List.map_cons, hg]
    · rw [beq_eq_false_iff_ne.2 hx] at hw
      rw [if_neg hx, List.map_cons, List.map_cons, ih hw]

theorem Waning.modWork (h : Waning s t) {g : Work → Work} (hg : ∀ w, (g w).marks = w.marks := by exact fun _ => rfl) :
    Waning s (t.modWork p n g) := h.modChan (updWork_proj Work.marks hg _)

theorem Waning.modFound (h : Waning s t) {g : Work → Work} (hw : t.work? p n = some w) (hg : (g w).marks = w.marks) :
    Waning s (t.modWork p n g) := h.modChan (updWork_marks_found hw hg)

theorem Waning.setPort (h : Waning s t) {y : Port} (hy : y.evt = (t.port q).evt := by rfl) : Waning s (t.setPort q y) := by
  refine h.trans ⟨fun _ => rfl, fun _ => knows_of_mem, bitsIn_of (hp := fun r => ?_)⟩
  rw [State.setPort_port]
  split
  · next hq =>
    subst hq
    exact hy
  · rfl

theorem Waning.modFn (h : Waning s t) {g : Fn → Fn} (hg : ∀ y, (g y).evt = y.evt := by exact fun _ => rfl) :
    Waning s (t.modFn q g) := by
  refine h.trans ⟨fun _ => rfl, fun _ => knows_of_mem, bitsIn_of (hf := fun f => ?_)⟩
  rw [State.modFn_fn]
  split
  · next hq =>
    subst hq
    exact hg _
  · rfl

/-- A transaction of no channel. -/
theorem Waning.post (h : Waning s t) (hx : x.purpose.pch? = none := by rfl) : Waning s (t.post x) := by
  refine h.trans ⟨fun _ => rfl, fun y hy => ?_, bitsIn_of⟩
  rcases List.mem_append.1 hy with hy | hy
  · exact knows_of_mem hy
  · rw [List.mem_singleton] at hy
    subst hy
    exact .inl hx

theorem Waning.mapChans (h : Waning s t) {g : Nat → Chan → Chan}
    (hm : ∀ p c, (g p c).started.map Work.marks = c.started.map Work.marks) (he : ∀ p c, (g p c).evt = c.evt) :
    Waning s { t with chans := t.chans.map fun e => (e.1, g e.1 e.2) } :=
  h.trans ⟨look_map_proj ({} : Chan) t.chans g (fun c => c.started.map Work.marks) hm, fun _ => knows_of_mem,
    bitsIn_of (look_map_proj ({} : Chan) t.chans g Chan.evt he)⟩

theorem Waning.mapPorts (h : Waning s t) {g : Nat → Port → Port} (he : ∀ p y, (g p y).evt = y.evt) :
    Waning s { t with ports := t.ports.map fun e => (e.1, g e.1 e.2) } :=
  h.trans ⟨fun _ => rfl, fun _ => knows_of_mem, bitsIn_of (hp := look_map_proj ({} : Port) t.ports g Port.evt he)⟩

theorem Waning.mapFns (h : Waning s t) {g : Nat → Fn → Fn} (he : ∀ p y, (g p y).evt = y.evt) :
    Waning s { t with fns := t.fns.map fun e => (e.1, g e.1 e.2) } :=
  h.trans ⟨fun _ => rfl, fun _ => knows_of_mem, bitsIn_of (hf := look_map_proj ({} : Fn) t.fns g Fn.evt he)⟩

/-- Transactions kept or replaced by ones that are no more alive. -/
theorem Waning.keepTxns (h : Waning s t) {m k : Txn → Bool} {r : Txn → Txn} {l : List Txn}
    (hr : ∀ y, (r y).purpose = y.purpose ∧ (y.dropped = true → (r y).dropped = true)
      ∧ (y.voided = true → (r y).voided = true)) (hl : l = mapIf m r (t.txns.filter k)) :
    Waning s { t with txns := l } := by
  subst hl
  refine h.trans ⟨fun _ => rfl, fun y hy => ?_, bitsIn_of⟩
  obtain ⟨z, hz, rfl⟩ := List.mem_map.1 hy
  have hmem := List.mem_of_mem_filter hz
  split
  · exact .inr ⟨z, hmem, (hr z).1.symm, (hr z).2.1, (hr z).2.2⟩
  · exact knows_of_mem hmem

theorem Waning.freeLane (h : Waning s t) (b : Nat) (l : Landing) (k : Nat) : Waning s (t.freeLane b l k) := by
  cases l with
  | lane => exact h.upd
  | drain => exact h.upd
  | port p => exact h.setPort
  | none => exact h

theorem Waning.freeTxn (h : Waning s t) (y : Txn) : Waning s (t.freeTxn y) := by
  unfold State.freeTxn
  split
  · exact h.freeLane _ _ _
  · exact h.freeLane _ _ _
  · exact h.freeLane _ _ _
  · exact h

theorem Waning.dropWhere (h : Waning s t) (m : Txn → Bool) : Waning s (t.dropWhere m) :=
  (h.foldl _ fun _ y k => k.freeTxn y).keepTxns (r := fun y => { y with dropped := true })
    (fun _ => ⟨rfl, fun _ => rfl, id⟩) rfl

theorem Waning.abandonReqs (h : Waning s t) (m : XReq → Bool) : Waning s (t.abandonReqs m) :=
  (h.foldl (f := State.freeReq) (t.xez.reqs.filter m) fun _ y k => k.freeLane _ _ y.space).upd

theorem Waning.leaveQueue (h : Waning s t) (p : Nat) (w : Work) : Waning s (t.leaveQueue p w) := ite h.setPort h

theorem Waning.writeRec (h : Waning s t) (k : Nat) (r : GobRec) : Waning s (t.writeRec k r) :=
  (h.upd (u := { t with cul := { t.cul with
    records := put t.cul.records k r, since := if t.cul.sweep then k :: t.cul.since else t.cul.since } })).post

theorem Waning.freeMembers (h : Waning s t) (k : Nat) (l : Option (List Nat)) : Waning s (t.freeMembers k l) := by
  unfold State.freeMembers
  dsimp only
  exact (ite (c := t.cul.quarantined.contains k = true) h (h.writeRec k _)).upd

theorem Waning.dropChain (h : Waning s t) (w : Work) : Waning s (t.dropChain w) := by
  unfold State.dropChain
  split
  · split
    · exact h
    · exact h.freeMembers _ _
  · split
    · exact h
    · exact h.freeMembers _ _
  · split
    · exact h
    · exact h.freeMembers _ _
  · exact h

theorem Work.takeCrc_marks (w : Work) (hi k : Nat) : ({ w.takeCrc hi with outWords := k } : Work).marks = w.marks := by
  obtain ⟨_, _, _, h⟩ := w.takeCrc_eq hi
  rw [h]
  rfl

theorem Waning.pumpPort (k : Nat) (h : Waning s t) (q : Nat) : Waning s (t.pumpPort k q) := by
  induction k generalizing t with
  | zero => exact h
  | succ k ih =>
    unfold State.pumpPort
    dsimp only
    split
    · exact h
    · split
      · exact h
      · next hw =>
        split
        · exact h
        · split
          · exact h
          · exact ih ((h.modFound hw (Work.takeCrc_marks _ _ _)).setPort)

theorem Waning.cutWork (h : Waning s t) (p : Nat) (w : Work) : Waning s (t.cutWork p w) := by
  have hdrop := (h.dropWhere fun x => x.purpose.serial? == some (p, w.serial) || x.purpose.recFor? == some (p, w.serial))
    |>.leaveQueue p w
  exact ((ite (hdrop.setPort.pumpPort 32 _) hdrop).dropChain w).modWork

/-! ### Raises -/

theorem Chan.giveSignal_marks (o : Nat) (c : Chan) :
    (c.giveSignal o).started.map Work.marks = c.started.map Work.marks := by
  have h := congrArg (List.map Work.marks) (giveSignal_still o c)
  rw [List.map_map, List.map_map] at h
  exact h

theorem Waning.raiseSignal (h : Waning s t) (f k : Nat) : Waning s (t.raiseSignal f k) := by
  unfold State.raiseSignal
  split
  · exact h.mapChans (g := fun _ c => c.giveSignal _) (fun _ c => c.giveSignal_marks _) fun _ c => c.giveSignal_evt _
  · exact ite h.modFn h.modFn

theorem setPending_marks (s : State) (n p : Nat) : (s.setPending n).marks p = s.marks p := by
  unfold State.setPending
  split
  · rw [State.marks, State.modChan_chan]
    split
    · next h =>
      subst h
      rfl
    · rfl
  · split
    · rfl
    · split <;> rfl

theorem Waning.setPending (h : Waning s t) (n : Nat) : Waning s (t.setPending n) := by
  refine h.trans ⟨setPending_marks t n, fun x hx => knows_of_mem (setPending_txns t n ▸ hx), fun m hm hs => ?_⟩
  by_cases hmn : m = n
  · rw [hmn, setPending_isPending_self (hmn ▸ hm)]
  · rw [setPending_isPending_of_ne hm hmn, hs]

theorem Waning.setVec (h : Waning s t) (v : Nat) (y : Vec) : Waning s (t.setVec v y) := h.upd

theorem Waning.decideVec (h : Waning s t) (v : Nat) (force : Bool) : Waning s (t.decideVec v force) :=
  ite ((h.setVec v _).post) h

theorem Waning.raise (h : Waning s t) (n : Nat) : Waning s (t.raise n) := by
  have hset := h.setPending n
  unfold State.raise
  cases t.route n with
  | none => exact hset
  | int _ => exact hset
  | vector v => exact (hset.setVec v _).decideVec _ _
  | trigOut k => exact hset.upd
  | signal f k => exact hset.raiseSignal f k

theorem Waning.raiseUp (h : Waning s t) (n : Nat) : Waning s (t.raiseUp n) := ite (h.raise n) h

theorem Waning.log (h : Waning s t) (k src : Nat) (d : List Byte) : Waning s (t.log k src d) := by
  unfold State.log
  split
  · exact h.upd
  · split
    · exact h.upd
    · exact (h.upd (u := { t with gaf := { t.gaf with
        logLost := satAdd 16 t.gaf.logLost 1, logLostSince := t.gaf.logLostSince + 1 } })).raise _

theorem Waning.setCause (h : Waning s t) (b : Nat) : Waning s (t.setCause b) := by
  unfold State.setCause
  dsimp only
  split
  · exact h.upd
  · exact (Waning.raiseUp h.upd _).log _ _ _

theorem Waning.chanCause (h : Waning s t) (p b : Nat) : Waning s (t.chanCause p b) := by
  unfold State.chanCause
  split
  · exact ite (h.setCause b) h
  · exact h

theorem chanEvent_lt (hp : p < 128) (k : Nat) (hk : k < 8) : chanEvent p k < 1476 := by
  unfold chanEvent
  omega

/-! ### Settling -/

theorem Port.tidy_evt (y : Port) : y.tidy.evt = y.evt := by
  unfold Port.tidy
  dsimp only
  split
  · split <;> split <;> rfl
  · split <;> rfl

theorem foldl_free_evt (l : List Nat) (k : Nat) (y : Port) :
    (l.foldl (fun y i => y.free (k + i)) y).evt = y.evt := by
  induction l generalizing y with
  | nil => rfl
  | cons a l ih => exact (ih (y.free (k + a))).trans (Port.tidy_evt _)

theorem Waning.trimWork (h : Waning s t) (p : Nat) (w : Work) : Waning s (t.trimWork p w) := by
  unfold State.trimWork
  split
  · have hfree := fun l k => h.setPort (q := w.desc.srcAddr) (foldl_free_evt l k (t.port w.desc.srcAddr))
    exact ite h (ite (hfree _ _).modWork (hfree _ _))
  · exact (h.foldl _ fun _ _ k => k.freeLane _ _ _).modWork

theorem Waning.trim (h : Waning s t) : Waning s t.trim :=
  h.foldl _ fun _ _ k => k.foldl _ fun _ _ k => k.trimWork _ _

theorem Waning.workRecs (h : Waning s t) (p : Nat) (w : Work) : Waning s (t.workRecs p w) := by
  unfold State.workRecs
  refine ite h (ite (ite h (h.post (x := deviceRead t _ _ _ _ _ _))) ?_)
  split
  · exact h
  · exact ite (h.post (x := deviceRead t _ _ _ _ _ _)) h

theorem Waning.freeRecs (h : Waning s t) (e : Freeing) : Waning s (t.freeRecs e) := by
  unfold State.freeRecs
  split
  · exact h
  · exact ite h (h.post (x := deviceRead t _ _ _ _ _ _))

theorem Waning.sweepRecs (k : Nat) (h : Waning s t) : Waning s (t.sweepRecs k) := by
  induction k generalizing t with
  | zero => exact h
  | succ k ih =>
    unfold State.sweepRecs
    exact ite (ih ((h.upd (u := { t with cul := { t.cul with sweepNext := t.cul.sweepNext + 64 } })).post)) h

theorem Waning.culletReads (h : Waning s t) : Waning s t.culletReads :=
  ((h.foldl _ fun _ _ k => k.foldl _ fun _ _ k => k.workRecs _ _).foldl _ fun _ _ k => k.freeRecs _).sweepRecs 64

theorem Waning.endPins (h : Waning s t) : Waning s t.endPins := by
  unfold State.endPins
  exact h.mapChans (g := fun n c => { c with started := c.started.map fun w =>
      { w with pinned := w.pinned && !t.pinOver n w (w.chain != .unresolved && w.readsDone t.cul.poolBase) } })
    (fun _ c => by rw [List.map_map]; rfl) fun _ _ => rfl

theorem Waning.clearFull (h : Waning s t) (s0 : State) : Waning s (s0.clearFull t) := by
  unfold State.clearFull
  exact h.mapPorts (g := fun k y => if (s0.port k).full && t.hasRoom k then { y with full := false } else y)
    fun _ y => by split <;> rfl

theorem Waning.compareWm (h : Waning s t) (p : Nat) : Waning s (t.compareWm p) :=
  ite h (ite ((h.setPort (q := p)).raise _) (ite ((h.setPort (q := p)).raise _) h))

theorem Waning.startWatches (h : Waning s t) : Waning s t.startWatches := by
  unfold State.startWatches
  exact h.mapChans (g := fun n c => { c with watch := if t.watchRuns n then c.watch.or (some t.now.refclk) else none })
    (fun _ _ => rfl) fun _ _ => rfl

theorem Waning.quotaLow (h : Waning s t) (s0 : State) : Waning s (quotaLow s0 t) :=
  h.foldl _ fun _ _ k => ite (k.raise _) k

theorem Waning.endTurns (h : Waning s t) : Waning s t.endTurns := h.upd

theorem Waning.markDrained (h : Waning s t) : Waning s t.markDrained := by
  unfold State.markDrained
  exact h.mapFns (g := fun k y => { y with drained := y.drained || t.fnDrained k }) fun _ _ => rfl

theorem Waning.settle (h : Waning s t) (s0 : State) : Waning s (s0.settle t) := by
  have h1 := h.trim.culletReads.endPins.clearFull s0
  have h2 := h1.foldl ((s0.clearFull t.trim.culletReads.endPins).ports.map Prod.fst) fun u p k => k.compareWm p
  exact ite (h2.startWatches.endTurns.quotaLow s0).markDrained h

end Sys2Proof.Machine
end

section
/-! How work ends (R159, R160, R270 to R272, R278, R283, R296, R302, R303): completions and their reports, passes, decided
statuses, stale edges, segment checks, releases of packets and the stall watchdog. -/

namespace Sys2Proof.Machine

variable {s t u : State} {p q n k : Nat} {w : Work} {st : Status}

/-! ### Completions -/

theorem freeLane_chans (s : State) (b : Nat) (l : Landing) (k : Nat) : (s.freeLane b l k).chans = s.chans := by
  cases l <;> rfl

/-- A field that no step of a fold changes. -/
theorem foldl_proj {α β γ : Type} (proj : β → γ) {f : β → α → β} (hf : ∀ u x, proj (f u x) = proj u) (l : List α) (b : β) :
    proj (l.foldl f b) = proj b := by
  induction l generalizing b with
  | nil => rfl
  | cons a l ih => exact (ih (f b a)).trans (hf b a)

/-- A part of the state that neither landing space nor a port reaches. -/
theorem dropSpace_proj {γ : Type} (proj : State → γ) (hl : ∀ t b l k, proj (State.freeLane t b l k) = proj t)
    (hp : ∀ t q x, proj (State.setPort t q x) = proj t) (s : State) (p : Nat) (w : Work) :
    proj (s.dropSpace p w) = proj s := by
  have hfree := foldl_proj proj (f := fun (t : State) (g : Seg) => t.freeLane (benchOf p) (segLanding w g) g.space)
    (fun _ _ => hl _ _ _ _) w.landed s
  unfold State.dropSpace
  dsimp only
  split
  · exact (hp _ _ _).trans hfree
  · exact hfree

theorem dropSpace_chans (s : State) (p : Nat) (w : Work) : (s.dropSpace p w).chans = s.chans :=
  dropSpace_proj State.chans freeLane_chans (fun _ _ _ => rfl) s p w

theorem dropSpace_fns (s : State) (p : Nat) (w : Work) : (s.dropSpace p w).fns = s.fns :=
  dropSpace_proj State.fns (fun _ _ l _ => by cases l <;> rfl) (fun _ _ _ => rfl) s p w

theorem dropSpace_now (s : State) (p : Nat) (w : Work) : (s.dropSpace p w).now = s.now :=
  dropSpace_proj State.now (fun _ _ l _ => by cases l <;> rfl) (fun _ _ _ => rfl) s p w

theorem dropSpace_chan (s : State) (p : Nat) (w : Work) (q : Nat) : (s.dropSpace p w).chan q = s.chan q :=
  congrArg (look ({} : Chan) · q) (dropSpace_chans s p w)

/-- The channel after its oldest descriptor: its works without the oldest, and H past it. -/
def Chan.advanced (c : Chan) : Chan :=
  { c with started := c.started.drop 1, ring := { c.ring with h := ringNext c.ring.order c.ring.h } }

/-- The state after the oldest descriptor, before it is reported. -/
def State.advanced (s : State) (p : Nat) (w : Work) : State :=
  (s.dropSpace p w).setChan p (s.chan p).advanced

theorem advanced_eq (s : State) (p : Nat) (w : Work) : (s.retireHead p w).modChan p (fun c =>
    { c with ring := { c.ring with h := ringNext c.ring.order c.ring.h } }) = s.advanced p w := by
  unfold State.retireHead State.advanced
  rw [modChan_modChan, dropSpace_chan]
  rfl

theorem completeHead_plain (h : w.desc.op ≠ some .signal) :
    s.completeHead p w = (s.advanced p w).addReport p w.okReport false := by
  unfold State.completeHead
  dsimp only
  rw [if_neg h, advanced_eq]

theorem completeHead_signal (h : w.desc.op = some .signal) : s.completeHead p w
    = ((s.advanced p w).raiseSignal (s.chFn p) w.desc.signalId).addReport p w.okReport false := by
  unfold State.completeHead
  dsimp only
  rw [if_pos h, advanced_eq]

theorem advanced_chan (s : State) (p : Nat) (w : Work) : (s.advanced p w).chan p = (s.chan p).advanced :=
  setChan_chan_same _ _ _

/-- A report of a channel that writes records waits for its record. -/
theorem addReport_record (hm : (s.chan p).cfg.cplRingMode = true) (r : Report) (now : Bool) :
    (s.addReport p r now).chan p
      = { s.chan p with cpl := { (s.chan p).cpl with queue := (s.chan p).cpl.queue ++ [r] } } := by
  unfold State.addReport
  dsimp only
  rw [if_pos hm, setChan_chan_same]

/-- The completion registers with one more report, and whether an index write is due. -/
def CplState.reported (c : CplState) (r : Report) (due : Bool) (deadline : Nat) : CplState :=
  { c with queue := c.queue ++ [r], uncovered := c.uncovered + 1, due := due, deadline := c.deadline.or (some deadline) }

/-- The completion registers at an index write. -/
def CplState.written (c : CplState) (h : Nat) : CplState :=
  { c with uncovered := 0, deadline := none, due := false, queue := [], flying := c.queue, flyingIdx := h
           outstanding := true }

theorem kickIndex_writes (hm : (s.chan p).cfg.cplRingMode = false) (hdue : (s.chan p).cpl.due = true)
    (hout : (s.chan p).cpl.outstanding = false) :
    (s.kickIndex p).chan p = { s.chan p with cpl := (s.chan p).cpl.written (s.chan p).ring.h } := by
  unfold State.kickIndex
  dsimp only
  rw [if_pos (by rw [hm, hdue, hout]; rfl)]
  exact setChan_chan_same _ _ _

theorem kickIndex_waits (h : (s.chan p).cpl.due = false ∨ (s.chan p).cpl.outstanding = true) : s.kickIndex p = s :=
  if_neg (by rcases h with h | h <;> simp [h])

/-- Whether the next report makes an index write due (R87). -/
def Chan.writes (c : Chan) (now : Bool) : Bool :=
  c.cpl.due || now || decide (c.cfg.coalCount ≤ c.cpl.uncovered + 1) || decide (c.cfg.coalTime = 0)

/-- The channel with one more report, and whether an index write is due. -/
def State.reported (s : State) (p : Nat) (r : Report) (due : Bool) : Chan :=
  { s.chan p with cpl := (s.chan p).cpl.reported r due (s.now.cclk + (s.chan p).cfg.coalTime) }

theorem addReport_index (hm : (s.chan p).cfg.cplRingMode = false) (r : Report) (now : Bool) :
    s.addReport p r now = (s.setChan p (s.reported p r ((s.chan p).writes now))).kickIndex p :=
  if_neg (by rw [hm]; decide)

theorem addReport_writes (hm : (s.chan p).cfg.cplRingMode = false) {now : Bool} (hdue : (s.chan p).writes now = true)
    (hout : (s.chan p).cpl.outstanding = false) (r : Report) : (s.addReport p r now).chan p
      = { s.chan p with cpl := (s.reported p r true).cpl.written (s.chan p).ring.h } := by
  rw [addReport_index hm, hdue, kickIndex_writes, setChan_chan_same]
  · rfl
  · rw [setChan_chan_same]
    exact hm
  · rw [setChan_chan_same]
    rfl
  · rw [setChan_chan_same]
    exact hout

theorem addReport_waits (hm : (s.chan p).cfg.cplRingMode = false) {now : Bool} (hdue : (s.chan p).writes now = false)
    (r : Report) : (s.addReport p r now).chan p = s.reported p r false := by
  rw [addReport_index hm, hdue, kickIndex_waits, setChan_chan_same]
  rw [setChan_chan_same]
  exact .inl rfl

/-- Every report leaves the channel but its completion registers. -/
theorem addReport_keeps (s : State) (p : Nat) (r : Report) (now : Bool) :
    ∃ y, (s.addReport p r now).chan p = { s.chan p with cpl := y } := by
  cases hm : (s.chan p).cfg.cplRingMode with
  | true => exact ⟨_, addReport_record hm r now⟩
  | false =>
    rw [addReport_index hm]
    obtain ⟨y, hy⟩ := kickIndex_chan (s.setChan p (s.reported p r ((s.chan p).writes now))) p
    rw [setChan_chan_same] at hy
    exact ⟨y, hy⟩

/-! ### Passes -/

theorem passComplete_running (hrun : (s.chan p).state = .running) {rest : List Work}
    (hs : (s.chan p).started = w :: rest) (hpass : w.pass = true) (hfin : s.finished p w = true) :
    exec (.passComplete p) s = .next (s.settle (((s.dropSpace p w).setChan p { s.chan p with
      started := rest, lastStatus := .ok, state := if (s.chan p).direct.circ = true then .running else .idle
      direct := { (s.chan p).direct with due := (s.chan p).direct.due || (s.chan p).direct.circ } }).raise
        (chanEvent p 1))) := by
  show execPassComplete p s = _
  unfold execPassComplete
  rw [hs]
  dsimp only
  rw [if_pos (by rw [Chan.executes, hrun, hpass, hfin]; rfl)]
  unfold State.retireHead
  rw [modChan_modChan, dropSpace_chan]
  dsimp only
  rw [if_pos hrun, hs]
  by_cases hc : (s.chan p).direct.circ = true
  · rw [if_pos hc, if_pos hc, show ((s.chan p).direct.due || (s.chan p).direct.circ) = true by rw [hc, Bool.or_true], ← hrun]
    rfl
  · rw [if_neg hc, if_neg hc, show ((s.chan p).direct.due || (s.chan p).direct.circ) = (s.chan p).direct.due by
      rw [Bool.not_eq_true] at hc; rw [hc, Bool.or_false]]
    rfl

theorem passComplete_stopping (hstop : (s.chan p).state = .stopping) {rest : List Work}
    (hs : (s.chan p).started = w :: rest) (hpass : w.pass = true) (hfin : s.finished p w = true) :
    exec (.passComplete p) s = .next (s.settle (((s.dropSpace p w).setChan p { s.chan p with
      started := rest, lastStatus := .ok }).raise (chanEvent p 1))) := by
  show execPassComplete p s = _
  unfold execPassComplete
  rw [hs]
  dsimp only
  rw [if_pos (by rw [Chan.executes, hstop, hpass, hfin]; rfl)]
  unfold State.retireHead
  rw [modChan_modChan, dropSpace_chan]
  dsimp only
  rw [if_neg (by rw [hstop]; nofun), hs]
  rfl

/-! ### What a decided status abandons -/

/-- No live transaction of work `k` of the channel. -/
def State.Unled (s : State) (p k : Nat) : Prop := ∀ x ∈ s.txns, x.purpose.serial? = some (p, k) → x.dropped = true

/-- Work `k` of the channel is abandoned, and so is every transaction of it. -/
structure State.Left (s : State) (p k : Nat) : Prop where
  gone : ∃ y ∈ (s.chan p).started, y.serial = k ∧ y.abandoned = true
  unled : s.Unled p k

theorem pch?_of_serial? {x : Purpose} (h : x.serial? = some (p, k)) : x.pch? = some p := by
  cases x <;> simp only [Purpose.serial?, Option.some.injEq, Prod.mk.injEq, reduceCtorEq] at h <;> exact congrArg some h.1

theorem Waning.unled (h : Waning s t) (hs : s.Unled p k) : t.Unled p k := by
  intro x hx hser
  obtain hnone | ⟨y, hy, hpurpose, hdrop, _⟩ := h.txns x hx
  · rw [pch?_of_serial? hser] at hnone
    cases hnone
  · exact hdrop (hs y hy (hpurpose ▸ hser))

theorem Waning.gone (h : Waning s t) (hs : ∃ y ∈ (s.chan p).started, y.serial = k ∧ y.abandoned = true) :
    ∃ y ∈ (t.chan p).started, y.serial = k ∧ y.abandoned = true := by
  obtain ⟨y, hy, hserial, hab⟩ := hs
  have hmem : y.marks ∈ t.marks p := by
    rw [h.marks]
    exact List.mem_map_of_mem hy
  obtain ⟨z, hz, hzy⟩ := List.mem_map.1 hmem
  exact ⟨z, hz, (congrArg Prod.fst hzy).trans hserial, (congrArg (fun m => m.2.1) hzy).trans hab⟩

theorem dropTxns_unled (s : State) (p k : Nat) : (s.dropTxns p k).Unled p k := by
  intro x hx hser
  obtain ⟨y, -, rfl⟩ := List.mem_map.1 hx
  split
  · rfl
  · next hno =>
    rw [if_neg hno] at hser
    refine absurd ?_ hno
    dsimp only
    rw [hser, beq_self_eq_true, Bool.true_or]

theorem cutWork_of_dropTxns (s : State) (p : Nat) (w : Work) : Waning (s.dropTxns p w.serial) (s.cutWork p w) := by
  have hdrop := (Waning.refl (s.dropTxns p w.serial)).leaveQueue p w
  exact ((Waning.ite (hdrop.setPort.pumpPort 32 _) hdrop).dropChain w).modWork

/-- The state of `abandonWork` before the work is marked. -/
def State.severed (s : State) (p : Nat) (w : Work) : State := (s.cutWork p w).dropReqs p w.serial

/-- A piece of work as it is abandoned. -/
def Work.forsaken (w : Work) : Work := { w with abandoned := true, pinned := false, armed := false }

theorem abandonWork_eq (s : State) (p : Nat) (w : Work) : s.abandonWork p true w
    = (s.severed p w).modWork p w.serial Work.forsaken := rfl

theorem severed_of_dropTxns (s : State) (p : Nat) (w : Work) : Waning (s.dropTxns p w.serial) (s.severed p w) :=
  (cutWork_of_dropTxns s p w).abandonReqs _

theorem severed_waning (s : State) (p : Nat) (w : Work) : Waning s (s.severed p w) :=
  ((Waning.refl s).cutWork p w).abandonReqs _

theorem mem_updWork {g : Work → Work} {l : List Work} {y : Work} (hy : y ∈ l) :
    y ∈ updWork n g l ∨ g y ∈ updWork n g l := by
  induction l with
  | nil => cases hy
  | cons x l ih =>
    rw [updWork]
    rcases List.mem_cons.1 hy with rfl | hy
    · split
      · exact .inr List.mem_cons_self
      · exact .inl List.mem_cons_self
    · split
      · exact .inl (List.mem_cons_of_mem _ hy)
      · exact (ih hy).imp (List.mem_cons_of_mem _) (List.mem_cons_of_mem _)

theorem exists_updWork {g : Work → Work} {l : List Work} (h : n ∈ l.map Work.serial) :
    ∃ y, y.serial = n ∧ g y ∈ updWork n g l := by
  induction l with
  | nil => cases h
  | cons x l ih =>
    rw [updWork]
    by_cases hx : x.serial = n
    · exact ⟨x, hx, by rw [if_pos hx]; exact List.mem_cons_self⟩
    · rcases List.mem_cons.1 h with h | h
      · exact absurd h.symm hx
      · obtain ⟨y, hy, hmem⟩ := ih h
        exact ⟨y, hy, by rw [if_neg hx]; exact List.mem_cons_of_mem _ hmem⟩

/-- The numbers of a channel's works. -/
def State.serials (s : State) (p : Nat) : List Nat := (s.chan p).started.map Work.serial

theorem Waning.serials (h : Waning s t) (p : Nat) : t.serials p = s.serials p := by
  have hm := congrArg (List.map Prod.fst) (h.marks p)
  unfold State.marks at hm
  rw [List.map_map, List.map_map] at hm
  exact hm

theorem modWork_serials (s : State) (p n : Nat) {g : Work → Work} (hg : ∀ w, (g w).serial = w.serial) (q : Nat) :
    (s.modWork p n g).serials q = s.serials q := by
  unfold State.serials State.modWork
  rw [State.modChan_chan]
  split
  · next hq =>
    subst hq
    exact updWork_proj Work.serial hg _
  · rfl

theorem abandonWork_serials (s : State) (p : Nat) (w : Work) (q : Nat) :
    (s.abandonWork p true w).serials q = s.serials q := by
  rw [abandonWork_eq, modWork_serials _ _ _ (g := Work.forsaken) fun _ => rfl, (severed_waning s p w).serials]

theorem modWork_started (s : State) (p n : Nat) (g : Work → Work) :
    ((s.modWork p n g).chan p).started = updWork n g (s.chan p).started := by
  unfold State.modWork
  rw [State.modChan_chan, if_pos rfl]

/-- An abandoned work of the channel stays abandoned. -/
theorem Left.abandonWork (h : s.Left p k) (w : Work) : (s.abandonWork p true w).Left p k := by
  rw [abandonWork_eq]
  refine ⟨?_, (severed_waning s p w).unled h.unled⟩
  obtain ⟨y, hy, hserial, hab⟩ := (severed_waning s p w).gone h.gone
  rw [modWork_started]
  rcases mem_updWork hy with hmem | hmem
  · exact ⟨y, hmem, hserial, hab⟩
  · exact ⟨_, hmem, hserial, rfl⟩

theorem left_of_abandonWork (h : w.serial ∈ s.serials p) : (s.abandonWork p true w).Left p w.serial := by
  rw [abandonWork_eq]
  refine ⟨?_, (severed_of_dropTxns s p w).unled (dropTxns_unled s p w.serial)⟩
  rw [modWork_started]
  have hmem : w.serial ∈ (s.severed p w).serials p := (severed_waning s p w).serials p ▸ h
  obtain ⟨y, hy, hmem⟩ := exists_updWork (g := Work.forsaken) hmem
  exact ⟨_, hmem, hy, rfl⟩

/-- Abandoning works in turn: those abandoned before stay so, and each of these is. -/
theorem foldl_abandonWork_left (l : List Work) (s : State) :
    (∀ k, s.Left p k → (l.foldl (fun t x => t.abandonWork p true x) s).Left p k)
    ∧ ∀ x ∈ l, x.serial ∈ s.serials p → (l.foldl (fun t x => t.abandonWork p true x) s).Left p x.serial := by
  induction l generalizing s with
  | nil => exact ⟨fun _ h => h, fun _ h => nomatch h⟩
  | cons w l ih =>
    obtain ⟨hkeep, hleave⟩ := ih (s.abandonWork p true w)
    refine ⟨fun k hk => hkeep k (Left.abandonWork hk w), fun x hx hs => ?_⟩
    rcases List.mem_cons.1 hx with rfl | hx
    · exact hkeep _ (left_of_abandonWork hs)
    · exact hleave x hx (by rw [abandonWork_serials]; exact hs)

theorem foldl_abandonWork_unled (l : List Work) (h : s.Unled p k) :
    (l.foldl (fun t x => t.abandonWork p true x) s).Unled p k := by
  induction l generalizing s with
  | nil => exact h
  | cons w l ih =>
    have hw : (s.abandonWork p true w).Unled p k := (severed_waning s p w).unled h
    exact ih hw

theorem mem_laterThan {l : List Work} {x : Work} (h : x ∈ laterThan n l) : x ∈ l := by
  induction l with
  | nil => cases h
  | cons w l ih =>
    rw [laterThan] at h
    split at h
    · exact List.mem_cons_of_mem _ h
    · exact List.mem_cons_of_mem _ (ih h)

/-- The failed work cut off, and every later one abandoned. -/
def State.felled (s : State) (p n : Nat) (w : Work) (st : Status) : State :=
  (laterThan n (s.chan p).started).foldl (fun t x => t.abandonWork p true x)
    (((s.modWork p n fun x => { x with verdict := some st }).cutWork p w).dropReqs p n)

/-- The channel that waits for its halt edge. -/
def Chan.halting (c : Chan) : Chan :=
  { c with halt := { c.halt with pending := true }, wantsSignal := none, gobWait := none }

theorem failWork_eq (hw : s.work? p n = some w) (hlive : w.live = true) (hst : (s.chan p).state ≠ .aborting)
    (st : Status) : s.failWork p n st = ((s.felled p n w st).modChan p Chan.halting).raise (chanEvent p 3) := by
  unfold State.failWork
  dsimp only
  rw [hw]
  exact if_neg (not_or.2 ⟨hst, by rw [hlive]; decide⟩)

/-- A status is decided once, and not while the channel aborts (R135, R301). -/
theorem failWork_idle (hw : s.work? p n = some w) (h : (s.chan p).state = .aborting ∨ w.live = false) (st : Status) :
    s.failWork p n st = s := by
  unfold State.failWork
  dsimp only
  rw [hw]
  exact if_pos (h.imp_right fun h => by rw [h]; rfl)

theorem failWork_none (hw : s.work? p n = none) (st : Status) : s.failWork p n st = s := by
  unfold State.failWork
  dsimp only
  rw [hw]

theorem failWork_cases (s : State) (p n : Nat) (st : Status) : s.failWork p n st = s
    ∨ ∃ w, s.work? p n = some w ∧ w.live = true ∧ (s.chan p).state ≠ .aborting := by
  cases hw : s.work? p n with
  | none => exact .inl (failWork_none hw st)
  | some w =>
    by_cases h : (s.chan p).state = .aborting ∨ w.live = false
    · exact .inl (failWork_idle hw h st)
    · rw [not_or, Bool.not_eq_false] at h
      exact .inr ⟨w, rfl, h.2, h.1⟩

/-! ### Waiters through a raise -/

theorem giveSignal_waits (o : Nat) (c : Chan) : (c.giveSignal o).gobWait = c.gobWait
    ∧ (c.wantsSignal = none → (c.giveSignal o).wantsSignal = none) := by
  unfold Chan.giveSignal
  split
  · exact ⟨rfl, fun _ => rfl⟩
  · exact ⟨rfl, id⟩

theorem raiseSignal_waits (s : State) (f k p : Nat) : ((s.raiseSignal f k).chan p).gobWait = (s.chan p).gobWait
    ∧ ((s.chan p).wantsSignal = none → ((s.raiseSignal f k).chan p).wantsSignal = none) := by
  unfold State.raiseSignal
  split
  · next o _ =>
    refine ⟨look_map_proj ({} : Chan) s.chans (fun _ c => c.giveSignal o) Chan.gobWait
      (fun _ c => (giveSignal_waits o c).1) p, fun h => ?_⟩
    rcases look_map_or ({} : Chan) s.chans (fun _ c => c.giveSignal o) p with hl | ⟨hl, -⟩
    · exact (congrArg Chan.wantsSignal hl).trans ((giveSignal_waits o (s.chan p)).2 h)
    · exact congrArg Chan.wantsSignal hl
  · split
    · exact ⟨rfl, id⟩
    · exact ⟨rfl, id⟩

theorem setPending_waits (s : State) (k p : Nat) : ((s.setPending k).chan p).gobWait = (s.chan p).gobWait
    ∧ ((s.setPending k).chan p).wantsSignal = (s.chan p).wantsSignal := by
  unfold State.setPending
  split
  · rw [State.modChan_chan]
    split
    · next h =>
      subst h
      exact ⟨rfl, rfl⟩
    · exact ⟨rfl, rfl⟩
  · split
    · exact ⟨rfl, rfl⟩
    · split <;> exact ⟨rfl, rfl⟩

/-- A raise gives a waiter its signal and makes no other wait. -/
theorem raise_waits (s : State) (k p : Nat) : ((s.raise k).chan p).gobWait = (s.chan p).gobWait
    ∧ ((s.chan p).wantsSignal = none → ((s.raise k).chan p).wantsSignal = none) := by
  obtain ⟨hgob, hsignal⟩ := setPending_waits s k p
  rw [← hgob, ← hsignal]
  unfold State.raise
  cases s.route k with
  | none => exact ⟨rfl, id⟩
  | int _ => exact ⟨rfl, id⟩
  | vector v =>
    have hchan : ((s.setPending k).raiseVec v).chan p = (s.setPending k).chan p :=
      congrArg (look ({} : Chan) · p) (decideVec_chans _ v false)
    show (((s.setPending k).raiseVec v).chan p).gobWait = _ ∧ (_ → (((s.setPending k).raiseVec v).chan p).wantsSignal = _)
    rw [hchan]
    exact ⟨rfl, id⟩
  | trigOut _ => exact ⟨rfl, id⟩
  | signal f j => exact raiseSignal_waits _ f j p

theorem verdict_of_core {o : Option Work} (h : o.map Work.core = some (n, some st)) : o.bind Work.verdict = some st := by
  obtain ⟨x, rfl, hx⟩ := Option.map_eq_some_iff.1 h
  exact congrArg Prod.snd hx

/-- What a decided status leaves in its channel and of the later works. -/
theorem failWork_spec (hw : s.work? p n = some w) (hp : p < 128) (hlive : w.live = true)
    (hst : (s.chan p).state ≠ .aborting) (st : Status) :
    ((s.failWork p n st).work? p n).bind Work.verdict = some st ∧ ((s.failWork p n st).chan p).halt.pending = true
    ∧ ((s.failWork p n st).chan p).wantsSignal = none ∧ ((s.failWork p n st).chan p).gobWait = none
    ∧ (s.failWork p n st).isPending (chanEvent p 3) = true ∧ (s.failWork p n st).Unled p n
    ∧ ∀ x ∈ laterThan n (s.chan p).started, (s.failWork p n st).Left p x.serial := by
  have hcore := failWork_core hw hlive hst st
  have hn : w.serial = n := by
    have hfound := List.find?_some hw
    exact beq_iff_eq.1 hfound
  refine ⟨verdict_of_core (failWork_verdict hw hlive hst st), ?_, ?_⟩
  · refine (congrArg (fun x => x.1.halt.pending) (hcore p)).trans ?_
    unfold State.failing
    rw [State.modChan_chan, if_pos rfl]
    rfl
  · have hhalting : ((s.felled p n w st).modChan p Chan.halting).chan p = ((s.felled p n w st).chan p).halting := by
      rw [State.modChan_chan, if_pos rfl]
    have hwaits := raise_waits ((s.felled p n w st).modChan p Chan.halting) (chanEvent p 3) p
    have hwane := ((Waning.refl (s.felled p n w st)).modChan (p := p) (g := Chan.halting)).raise (chanEvent p 3)
    have hcut := (cutWork_of_dropTxns (s.modWork p n fun x => { x with verdict := some st }) p w).abandonReqs
      (fun q => q.pch == p && q.serial == n && !q.abandoned)
    have hserials : (((s.modWork p n fun x => { x with verdict := some st }).cutWork p w).dropReqs p n).serials p
        = s.serials p :=
      ((((Waning.refl (s.modWork p n fun x => { x with verdict := some st })).cutWork p w).abandonReqs _).serials p).trans
        (modWork_serials s p n (g := fun x => { x with verdict := some st }) (fun _ => rfl) p)
    rw [failWork_eq hw hlive hst]
    rw [hhalting] at hwaits
    refine ⟨hwaits.2 rfl, hwaits.1.trans rfl, ?_, hwane.unled (foldl_abandonWork_unled _ ?_), fun x hx => ?_⟩
    · rw [raise_isPending (chanEvent_lt hp 3 (by decide)) (chanEvent_lt hp 3 (by decide)), decide_eq_true rfl,
        Bool.true_or]
    · exact hcut.unled (hn ▸ dropTxns_unled _ p w.serial)
    · have hleft := (foldl_abandonWork_left (p := p) (laterThan n (s.chan p).started)
        (((s.modWork p n fun x => { x with verdict := some st }).cutWork p w).dropReqs p n)).2 x hx
        (by rw [hserials]; exact List.mem_map_of_mem (mem_laterThan hx))
      exact ⟨hwane.gone hleft.gone, hwane.unled hleft.unled⟩

end Sys2Proof.Machine
end

section
/-! Stale edges, the stall watchdog and the statement on how work ends (R270, R271, R283). -/

namespace Sys2Proof.Machine

variable {s t u : State} {p q n k : Nat} {w : Work} {st : Status}

/-! ### The stale edge -/

theorem staleCause_iff (s : State) (p : Nat) (w : Work) (cause : Nat) : s.staleCause p w = some cause
    ↔ w.desc.fresh = true ∧ w.pass = false ∧ (((s.chan p).ageBound = 0 ∧ cause = 4)
      ∨ ((s.chan p).ageBound ≠ 0 ∧ s.time.valid = false ∧ cause = 3)
      ∨ ((s.chan p).ageBound ≠ 0 ∧ s.time.valid = true ∧ ((s.chan p).ageBound.toNat : Int) < s.age w ∧ cause = 1)
      ∨ ((s.chan p).ageBound ≠ 0 ∧ s.time.valid = true ∧ s.age w ≤ (s.chan p).ageBound.toNat
          ∧ s.age w < -((s.chan p).leadLimit.toNat : Int) ∧ cause = 2)) := by
  unfold State.staleCause
  dsimp only
  by_cases hguard : w.desc.fresh = true ∧ w.pass = false
  · rw [if_neg (by simp [hguard.1, hguard.2]), eq_true hguard.1, eq_true hguard.2, true_and, true_and]
    have hcomm : ∀ k : Nat, some k = some cause ↔ cause = k := fun k => by rw [Option.some.injEq, eq_comm]
    by_cases hbound : (s.chan p).ageBound = 0
    · rw [if_pos hbound, hcomm]
      simp only [hbound, ne_eq, not_true_eq_false, true_and, false_and, or_false]
    · rw [if_neg hbound]
      simp only [hbound, ne_eq, not_false_eq_true, true_and, false_and, false_or]
      cases s.time.valid with
      | false =>
        rw [if_pos (by rfl), hcomm]
        simp only [true_and, Bool.false_eq_true, false_and, or_false]
      | true =>
        rw [if_neg (by decide)]
        simp only [Bool.true_eq_false, true_and, false_and, false_or]
        by_cases hold : ((s.chan p).ageBound.toNat : Int) < s.age w
        · rw [if_pos hold, hcomm]
          simp only [hold, Int.not_le.2 hold, true_and, false_and, or_false]
        · rw [if_neg hold]
          simp only [hold, Int.not_lt.1 hold, true_and, false_and, false_or]
          split
          · next hahead => simp only [hahead, true_and, hcomm]
          · next hahead => simp only [hahead, false_and, reduceCtorEq]
  · rw [if_pos (by
      rw [Bool.or_eq_true, Bool.not_eq_true']
      rw [not_and, Bool.not_eq_false] at hguard
      cases hfresh : w.desc.fresh with
      | false => exact .inl rfl
      | true => exact .inr (hguard hfresh))]
    exact ⟨nofun, fun h => absurd ⟨h.1, h.2.1⟩ hguard⟩

/-- A piece of work by its number and whether it has had its stale edge. -/
def Work.staleMark (w : Work) : Nat × Bool := (w.serial, w.staleDone)

def State.staleMarks (s : State) (p : Nat) : List (Nat × Bool) := (s.chan p).started.map Work.staleMark

theorem Waning.staleMarks (h : Waning s t) (p : Nat) : t.staleMarks p = s.staleMarks p := by
  have hm := congrArg (List.map fun m : Nat × Bool × Bool => (m.1, m.2.2)) (h.marks p)
  unfold State.marks at hm
  rw [List.map_map, List.map_map] at hm
  exact hm

theorem modWork_staleMarks (s : State) (p n : Nat) {g : Work → Work} (hg : ∀ w, (g w).staleMark = w.staleMark) (q : Nat) :
    (s.modWork p n g).staleMarks q = s.staleMarks q := by
  unfold State.staleMarks State.modWork
  rw [State.modChan_chan]
  split
  · next hq =>
    subst hq
    exact updWork_proj Work.staleMark hg _
  · rfl

theorem abandonWork_staleMarks (s : State) (p : Nat) (w : Work) :
    (s.abandonWork p true w).staleMarks p = s.staleMarks p := by
  rw [abandonWork_eq, modWork_staleMarks _ _ _ (g := Work.forsaken) fun _ => rfl, (severed_waning s p w).staleMarks]

theorem felled_staleMarks (s : State) (p n : Nat) (w : Work) (st : Status) :
    (s.felled p n w st).staleMarks p = s.staleMarks p := by
  unfold State.felled
  refine (foldl_proj (fun t : State => t.staleMarks p) (fun t x => abandonWork_staleMarks t p x) _ _).trans ?_
  have hcut : Waning (s.modWork p n fun x => { x with verdict := some st })
      (((s.modWork p n fun x => { x with verdict := some st }).cutWork p w).dropReqs p n) :=
    ((Waning.refl _).cutWork p w).abandonReqs _
  exact (hcut.staleMarks p).trans
    (modWork_staleMarks s p n (g := fun x => { x with verdict := some st }) (fun _ => rfl) p)

/-- A decided status is no stale edge. -/
theorem failWork_staleMarks (s : State) (p n : Nat) (st : Status) :
    (s.failWork p n st).staleMarks p = s.staleMarks p := by
  obtain h | ⟨w, hw, hlive, hst⟩ := failWork_cases s p n st
  · rw [h]
  · have hwane := ((Waning.refl (s.felled p n w st)).modChan (p := p) (g := Chan.halting)).raise (chanEvent p 3)
    rw [failWork_eq hw hlive hst, hwane.staleMarks, felled_staleMarks]

/-- What a decided status leaves of events and transactions: nothing comes back to life. -/
structure Endures (s t : State) : Prop where
  txns : ∀ x ∈ t.txns, s.knows x
  bits : s.bitsIn t

theorem Waning.endures (h : Waning s t) : Endures s t := ⟨h.txns, h.bits⟩

theorem Endures.knows (h : Endures s t) {x : Txn} (hx : t.knows x) : s.knows x := by
  obtain hnone | ⟨y, hy, hpurpose, hdrop, hvoid⟩ := hx
  · exact .inl hnone
  · obtain hnone | ⟨z, hz, hzy, hdropz, hvoidz⟩ := h.txns y hy
    · exact .inl (hpurpose ▸ hnone)
    · exact .inr ⟨z, hz, hzy.trans hpurpose, hdrop ∘ hdropz, hvoid ∘ hvoidz⟩

theorem Endures.trans (a : Endures s t) (b : Endures t u) : Endures s u :=
  ⟨fun x hx => a.knows (b.txns x hx), fun n hn h => b.bits n hn (a.bits n hn h)⟩

/-- A change of channels that leaves their events. -/
theorem Endures.modChan (h : Endures s t) {g : Chan → Chan} (hg : ∀ c, (g c).evt = c.evt := by exact fun _ => rfl) :
    Endures s (t.modChan p g) := by
  refine h.trans ⟨fun _ => knows_of_mem, bitsIn_of (hc := fun q => ?_)⟩
  rw [State.modChan_chan]
  split
  · next hq =>
    subst hq
    exact hg _
  · rfl

theorem Endures.foldl {α : Type} {f : State → α → State} (l : List α) (h : Endures s t)
    (hf : ∀ u x, Endures s u → Endures s (f u x)) : Endures s (l.foldl f t) := by
  induction l generalizing t with
  | nil => exact h
  | cons a r ih => exact ih (hf t a h)

theorem Endures.abandonWork (h : Endures s t) (p : Nat) (w : Work) : Endures s (t.abandonWork p true w) :=
  Endures.modChan (t := t.severed p w) (h.trans (severed_waning t p w).endures)
    (g := fun c => { c with started := updWork w.serial Work.forsaken c.started })

theorem Endures.failWork (h : Endures s t) (p n : Nat) (st : Status) : Endures s (t.failWork p n st) := by
  obtain hsame | ⟨w, hw, hlive, hst⟩ := failWork_cases t p n st
  · rw [hsame]
    exact h
  · rw [failWork_eq hw hlive hst]
    have hverdict : Endures s (t.modWork p n fun x => { x with verdict := some st }) := h.modChan
    have hcut : Endures s (((t.modWork p n fun x => { x with verdict := some st }).cutWork p w).dropReqs p n) :=
      hverdict.trans (((Waning.refl _).cutWork p w).abandonReqs _).endures
    have hfelled : Endures s (t.felled p n w st) := hcut.foldl _ fun _ x k => k.abandonWork p x
    exact (hfelled.modChan (g := Chan.halting)).trans ((Waning.refl _).raise _).endures

theorem Endures.failPoint (h : Endures s t) (p : Nat) (x : HaltPoint) : Endures s (t.failPoint p x) := by
  unfold State.failPoint
  dsimp only
  split
  · exact h
  · exact (h.modChan).trans ((Waning.refl _).raise _).endures

theorem failWork_fresh (s : State) (p n : Nat) (st : Status) : ((s.failWork p n st).chan p).fresh = (s.chan p).fresh := by
  obtain h | ⟨w, hw, hlive, hst⟩ := failWork_cases s p n st
  · rw [h]
  · refine (congrArg (fun x => x.1.fresh) (failWork_core hw hlive hst st p)).trans ?_
    unfold State.failing State.modWork
    rw [State.modChan_chan, if_pos rfl, State.modChan_chan, if_pos rfl]
    rfl

/-- The record of a stale edge (R271). -/
def State.staleRecord (s : State) (p : Nat) (w : Work) (cause : Nat) : FreshRegs :=
  { cause := cause, negative := decide (cause = 2), staleSeen := true
    staleCount := satAdd 16 (s.chan p).fresh.staleCount 1
    age := BitVec.ofNat 32 (if cause = 1 ∨ cause = 2 then min (s.age w).natAbs 0xFFFFFFFF else 0) }

/-- The state with the record of a stale edge and its work marked. -/
def State.judgedStale (s : State) (p : Nat) (w : Work) (cause : Nat) : State :=
  (s.modChan p fun c => { c with fresh := s.staleRecord p w cause }).modWork p w.serial fun x => { x with staleDone := true }

theorem staleEdge_eq {cause : Nat} (h : s.staleCause p w = some cause) : s.staleEdge p w
    = ((((s.judgedStale p w cause).failWork p w.serial .stale).raise (chanEvent p 6)).chanCause p 0).raise 1408 := by
  unfold State.staleEdge
  rw [h]
  rfl

theorem staleEdge_spec {cause : Nat} (hp : p < 128) (hw : s.work? p w.serial = some w)
    (hcause : s.staleCause p w = some cause) :
    ((s.staleEdge p w).chan p).fresh = s.staleRecord p w cause
    ∧ ((s.staleEdge p w).work? p w.serial).map Work.staleDone = some true
    ∧ (s.staleEdge p w).isPending (chanEvent p 6) = true ∧ (s.staleEdge p w).isPending 1408 = true
    ∧ (w.live = true → (s.chan p).state ≠ .aborting →
        ((s.staleEdge p w).work? p w.serial).bind Work.verdict = some .stale) := by
  have hlt := chanEvent_lt hp 6 (by decide)
  have hwork : (s.judgedStale p w cause).work? p w.serial = some { w with staleDone := true } := by
    refine modWork_work? (g := fun x => { x with staleDone := true }) ?_ rfl
    rw [State.work?, State.modChan_chan, if_pos rfl]
    exact hw
  have hmarks : (s.staleEdge p w).staleMarks p = (s.judgedStale p w cause).staleMarks p := by
    rw [staleEdge_eq hcause, ((((Waning.refl _).raise (chanEvent p 6)).chanCause p 0).raise 1408).staleMarks,
      failWork_staleMarks]
  refine ⟨?_, ?_, ?_, ?_, fun hlive hst => verdict_of_core (staleEdge_verdict hw hlive hst (by rw [hcause]; rfl))⟩
  · rw [staleEdge_eq hcause]
    refine (congrArg (fun x => x.1.fresh) ((((SameCore.refl _).raise (chanEvent p 6)).chanCause p 0).raise 1408 p)).trans ?_
    refine (failWork_fresh _ p _ _).trans ?_
    unfold State.judgedStale State.modWork
    rw [State.modChan_chan, if_pos rfl, State.modChan_chan, if_pos rfl]
  · have hfind : ∀ v : State, (v.work? p w.serial).map Work.staleMark
        = (v.staleMarks p).find? fun m => m.1 == w.serial := fun v => by
      rw [State.work?, State.staleMarks, List.find?_map]
      rfl
    have hfound := (hfind (s.staleEdge p w)).trans ((congrArg _ hmarks).trans (hfind _).symm)
    rw [hwork] at hfound
    obtain ⟨y, hy, hyw⟩ := Option.map_eq_some_iff.1 hfound
    rw [hy]
    exact congrArg some (congrArg Prod.snd hyw)
  · rw [staleEdge_eq hcause]
    refine (((Waning.refl _).chanCause p 0).raise 1408).bits _ hlt ?_
    rw [raise_isPending hlt hlt, decide_eq_true rfl, Bool.true_or]
  · rw [staleEdge_eq hcause, raise_isPending (by decide) (by decide), decide_eq_true rfl, Bool.true_or]

/-! ### The stall watchdog -/

theorem setCause_now (s : State) (b : Nat) : (s.setCause b).now = s.now := by
  cases h : s.safety.asserted with
  | true => rw [setCause_of_asserted h]
  | false =>
    unfold State.setCause
    dsimp only
    rw [if_neg (by rw [h]; decide)]
    obtain ⟨g, hlog⟩ := log_aside (State.raiseUp _ 1416) 0x10 0xFF
      (leBytes 4 (s.safety.cause ||| BitVec.ofNat 16 (2 ^ b)).toNat)
    exact hlog.now.trans (Aside.raiseUp (Aside.refl _) 1416).now

theorem setCause_stallCnt (s : State) (b : Nat) : (s.setCause b).safety.stallCnt = s.safety.stallCnt := by
  cases h : s.safety.asserted with
  | true => rw [setCause_of_asserted h]
  | false => rw [setCause_safety_of_released h]

theorem chanCause_keeps (s : State) (p b : Nat) : (s.chanCause p b).now = s.now
    ∧ (s.chanCause p b).safety.stallCnt = s.safety.stallCnt := by
  unfold State.chanCause
  split
  · split
    · exact ⟨setCause_now s b, setCause_stallCnt s b⟩
    · exact ⟨rfl, rfl⟩
  · exact ⟨rfl, rfl⟩

theorem control_now (h : t.control = s.control) : t.now = s.now :=
  (congrArg State.now h : t.control.now = s.control.now)

/-- The state at the watchdog's edge, with its channel's transactions dropped. -/
def State.stalling (s : State) (p from_ : Nat) : State :=
  (s.reachRefclk (from_ + s.safety.stallLimit)).dropWhere fun x => x.purpose.pch? == some p

/-- The channel's transactions voided, and the stall counted. -/
def State.stalled (s : State) (p from_ : Nat) : State :=
  { s.stalling p from_ with
    safety := { (s.stalling p from_).safety with stallCnt := satAdd 32 (s.stalling p from_).safety.stallCnt 1 }
    txns := mapIf (fun x => x.purpose.pch? == some p) (fun x => { x with voided := true }) (s.stalling p from_).txns }

/-- What the stall of a channel without work ends: its fetch. -/
def State.stallIdle (u s : State) (p : Nat) : State :=
  if s.fetching p then u.failPoint p { cause := .fetch, status := .stall, idx := (s.chan p).ring.f } else u

/-- The events of a stall. -/
def State.stallTold (u : State) (p : Nat) : State :=
  (((u.modChan p fun c => { c with watch := none }).raise (chanEvent p 7)).chanCause p 5).raise 1413

theorem exec_stall_busy {from_ : Nat} (hwatch : (s.chan p).watch = some from_) {rest : List Work}
    (hs : (s.chan p).started = w :: rest) : exec (.stallWatchdogFire p) s
      = .next (s.settle (((s.stalled p from_).failWork p w.serial .stall).stallTold p)) := by
  show execStallWatchdogFire p s = _
  unfold execStallWatchdogFire
  rw [hwatch, hs]
  rfl

theorem exec_stall_idle {from_ : Nat} (hwatch : (s.chan p).watch = some from_) (hs : (s.chan p).started = []) :
    exec (.stallWatchdogFire p) s = .next (s.settle (((s.stalled p from_).stallIdle s p).stallTold p)) := by
  show execStallWatchdogFire p s = _
  unfold execStallWatchdogFire
  rw [hwatch, hs]
  rfl

theorem stalling_control (s : State) (p from_ : Nat) :
    (s.stalling p from_).control = (s.reachRefclk (from_ + s.safety.stallLimit)).control :=
  ((Cut.refl _).dropWhere _).control

/-- What every stall leaves, whatever the channel fails with it. -/
theorem stall_spec {from_ : Nat} (hp : p < 128) (hlive : Endures (s.stalled p from_) u)
    (hcontrol : u.control = (s.stalled p from_).control) :
    s.now.refclk ≤ (s.settle (u.stallTold p)).now.refclk
    ∧ from_ + s.safety.stallLimit ≤ (s.settle (u.stallTold p)).now.refclk
    ∧ (s.settle (u.stallTold p)).safety.stallCnt = satAdd 32 s.safety.stallCnt 1
    ∧ (s.settle (u.stallTold p)).isPending (chanEvent p 7) = true ∧ (s.settle (u.stallTold p)).isPending 1413 = true
    ∧ ∀ y ∈ (s.settle (u.stallTold p)).txns, y.purpose.pch? = some p → y.voided = true := by
  have hlt := chanEvent_lt hp 7 (by decide)
  have hstalling := stalling_control s p from_
  have hnow : (s.settle (u.stallTold p)).now = (s.reachRefclk (from_ + s.safety.stallLimit)).now := by
    rw [control_now (settle_control s _), State.stallTold, control_now (raise_control _ 1413), (chanCause_keeps _ p 5).1,
      control_now (raise_control _ (chanEvent p 7))]
    exact (control_now hcontrol).trans (show (s.stalling p from_).now = _ from control_now hstalling)
  have hcnt : (s.settle (u.stallTold p)).safety.stallCnt = satAdd 32 s.safety.stallCnt 1 := by
    rw [control_safety (settle_control s _), State.stallTold, control_safety (raise_control _ 1413),
      (chanCause_keeps _ p 5).2, control_safety (raise_control _ (chanEvent p 7))]
    show u.safety.stallCnt = _
    rw [control_safety hcontrol]
    show satAdd 32 (s.stalling p from_).safety.stallCnt 1 = _
    rw [control_safety hstalling]
    rfl
  have hsettle := fun v : State => ((Waning.refl v).settle s).bits
  refine ⟨?_, ?_, hcnt, ?_, ?_, fun y hy hpch => ?_⟩
  · rw [hnow]
    exact Nat.le_max_left _ _
  · rw [hnow]
    exact Nat.le_max_right _ _
  · refine hsettle _ _ hlt ((((Waning.refl _).chanCause p 5).raise 1413).bits _ hlt ?_)
    rw [raise_isPending hlt hlt, decide_eq_true rfl, Bool.true_or]
  · refine hsettle _ _ (by decide) ?_
    unfold State.stallTold
    rw [raise_isPending (by decide) (by decide), decide_eq_true rfl, Bool.true_or]
  · have htold : Endures u (s.settle (u.stallTold p)) :=
      ((((Waning.refl u).modChan (p := p) (g := fun c => { c with watch := none })).raise (chanEvent p 7)).chanCause p 5
        |>.raise 1413 |>.settle s).endures
    obtain hnone | ⟨z, hz, hzy, -, hvoid⟩ := (hlive.trans htold).txns y hy
    · rw [hpch] at hnone
      cases hnone
    · obtain ⟨x, -, hx⟩ := List.mem_map.1 hz
      refine hvoid ?_
      subst hx
      split
      · rfl
      · next hno =>
        rw [if_neg hno] at hzy
        refine absurd ?_ hno
        dsimp only
        rw [hzy, hpch, beq_self_eq_true]

theorem freeTxn_chans (s : State) (x : Txn) : (s.freeTxn x).chans = s.chans := by
  unfold State.freeTxn
  split
  · exact freeLane_chans _ _ _ _
  · exact freeLane_chans _ _ _ _
  · exact freeLane_chans _ _ _ _
  · rfl

theorem dropWhere_chans (s : State) (m : Txn → Bool) : (s.dropWhere m).chans = s.chans :=
  foldl_proj State.chans freeTxn_chans _ s

theorem stalled_chan (s : State) (p from_ q : Nat) : (s.stalled p from_).chan q = s.chan q :=
  congrArg (look ({} : Chan) · q) (dropWhere_chans _ _)

theorem stallTold_core (s u : State) (p : Nat) : SameCore u (s.settle (u.stallTold p)) :=
  ((((SameCore.refl u).modChan (p := p) (g := fun c => { c with watch := none })).raise (chanEvent p 7)).chanCause p 5
    |>.raise 1413).calm ((Calm.refl _).settle s)

theorem stall_verdict {from_ : Nat} (hw : s.work? p w.serial = some w) (hlive : w.live = true)
    (hst : (s.chan p).state ≠ .aborting) :
    ((s.settle (((s.stalled p from_).failWork p w.serial .stall).stallTold p)).work? p w.serial).bind Work.verdict
      = some .stall := by
  refine verdict_of_core (n := w.serial) ?_
  rw [work?_core (stallTold_core s _ p)]
  refine failWork_verdict (w := w) ?_ hlive ?_ .stall
  · rw [State.work?, stalled_chan]
    exact hw
  · rw [stalled_chan]
    exact hst

theorem stalled_endures (s : State) (p from_ : Nat) : Endures (s.stalled p from_) (s.stalled p from_) :=
  (Waning.refl _).endures

/-! ### Exits -/

section
variable {rest : List Work} (hs : (s.chan p).started = w :: rest)
  (hrun : (s.chan p).state = .running ∨ (s.chan p).state = .stopping) (hpass : w.pass = false)
include hs hrun hpass

/-- DESCRIPTOR_COMPLETE of an executing channel. -/
theorem exec_descriptorComplete : exec (.descriptorComplete p) s = .next (s.settle (
    if s.chainExhausted p w = true then
      if s.isStale p w = true then s.staleEdge p w else s.failWork p w.serial .indexRange
    else if s.finished p w = true then if s.isStale p w = true then s.staleEdge p w else s.completeHead p w
    else s)) := by
  show execDescriptorComplete p s = _
  unfold execDescriptorComplete
  rw [hs]
  dsimp only
  rw [if_neg (by rcases hrun with h | h <;> simp [Chan.executes, h, hpass])]
  by_cases hex : s.chainExhausted p w = true
  · rw [if_pos hex, if_pos hex]
    rfl
  · rw [if_neg hex, if_neg hex]
    by_cases hfin : s.finished p w = true
    · rw [if_pos hfin, if_pos hfin]
      rfl
    · rw [if_neg hfin, if_neg hfin]
      rfl

end

theorem exec_staleEdge (h : (s.chan p).started.find? (fun w => s.isStale p w) = some w) :
    exec (.staleEdge p) s = .next (s.settle (s.staleEdge p w)) := by
  show execStaleEdge p s = _
  unfold execStaleEdge
  rw [h]
  rfl

/-- The check of the next segment of a piece of work (R278). -/
theorem exec_segmentCheck {idx : Nat} (hfind : (s.chan p).started.find? (fun w => !w.abandoned && w.idx == idx) = some w)
    (hmore : w.segOk < w.segments s.member) (hready : w.segmentReady w.segOk = true) (r f : W32) :
    exec (.segmentCheck p idx w.segOk r f) s = .next (s.settle (
      if w.segReadCrc w.segOk ^^^ r = w.segWriteCrc w.segOk ^^^ f then
        s.modWork p w.serial fun x => { x with segOk := w.segOk + 1 }
      else ((({ s.modWork p w.serial (fun x => { x with segOk := w.segOk + 1 }) with
        safety := { s.safety with segStat := satAdd 32 s.safety.segStat 1 } } : State).failWork p w.serial
          .crcMismatch).chanCause p 1).raise 1409)) := by
  show execSegmentCheck p idx w.segOk r f s = _
  unfold execSegmentCheck
  rw [hfind]
  dsimp only
  rw [if_pos ⟨rfl, hmore, hready⟩]
  split
  · rfl
  · rfl

theorem exec_packetRelease {port serial : Nat} (hheld : (s.port port).heldPacket = some (serial, k))
    (hwork : s.workOf serial = some (p, w)) (hlive : w.live = true) (hchecked : w.packetChecked s.member k = true) :
    exec (.packetRelease port) s = .next (s.settle (if s.isStale p w = true then s.staleEdge p w
      else s.modPort port fun x => { x with released := x.released ++ [(serial, k)] })) := by
  show execPacketRelease port s = _
  unfold execPacketRelease
  rw [hheld]
  dsimp only
  rw [hwork]
  dsimp only
  rw [if_neg (by rw [hlive, hchecked]; decide)]
  split
  · rfl
  · rfl

theorem head_work? {rest : List Work} (hs : (s.chan p).started = w :: rest) : s.work? p w.serial = some w := by
  rw [State.work?, hs, List.find?_cons, beq_self_eq_true]

theorem writes_iff (c : Chan) : c.writes false = true
    ↔ c.cpl.due = true ∨ c.cfg.coalCount ≤ c.cpl.uncovered + 1 ∨ c.cfg.coalTime = 0 := by
  simp only [Chan.writes, Bool.or_false, Bool.or_eq_true, decide_eq_true_iff, or_assoc]

/-- Settles O35: each end of work by its own equation; the relations `Waning` and `Endures` carry what a decided status and
a stall leave of later works and transactions through the raises and the settling that follow. -/
theorem workEnds : Obligations.WorkEnds := by
  unfold Obligations.WorkEnds
  intro s p
  refine ⟨fun w rest hs hrun hpass => ?_, fun w rest hs hop => ?_, fun w rest hs hop => ?_,
    fun w rest hs hpass hfin => ⟨fun hrun => passComplete_running hrun hs hpass hfin,
      fun hstop => passComplete_stopping hstop hs hpass hfin⟩,
    fun w hfind => exec_staleEdge hfind, staleCause_iff s p, fun w cause hp hw hcause => staleEdge_spec hp hw hcause,
    fun n st w hw => ⟨fun h => failWork_idle hw h st, fun hp hst hlive => ?_⟩,
    fun idx w r f hfind hmore hready => ⟨fun heq => ?_, fun hne => ?_⟩,
    fun port serial k w hheld hwork hlive hchecked => ⟨fun hfresh => ?_, fun hstale => ?_⟩, fun hnone => ?_,
    fun from_ hp hwatch => ?_⟩
  · have hexec := exec_descriptorComplete hs hrun hpass
    refine ⟨fun hmore hfin hfresh => hexec.trans ?_, fun hex hfresh => hexec.trans ?_, fun hend hstale => hexec.trans ?_⟩
    · rw [hmore, hfin, hfresh]
      rfl
    · rw [hex, hfresh]
      rfl
    · rw [hstale, if_pos rfl, if_pos rfl]
      split
      · rfl
      · next hmore => rw [if_pos (hend.resolve_left hmore)]
  · have hadv := advanced_chan s p w
    have hadvanced : (s.chan p).advanced.started = rest := congrArg (List.drop 1) hs
    obtain ⟨y, hy⟩ := addReport_keeps (s.advanced p w) p w.okReport false
    have hwrites := writes_iff (s.chan p).advanced
    have hnow : (s.advanced p w).now = s.now := dropSpace_now s p w
    rw [hadv] at hy
    dsimp only
    rw [completeHead_plain hop]
    refine ⟨rfl, rfl, ?_, ?_, fun hm => ?_, fun hm hw hout => ?_, fun hm hno => ?_⟩
    · rw [hy]
      exact hadvanced
    · rw [hy]
      rfl
    · rw [addReport_record (by rw [hadv]; exact hm), hadv]
      rfl
    · rw [addReport_writes (by rw [hadv]; exact hm) (by rw [hadv]; exact hwrites.2 hw) (by rw [hadv]; exact hout), hadv,
        State.reported, hadv]
      exact ⟨rfl, rfl, rfl, rfl, rfl⟩
    · rw [addReport_waits (by rw [hadv]; exact hm)
        (by rw [hadv]; exact Bool.eq_false_iff.2 fun h => hno (hwrites.1 h)), State.reported, hadv, hnow]
      exact ⟨rfl, rfl, rfl, rfl⟩
  · refine ⟨s.advanced p w, completeHead_signal hop, dropSpace_fns s p w, ?_⟩
    rw [advanced_chan, Chan.advanced, hs]
    rfl
  · obtain ⟨hverdict, hpend, hsignal, hgob, hevent, hunled, hlater⟩ := failWork_spec hw hp hlive hst st
    exact ⟨hverdict, hpend, hsignal, hgob, hevent, hunled, fun x hx => ⟨(hlater x hx).gone, (hlater x hx).unled⟩⟩
  · rw [exec_segmentCheck hfind hmore hready, if_pos heq]
  · rw [exec_segmentCheck hfind hmore hready, if_neg hne]
  · rw [exec_packetRelease hheld hwork hlive hchecked, hfresh]
    rfl
  · rw [exec_packetRelease hheld hwork hlive hchecked, hstale]
    rfl
  · show execStallWatchdogFire p s = _
    unfold execStallWatchdogFire
    rw [hnone]
    rfl
  · cases hs : (s.chan p).started with
    | nil =>
      have hend : Endures (s.stalled p from_) ((s.stalled p from_).stallIdle s p)
          ∧ ((s.stalled p from_).stallIdle s p).control = (s.stalled p from_).control := by
        unfold State.stallIdle
        split
        · exact ⟨(stalled_endures s p from_).failPoint p _, failPoint_control _ _ _⟩
        · exact ⟨stalled_endures s p from_, rfl⟩
      obtain ⟨hmono, hreach, hcnt, hown, hall, hvoid⟩ := stall_spec hp hend.1 hend.2
      exact ⟨_, exec_stall_idle hwatch hs, hmono, hreach, hcnt, hown, hall, hvoid, fun w rest h => nomatch h⟩
    | cons w rest =>
      obtain ⟨hmono, hreach, hcnt, hown, hall, hvoid⟩ := stall_spec hp
        ((stalled_endures s p from_).failWork p w.serial .stall) (failWork_control _ _ _ _)
      refine ⟨_, exec_stall_busy hwatch hs, hmono, hreach, hcnt, hown, hall, hvoid, fun w' rest' h hlive hst => ?_⟩
      obtain ⟨rfl, rfl⟩ := List.cons.inj h
      exact stall_verdict (head_work? hs) hlive hst

end Sys2Proof.Machine
end

section
/-! Reports, stops, aborts and halts (R87 to R94, R162 to R167, R304): index writes and records, their responses, and what
the ends of a stop, an abort and a halt leave of the channel. -/

namespace Sys2Proof.Machine

variable {s t u : State} {p n k : Nat} {w : Work} {r : Report}

/-! ### Index writes and records -/

theorem exec_coalTimeExpiry {at_ : Nat} (h : (s.chan p).cpl.deadline = some at_) : exec (.coalTimeExpiry p) s
    = .next (((s.reachCclk at_).modChan p fun y => { y with cpl := { y.cpl with due := true } }).kickIndex p) := by
  show execCoalTimeExpiry p s = _
  unfold execCoalTimeExpiry
  rw [h]

theorem kickIndex_eq (hm : (s.chan p).cfg.cplRingMode = false) (hdue : (s.chan p).cpl.due = true)
    (hout : (s.chan p).cpl.outstanding = false) : s.kickIndex p
      = (s.setChan p { s.chan p with cpl := (s.chan p).cpl.written (s.chan p).ring.h }).post
          (s.cplTxn p (s.chan p).cfg.cplAddr (s.chan p).cfg.cplCoherent
            (leBytes 4 (idxLayout (s.chan p).ring.order (s.chan p).ring.h))) :=
  if_pos (by rw [hm, hdue, hout]; rfl)

/-- A stop, an abort or a halt without a completion of its own writes the index at once. -/
theorem flushIndex_writes (hring : (s.chan p).cfg.ringMode = true) (hm : (s.chan p).cfg.cplRingMode = false)
    (hout : (s.chan p).cpl.outstanding = false) (r : Report) :
    ((s.flushIndex p r).chan p).cpl.flying = (s.chan p).cpl.queue ++ [r]
    ∧ ((s.flushIndex p r).chan p).cpl.outstanding = true
    ∧ ((s.flushIndex p r).chan p).cpl.flyingIdx = (s.chan p).ring.h := by
  unfold State.flushIndex
  rw [if_pos (by rw [hring, hm]; rfl), kickIndex_writes]
  · rw [State.modChan_chan, if_pos rfl]
    exact ⟨rfl, rfl, rfl⟩
  · rw [State.modChan_chan, if_pos rfl]
    exact hm
  · rw [State.modChan_chan, if_pos rfl]
  · rw [State.modChan_chan, if_pos rfl]
    exact hout

theorem modRing_ring (s : State) (f k : Nat) (g : CplRing → CplRing) :
    look {} ((s.modRing f k g).fn f).rings k = g (look {} (s.fn f).rings k) := by
  unfold State.modRing
  rw [State.modFn_fn, if_pos rfl]
  exact look_put_same _ _ _ _

section
variable {rest : List Report} (hqueue : (s.chan p).cpl.queue = r :: rest) (hm : (s.chan p).cfg.cplRingMode = true)
  (hout : (s.chan p).cpl.outstanding = false)
  (hbound : (look {} (s.fn (s.chFn p)).rings (s.chan p).cfg.cplRing).bound = true)
include hqueue hm hout hbound

/-- RECORD_ALLOCATE of a bound ring: the record waits on a full ring, else it is written. -/
theorem exec_recordAllocate : exec (.recordAllocate p) s = .next (
    if (look {} (s.fn (s.chFn p)).rings (s.chan p).cfg.cplRing).full = true then
      s.waitRecord p (s.chFn p) (s.chan p).cfg.cplRing
    else s.writeRecord p (s.chFn p) (s.chan p).cfg.cplRing r rest) := by
  show execRecordAllocate p s = _
  unfold execRecordAllocate
  dsimp only
  rw [hqueue]
  dsimp only
  rw [if_neg (by rw [hm, hout, hbound]; decide)]
  split
  · rfl
  · rfl

end

theorem full_iff {x : CplRing} (h : x.bound = true) : x.full = true ↔ ringCount x.order x.head x.producer = 2 ^ x.order := by
  rw [CplRing.full, h, Bool.true_and, beq_iff_eq]

/-! ### Responses of completion writes -/

section
variable {port : Nat} {axid : BitVec 8} {x : Txn} (ha : s.answered port axid true = some x)
  (hp : x.purpose = .completion p) (hphase : x.phase = .issued)
include ha hp hphase

theorem exec_completionWriteResponse (resp : Resp) : exec (.completionWriteResponse port axid resp) s = .next (s.settle (
    if resp.isError = true then s.burstFailed x else ((s.delTxn x.id).recovered x).completionDone p)) := by
  show execCompletionWriteResponse port axid resp s = _
  unfold execCompletionWriteResponse
  rw [ha]
  dsimp only
  rw [hp]
  dsimp only
  rw [if_neg (by rw [hphase]; nofun)]
  split
  · rfl
  · rfl

end

theorem SameCore.raiseSignal (h : SameCore s t) (f k : Nat) : SameCore s (t.raiseSignal f k) :=
  h.calm ((Calm.refl t).raiseSignal f k)

/-- The DONE of a report and its signal. -/
def State.reportTold (s : State) (p : Nat) (r : Report) : State :=
  let t := if r.done then s.raise (chanEvent p 1) else s
  match r.signal with
  | some k => t.raiseSignal (s.chFn p) k
  | none => t

theorem reportTold_core (s : State) (p : Nat) (r : Report) : SameCore s (s.reportTold p r) := by
  have hdone := SameCore.ite (c := r.done = true) ((SameCore.refl s).raise (chanEvent p 1)) (SameCore.refl s)
  unfold State.reportTold
  dsimp only
  split
  · exact hdone.raiseSignal _ _
  · exact hdone

theorem reportTold_fns (s : State) (p : Nat) (r : Report) : FnKept s (s.reportTold p r) := by
  have hdone := FnKept.ite (d := r.done = true) ((FnKept.refl s).raise (chanEvent p 1)) (FnKept.refl s)
  unfold State.reportTold
  dsimp only
  split
  · exact fun q => (raiseSignal_fn_core _ _ q).trans (hdone q)
  · exact hdone

theorem reportTold_done (hp : p < 128) (h : r.done = true) : (s.reportTold p r).isPending (chanEvent p 1) = true := by
  have hlt := chanEvent_lt hp 1 (by decide)
  have hraise : (s.raise (chanEvent p 1)).isPending (chanEvent p 1) = true := by
    rw [raise_isPending hlt hlt, decide_eq_true rfl, Bool.true_or]
  unfold State.reportTold
  dsimp only
  rw [if_pos h]
  split
  · rw [raiseSignal_isPending]
    exact hraise
  · exact hraise

/-- The channel with the status registers that a report of a stop or an abort loads. -/
def Chan.reportLoaded (c : Chan) (r : Report) (cause : Cause) : Chan :=
  c.loadStop cause (c.idxReg r.idx) r.status r.residue

/-- The status registers that a report loads, with its event. -/
def State.reportLoads (s : State) (p : Nat) (r : Report) : Option Cause → State
  | some .lehr => (s.modChan p fun c => c.reportLoaded r .lehr).raise (chanEvent p 4)
  | some .abort => (s.modChan p fun c => c.reportLoaded r .abort).raise (chanEvent p 5)
  | some .function => s.raise (chanEvent p 5)
  | _ => s

theorem reportDone_eq (s : State) (p : Nat) (r : Report) :
    s.reportDone p r = (s.reportTold p r).reportLoads p r r.loads := by
  unfold State.reportDone State.reportLoads State.reportTold
  dsimp only
  rcases r.loads with _ | (_ | _) <;> rfl

/-- A stop's report loads the status registers and raises its event. -/
theorem reportLoads_stop (hp : p < 128) (hk : k < 8) (r : Report) (cause : Cause) :
    let u := (s.modChan p fun c => c.reportLoaded r cause).raise (chanEvent p k)
    (u.chan p).cpl = (s.chan p).cpl ∧ (u.chan p).cfg = (s.chan p).cfg
    ∧ (u.chan p).halt = { (s.chan p).halt with
        stopSeen := true, cause := cause, status := r.status, idx := idxLayout (s.chan p).ring.order r.idx
        residue := r.residue, crc := 0 }
    ∧ u.isPending (chanEvent p k) = true := by
  have hcore : ((((s.modChan p fun c => c.reportLoaded r cause).raise (chanEvent p k))).chan p).core
      = ((s.chan p).reportLoaded r cause).core := by
    rw [((SameCore.refl _).raise (chanEvent p k)) p, State.modChan_chan, if_pos rfl]
  have hlt := chanEvent_lt hp k hk
  refine ⟨congrArg (fun x => x.1.cpl) hcore, congrArg (fun x => x.1.cfg) hcore, congrArg (fun x => x.1.halt) hcore, ?_⟩
  rw [raise_isPending hlt hlt, decide_eq_true rfl, Bool.true_or]

theorem reportLoads_cpl (hp : p < 128) (s : State) (r : Report) (o : Option Cause) :
    ((s.reportLoads p r o).chan p).cpl = (s.chan p).cpl ∧ ((s.reportLoads p r o).chan p).cfg = (s.chan p).cfg := by
  unfold State.reportLoads
  split
  · obtain ⟨hcpl, hcfg, -⟩ := reportLoads_stop (s := s) hp (k := 4) (by decide) r .lehr
    exact ⟨hcpl, hcfg⟩
  · obtain ⟨hcpl, hcfg, -⟩ := reportLoads_stop (s := s) hp (k := 5) (by decide) r .abort
    exact ⟨hcpl, hcfg⟩
  · have hraise := ((SameCore.refl s).raise (chanEvent p 5)) p
    exact ⟨congrArg (fun x => x.1.cpl) hraise, congrArg (fun x => x.1.cfg) hraise⟩
  · exact ⟨rfl, rfl⟩

theorem reportLoads_waning (s : State) (p : Nat) (r : Report) (o : Option Cause) : Waning s (s.reportLoads p r o) := by
  unfold State.reportLoads
  split
  · exact (Waning.refl s).modChan.raise _
  · exact (Waning.refl s).modChan.raise _
  · exact (Waning.refl s).raise _
  · exact Waning.refl s

theorem reportLoads_fns (s : State) (p : Nat) (r : Report) (o : Option Cause) : FnKept s (s.reportLoads p r o) := by
  unfold State.reportLoads
  split
  · exact ((FnKept.refl s).modChan p _).raise _
  · exact ((FnKept.refl s).modChan p _).raise _
  · exact (FnKept.refl s).raise _
  · exact FnKept.refl s

/-- The ring with the acknowledged record, when the channel writes records. -/
def State.ringAcked (s : State) (p : Nat) : State :=
  match (s.chan p).cpl.flyingSlot with
  | some v =>
    if (s.chan p).cfg.cplRingMode then s.modRing (s.chFn p) (s.chan p).cfg.cplRing fun x => x.ack v else s
  | none => s

/-- The completion registers without a write in flight. -/
def CplState.landed (c : CplState) : CplState := { c with flying := [], flyingSlot := none, outstanding := false }

/-- The state with the completion write of the channel off its entry. -/
def State.cplLanded (s : State) (p : Nat) : State :=
  (s.ringAcked p).setChan p { s.chan p with cpl := (s.chan p).cpl.landed }

theorem ringAcked_chans (s : State) (p : Nat) : (s.ringAcked p).chans = s.chans := by
  unfold State.ringAcked
  split
  · split
    · rfl
    · rfl
  · rfl

theorem completionDone_eq (s : State) (p : Nat) : s.completionDone p
    = ((s.chan p).cpl.flying.foldl (fun t r => t.reportDone p r) (s.cplLanded p)).kickIndex p := by
  have hchan : (s.ringAcked p).modChan p (fun x => { x with cpl := x.cpl.landed }) = s.cplLanded p := by
    unfold State.cplLanded State.modChan
    rw [State.chan, ringAcked_chans]
    rfl
  rw [← hchan]
  rfl

/-- No index write is due of a channel that writes records, or without a deadline that has passed. -/
theorem kickIndex_idle (h : (s.chan p).cfg.cplRingMode = true ∨ (s.chan p).cpl.due = false) : s.kickIndex p = s :=
  if_neg (by rcases h with h | h <;> simp [h])

theorem completionDone_one (hp : p < 128) (hr : (s.chan p).cpl.flying = [r])
    (hm : (s.chan p).cfg.cplRingMode = true ∨ (s.chan p).cpl.due = false) :
    s.completionDone p = ((s.cplLanded p).reportTold p r).reportLoads p r r.loads
    ∧ ((s.completionDone p).chan p).cpl = (s.chan p).cpl.landed := by
  have hlanded : (s.cplLanded p).chan p = { s.chan p with cpl := (s.chan p).cpl.landed } := setChan_chan_same _ _ _
  have htold := reportTold_core (s.cplLanded p) p r p
  rw [hlanded] at htold
  obtain ⟨hcpl, hcfg⟩ := reportLoads_cpl hp ((s.cplLanded p).reportTold p r) r r.loads
  have hcplTold : (((s.cplLanded p).reportTold p r).chan p).cpl = (s.chan p).cpl.landed :=
    congrArg (fun x => x.1.cpl) htold
  have hcfgTold : (((s.cplLanded p).reportTold p r).chan p).cfg = (s.chan p).cfg := congrArg (fun x => x.1.cfg) htold
  have heq : s.completionDone p = ((s.cplLanded p).reportTold p r).reportLoads p r r.loads := by
    rw [completionDone_eq, hr, List.foldl_cons, List.foldl_nil, reportDone_eq]
    refine kickIndex_idle ?_
    rw [hcfg, hcpl, hcplTold, hcfgTold]
    exact hm
  exact ⟨heq, by rw [heq, hcpl, hcplTold]⟩

/-- A stop's registers after its report, whose signal and DONE leave the halt registers. -/
theorem reportTold_halt (s : State) (p : Nat) (r : Report) :
    (((s.cplLanded p).reportTold p r).chan p).halt = (s.chan p).halt
    ∧ (((s.cplLanded p).reportTold p r).chan p).ring = (s.chan p).ring := by
  have htold := reportTold_core (s.cplLanded p) p r p
  rw [show (s.cplLanded p).chan p = { s.chan p with cpl := (s.chan p).cpl.landed } from setChan_chan_same _ _ _] at htold
  exact ⟨congrArg (fun x => x.1.halt) htold, congrArg (fun x => x.1.ring) htold⟩

theorem ringAcked_ring {v : Nat} (hm : (s.chan p).cfg.cplRingMode = true) (hslot : (s.chan p).cpl.flyingSlot = some v) :
    look {} ((s.ringAcked p).fn (s.chFn p)).rings (s.chan p).cfg.cplRing
      = (look {} (s.fn (s.chFn p)).rings (s.chan p).cfg.cplRing).ack v := by
  unfold State.ringAcked
  rw [hslot]
  dsimp only
  rw [if_pos hm, modRing_ring]

/-! ### CR_TAIL -/

theorem ack_alone {x : CplRing} (hx : x.acked = []) (v : Nat) :
    (v = x.tail → x.ack v = { x with tail := ringNext x.order v })
    ∧ (v ≠ x.tail → x.ack v = { x with acked := [v] }) := by
  unfold CplRing.ack
  rw [hx]
  dsimp only [List.nil_append, List.length_singleton]
  refine ⟨fun h => ?_, fun h => ?_⟩
  · subst h
    simp [ackTail]
  · have hno : [v].contains x.tail = false := by simpa using Ne.symm h
    rw [ackTail, hno]
    rfl

end Sys2Proof.Machine
end

section
/-! The ends of stops, aborts and halts (R162, R165, R304, R309), and the statement on reports and stops. -/

namespace Sys2Proof.Machine

variable {s t u : State} {p n k : Nat} {w : Work} {r : Report}

/-! ### The channel without its entries and its works -/

/-- The channel with its accepted entries discarded, to be fetched again from H. -/
def Chan.refetching (c : Chan) : Chan :=
  { c with ring := { c.ring with accepted := [], f := c.ring.h, reReadAt := none, again := false, forced := false } }

theorem dropEntries_chan (s : State) (p : Nat) : (s.dropEntries p).chan p = (s.chan p).refetching := by
  unfold State.dropEntries State.dropFetch
  rw [State.modChan_chan, if_pos rfl, State.chan, dropWhere_chans]
  rfl

theorem clearWork_chan (s : State) (p : Nat) : (s.clearWork p).chan p = { s.chan p with started := [] } := by
  unfold State.clearWork
  dsimp only
  rw [State.modChan_chan, if_pos rfl, State.chan, foldl_proj State.chans (fun t w => dropSpace_chans t p w)]
  rfl

/-- A report that waits for its write, or for its record. -/
theorem addReport_queue (h : (s.chan p).cpl.outstanding = true ∨ (s.chan p).cfg.cplRingMode = true) (r : Report)
    (now : Bool) : ((s.addReport p r now).chan p).cpl.queue = (s.chan p).cpl.queue ++ [r] := by
  cases hm : (s.chan p).cfg.cplRingMode with
  | true => rw [addReport_record hm]
  | false =>
    have hout : (s.chan p).cpl.outstanding = true := h.resolve_right (by rw [hm]; decide)
    rw [addReport_index hm, kickIndex_waits, setChan_chan_same]
    · rfl
    · rw [setChan_chan_same]
      exact .inr hout

/-! ### The end of a lehr stop -/

/-- The channel after its lehr stop. -/
def Chan.lehrLeft (c : Chan) : Chan :=
  { c.refetching with
    state := if c.cfg.ringMode then .stopped else .idle
    stopKind := false
    stopIdx := idxLayout c.ring.order c.ring.h
    direct := { c.direct with due := false } }

def State.lehrLeft (s : State) (p : Nat) : State :=
  (s.dropEntries p).modChan p fun x =>
    { x with state := if x.cfg.ringMode then .stopped else .idle, stopKind := false, stopIdx := x.idxReg x.ring.h,
             direct := { x.direct with due := false } }

theorem lehrLeft_chan (s : State) (p : Nat) : (s.lehrLeft p).chan p = (s.chan p).lehrLeft := by
  unfold State.lehrLeft
  rw [State.modChan_chan, if_pos rfl, dropEntries_chan]
  rfl

/-- The report of the entry that a lehr stop leaves unstarted. -/
def Entry.stopReport (e : Entry) : Report :=
  { idx := e.idx, status := .stopped, residue := e.desc.total, crc := 0, done := false, signal := none
    loads := some .lehr }

theorem lehrEnd_adds {e : Entry} {rest : List Entry} (h : (s.chan p).ring.accepted = e :: rest) :
    s.lehrEnd p = (s.lehrLeft p).addReport p e.stopReport true := by
  unfold State.lehrEnd
  dsimp only
  rw [h]
  rfl

theorem lehrEnd_flushes (h : (s.chan p).ring.accepted = []) : s.lehrEnd p
    = ((s.lehrLeft p).flushIndex p (stopReport (s.chan p).ring.h .stopped 0 0)).raise (chanEvent p 4) := by
  unfold State.lehrEnd
  dsimp only
  rw [h]
  rfl

theorem lehrEnd_core (s : State) (p : Nat) :
    ∃ y, ((s.lehrEnd p).chan p).core = ({ (s.chan p).lehrLeft with cpl := y } : Chan).core := by
  have hleft := lehrLeft_chan s p
  cases h : (s.chan p).ring.accepted with
  | nil =>
    obtain ⟨y, hy⟩ := flushIndex_chan (s.lehrLeft p) p (stopReport (s.chan p).ring.h .stopped 0 0)
    refine ⟨y, ?_⟩
    rw [lehrEnd_flushes h, ((SameCore.refl _).raise (chanEvent p 4)) p, hy, hleft]
  | cons e rest =>
    obtain ⟨y, hy⟩ := addReport_keeps (s.lehrLeft p) p e.stopReport true
    refine ⟨y, ?_⟩
    rw [lehrEnd_adds h, hy, hleft]

theorem lehrEnd_spec (s : State) (p : Nat) :
    ((s.lehrEnd p).chan p).state = (if (s.chan p).cfg.ringMode = true then .stopped else .idle)
    ∧ ((s.lehrEnd p).chan p).stopKind = false
    ∧ ((s.lehrEnd p).chan p).stopIdx = idxLayout (s.chan p).ring.order (s.chan p).ring.h
    ∧ ((s.lehrEnd p).chan p).ring.f = (s.chan p).ring.h
    ∧ ((s.chan p).ring.accepted = [] → p < 128 → (s.lehrEnd p).isPending (chanEvent p 4) = true)
    ∧ ∀ e rest, (s.chan p).ring.accepted = e :: rest →
        (s.chan p).cpl.outstanding = true ∨ (s.chan p).cfg.cplRingMode = true →
        ((s.lehrEnd p).chan p).cpl.queue = (s.chan p).cpl.queue ++ [e.stopReport] := by
  obtain ⟨y, hy⟩ := lehrEnd_core s p
  refine ⟨congrArg (fun x => x.1.state) hy, congrArg (fun x => x.1.stopKind) hy, congrArg (fun x => x.1.stopIdx) hy,
    congrArg (fun x => x.1.ring.f) hy, fun h hp => ?_, fun e rest h hwait => ?_⟩
  · have hlt := chanEvent_lt hp 4 (by decide)
    rw [lehrEnd_flushes h, raise_isPending hlt hlt, decide_eq_true rfl, Bool.true_or]
  · rw [lehrEnd_adds h, addReport_queue, lehrLeft_chan]
    · rfl
    · rw [lehrLeft_chan]
      exact hwait

/-! ### The end of an abort -/

/-- The channel at the end of its abort. -/
def Chan.stoppedAt (c x : Chan) : Chan :=
  { x with state := c.abortEnd, stopKind := true, stopIdx := x.idxReg x.ring.h
           halt := { x.halt with byFunction := false } }

/-- The channel whose abort ends without started work, but for its reports. -/
def Chan.abortIdle (c x : Chan) : Chan :=
  if c.halt.byFunction then
    c.stoppedAt (x.loadHalt .function (if c.cfg.ringMode then x.idxReg x.ring.h else 0) .aborted 0 0)
  else c.stoppedAt x

/-- The channel without the works of its abort, with H past the oldest. -/
def Chan.abortCleared (c : Chan) : Chan :=
  if c.cfg.ringMode then { c with started := [], ring := { c.ring with h := ringNext c.ring.order c.ring.h } }
  else { c with started := [] }

/-- The channel whose abort ends its oldest work. -/
def Chan.abortBusy (c x : Chan) (w : Work) : Chan :=
  if c.halt.byFunction then
    { c.stoppedAt (x.loadHalt .function (if c.cfg.ringMode then x.idxReg w.idx else 0) .aborted w.residue 0) with
      lastStatus := if c.cfg.ringMode then x.lastStatus else .aborted }
  else if c.cfg.ringMode then c.stoppedAt x
  else { c.stoppedAt (x.loadStop .abort 0 .aborted w.residue) with lastStatus := .aborted }

/-- The report of the descriptor that an abort ends. -/
def Chan.abortReport (c : Chan) (w : Work) : Report :=
  { idx := w.idx, status := .aborted, residue := w.residue, crc := 0, done := false, signal := none
    loads := some (if c.halt.byFunction then .function else .abort) }

def State.abortCleared (s : State) (p : Nat) : State :=
  ((s.clearWork p).modChan p fun x =>
    if (s.chan p).cfg.ringMode then { x with ring := { x.ring with h := ringNext x.ring.order x.ring.h } } else x)
    |>.dropEntries p

theorem abortCleared_chan (s : State) (p : Nat) :
    (s.abortCleared p).chan p = (s.chan p).abortCleared.refetching := by
  unfold State.abortCleared Chan.abortCleared
  rw [dropEntries_chan, State.modChan_chan, if_pos rfl, clearWork_chan]

theorem finishAbort_idle (h : (s.chan p).started = []) : s.finishAbort p
    = (((s.dropEntries p).modChan p (s.chan p).abortIdle).flushIndex p
        (stopReport (s.chan p).ring.h .aborted 0 0)).raise (chanEvent p 5) := by
  unfold State.finishAbort
  dsimp only
  rw [h]
  rfl

theorem finishAbort_busy {rest : List Work} (h : (s.chan p).started = w :: rest) : s.finishAbort p
    = if (s.chan p).cfg.ringMode then
        ((s.abortCleared p).modChan p fun x => (s.chan p).abortBusy x w).addReport p ((s.chan p).abortReport w) true
      else ((s.abortCleared p).modChan p fun x => (s.chan p).abortBusy x w).raise (chanEvent p 5) := by
  unfold State.finishAbort
  dsimp only
  rw [h]
  rfl

/-- What the end of an abort leaves of the channel, by its state, its works and its entries. -/
theorem abortIdle_spec (c x : Chan) : (c.abortIdle x).state = c.abortEnd ∧ (c.abortIdle x).stopKind = true
    ∧ (c.abortIdle x).started = x.started ∧ (c.abortIdle x).ring = x.ring := by
  unfold Chan.abortIdle
  split <;> exact ⟨rfl, rfl, rfl, rfl⟩

theorem abortBusy_spec (c x : Chan) (w : Work) : (c.abortBusy x w).state = c.abortEnd ∧ (c.abortBusy x w).stopKind = true
    ∧ (c.abortBusy x w).started = x.started ∧ (c.abortBusy x w).ring = x.ring ∧ (c.abortBusy x w).cpl = x.cpl
    ∧ (c.abortBusy x w).cfg = x.cfg ∧ (c.cfg.ringMode = false → (c.abortBusy x w).lastStatus = .aborted) := by
  unfold Chan.abortBusy
  split
  · refine ⟨rfl, rfl, rfl, rfl, rfl, rfl, fun h => ?_⟩
    rw [h]
    rfl
  · split
    · next hring => exact ⟨rfl, rfl, rfl, rfl, rfl, rfl, fun h => absurd (h.symm.trans hring) nofun⟩
    · exact ⟨rfl, rfl, rfl, rfl, rfl, rfl, fun _ => rfl⟩

theorem abortCleared_spec (c : Chan) : c.abortCleared.refetching.started = []
    ∧ c.abortCleared.refetching.ring.accepted = [] ∧ c.abortCleared.refetching.cpl = c.cpl
    ∧ c.abortCleared.refetching.cfg = c.cfg
    ∧ (c.cfg.ringMode = true → c.abortCleared.refetching.ring.h = ringNext c.ring.order c.ring.h
      ∧ c.abortCleared.refetching.ring.f = ringNext c.ring.order c.ring.h) := by
  unfold Chan.abortCleared
  split
  · exact ⟨rfl, rfl, rfl, rfl, fun _ => ⟨rfl, rfl⟩⟩
  · next h => exact ⟨rfl, rfl, rfl, rfl, fun hring => absurd hring h⟩

theorem started_nil_of_core {c d : Chan} (h : c.core = d.core) (hd : d.started = []) : c.started = [] := by
  have hworks := congrArg Prod.snd h
  unfold Chan.core at hworks
  dsimp only at hworks
  rw [hd] at hworks
  exact List.map_eq_nil_iff.1 hworks

/-- The end of an abort of a channel without started work. -/
theorem finishAbort_idle_spec (h : (s.chan p).started = []) :
    ((s.finishAbort p).chan p).state = (s.chan p).abortEnd ∧ ((s.finishAbort p).chan p).stopKind = true
    ∧ ((s.finishAbort p).chan p).started = [] ∧ ((s.finishAbort p).chan p).ring.accepted = [] := by
  have hleft : ((s.dropEntries p).modChan p (s.chan p).abortIdle).chan p
      = (s.chan p).abortIdle (s.chan p).refetching := by
    rw [State.modChan_chan, if_pos rfl, dropEntries_chan]
  obtain ⟨y, hy⟩ := flushIndex_chan ((s.dropEntries p).modChan p (s.chan p).abortIdle) p
    (stopReport (s.chan p).ring.h .aborted 0 0)
  rw [hleft] at hy
  obtain ⟨hstate, hkind, hworks, hring⟩ := abortIdle_spec (s.chan p) (s.chan p).refetching
  have hcore := ((SameCore.refl (((s.dropEntries p).modChan p (s.chan p).abortIdle).flushIndex p
    (stopReport (s.chan p).ring.h .aborted 0 0))).raise (chanEvent p 5)) p
  rw [hy] at hcore
  rw [finishAbort_idle h]
  exact ⟨(congrArg (fun x => x.1.state) hcore).trans hstate, (congrArg (fun x => x.1.stopKind) hcore).trans hkind,
    started_nil_of_core hcore (hworks.trans h),
    (congrArg (fun x => x.1.ring.accepted) hcore).trans (congrArg Ring.accepted hring)⟩

/-- The end of an abort of a channel with started work. -/
theorem finishAbort_busy_spec {rest : List Work} (h : (s.chan p).started = w :: rest) :
    ((s.finishAbort p).chan p).state = (s.chan p).abortEnd ∧ ((s.finishAbort p).chan p).stopKind = true
    ∧ ((s.finishAbort p).chan p).started = [] ∧ ((s.finishAbort p).chan p).ring.accepted = []
    ∧ ((s.chan p).cfg.ringMode = true →
        ((s.finishAbort p).chan p).ring.h = ringNext (s.chan p).ring.order (s.chan p).ring.h
        ∧ ((s.finishAbort p).chan p).ring.f = ringNext (s.chan p).ring.order (s.chan p).ring.h
        ∧ ((s.chan p).cpl.outstanding = true ∨ (s.chan p).cfg.cplRingMode = true →
          ((s.finishAbort p).chan p).cpl.queue = (s.chan p).cpl.queue ++ [(s.chan p).abortReport w]))
    ∧ ((s.chan p).cfg.ringMode = false → ((s.finishAbort p).chan p).lastStatus = .aborted) := by
  have hleft : ((s.abortCleared p).modChan p fun x => (s.chan p).abortBusy x w).chan p
      = (s.chan p).abortBusy (s.chan p).abortCleared.refetching w := by
    rw [State.modChan_chan, if_pos rfl, abortCleared_chan]
  obtain ⟨hstate, hkind, hworks, hring, hcpl, hcfg, hlast⟩ := abortBusy_spec (s.chan p) (s.chan p).abortCleared.refetching w
  obtain ⟨hnone, haccepted, hcplLeft, hcfgLeft, hadvance⟩ := abortCleared_spec (s.chan p)
  rw [finishAbort_busy h]
  split
  · next hmode =>
    obtain ⟨y, hy⟩ := addReport_keeps ((s.abortCleared p).modChan p fun x => (s.chan p).abortBusy x w) p
      ((s.chan p).abortReport w) true
    rw [hleft] at hy
    refine ⟨?_, ?_, ?_, ?_, fun hr => ⟨?_, ?_, fun hwait => ?_⟩, fun hr => absurd (hr.symm.trans hmode) nofun⟩
    · rw [hy]
      exact hstate
    · rw [hy]
      exact hkind
    · rw [hy]
      exact hworks.trans hnone
    · rw [hy]
      exact (congrArg Ring.accepted hring).trans haccepted
    · rw [hy]
      exact (congrArg Ring.h hring).trans (hadvance hr).1
    · rw [hy]
      exact (congrArg Ring.f hring).trans (hadvance hr).2
    · rw [addReport_queue, hleft, hcpl, hcplLeft]
      rw [hleft, hcpl, hcplLeft, hcfg, hcfgLeft]
      exact hwait
  · next hmode =>
    have hcore := ((SameCore.refl ((s.abortCleared p).modChan p fun x => (s.chan p).abortBusy x w)).raise
      (chanEvent p 5)) p
    rw [hleft] at hcore
    exact ⟨(congrArg (fun x => x.1.state) hcore).trans hstate, (congrArg (fun x => x.1.stopKind) hcore).trans hkind,
      started_nil_of_core hcore (hworks.trans hnone),
      (congrArg (fun x => x.1.ring.accepted) hcore).trans ((congrArg Ring.accepted hring).trans haccepted),
      fun hr => absurd hr hmode, fun hr => (congrArg (fun x => x.1.lastStatus) hcore).trans (hlast hr)⟩

/-! ### The halt edge -/

def State.emptied (s : State) (p : Nat) : State := (s.clearWork p).dropEntries p

theorem emptied_chan (s : State) (p : Nat) :
    (s.emptied p).chan p = ({ s.chan p with started := [] } : Chan).refetching := by
  unfold State.emptied
  rw [dropEntries_chan, clearWork_chan]

/-- The channel at the halt edge of a failed piece of work. -/
def Chan.haltedBy (x : Chan) (w : Work) : Chan :=
  { x.loadHalt (if w.pass then .pass else .descriptor) (if w.pass then 0 else x.idxReg w.idx)
      (w.verdict.getD .busError) w.residue w.failCrc with
    state := .halted, lastStatus := if w.pass then w.verdict.getD .busError else x.lastStatus }

/-- The report of a failed descriptor. -/
def Work.failReport (w : Work) : Report :=
  { idx := w.idx, status := w.verdict.getD .busError, residue := w.residue, crc := w.failCrc, done := false
    signal := none, loads := some .descriptor }

theorem haltEdge_work (h : (s.chan p).failed = some w) : s.haltEdge p
    = if w.pass then (s.emptied p).modChan p fun x => x.haltedBy w
      else ((s.emptied p).modChan p fun x => x.haltedBy w).addReport p w.failReport true := by
  unfold State.haltEdge
  dsimp only
  rw [h]
  rfl

/-- The channel at the halt edge of a halt point. -/
def Chan.haltedAt (x : Chan) (h : HaltPoint) : Chan :=
  let y := x.loadHalt h.cause (x.idxReg h.idx) h.status h.residue h.crc
  { y with state := .halted, halt := { y.halt with byFunction := false } }

theorem haltEdge_point {h : HaltPoint} (hf : (s.chan p).failed = none) (hp : (s.chan p).halt.point = some h) :
    s.haltEdge p = if h.record then ((s.emptied p).modChan p fun x => x.haltedAt h).addReport p
        { idx := h.idx, status := h.status, residue := h.residue, crc := h.crc, done := false, signal := none
          loads := some .descriptor } true
      else if (s.chan p).state == .halted then (s.emptied p).modChan p fun x => x.haltedAt h
      else ((s.emptied p).modChan p fun x => x.haltedAt h).flushIndex p (stopReport h.idx h.status h.residue h.crc) := by
  unfold State.haltEdge
  dsimp only
  rw [hf]
  dsimp only
  rw [hp]
  rfl

theorem exec_channelHalt (h : s.haltReady p = true) : exec (.channelHalt p) s = .next (s.settle (s.haltEdge p)) := by
  show execChannelHalt p s = _
  unfold execChannelHalt
  rw [if_pos h]
  rfl

theorem failCrc_eq (w : Work) : w.failCrc
    = if w.verdict = some .crcMismatch ∧ w.expectFailed = true then ~~~ w.crcReg else 0 := by
  unfold Work.failCrc
  simp only [Bool.and_eq_true, decide_eq_true_iff]

/-- A channel at a halt edge, but for what its report changes. -/
theorem haltEdge_chan {g : Chan → Chan} {o : State} (s : State) (p : Nat) (ho : o = (s.emptied p).modChan p g
    ∨ (∃ r now, o = ((s.emptied p).modChan p g).addReport p r now)
    ∨ ∃ r, o = ((s.emptied p).modChan p g).flushIndex p r) :
    ∃ y, o.chan p = { g ({ s.chan p with started := [] } : Chan).refetching with cpl := y } := by
  have hchan : ((s.emptied p).modChan p g).chan p = g ({ s.chan p with started := [] } : Chan).refetching := by
    rw [State.modChan_chan, if_pos rfl, emptied_chan]
  rcases ho with rfl | ⟨r, now, rfl⟩ | ⟨r, rfl⟩
  · exact ⟨_, by rw [hchan]⟩
  · obtain ⟨y, hy⟩ := addReport_keeps ((s.emptied p).modChan p g) p r now
    exact ⟨y, by rw [hy, hchan]⟩
  · obtain ⟨y, hy⟩ := flushIndex_chan ((s.emptied p).modChan p g) p r
    exact ⟨y, by rw [hy, hchan]⟩

theorem haltEdge_work_chan (h : (s.chan p).failed = some w) :
    ∃ y, (s.haltEdge p).chan p = { ({ s.chan p with started := [] } : Chan).refetching.haltedBy w with cpl := y } := by
  refine haltEdge_chan (g := fun x => x.haltedBy w) s p ?_
  rw [haltEdge_work h]
  split
  · exact .inl rfl
  · exact .inr (.inl ⟨_, _, rfl⟩)

theorem haltEdge_point_chan {h : HaltPoint} (hf : (s.chan p).failed = none) (hp : (s.chan p).halt.point = some h) :
    ∃ y, (s.haltEdge p).chan p = { ({ s.chan p with started := [] } : Chan).refetching.haltedAt h with cpl := y } := by
  refine haltEdge_chan (g := fun x => x.haltedAt h) s p ?_
  rw [haltEdge_point hf hp]
  split
  · exact .inr (.inl ⟨_, _, rfl⟩)
  · split
    · exact .inl rfl
    · exact .inr (.inr ⟨_, rfl⟩)

end Sys2Proof.Machine
end

section
/-! The statement on reports and stops (R87 to R94, R162 to R167, R304). -/

namespace Sys2Proof.Machine

variable {s t u : State} {p n k : Nat} {w : Work} {r : Report}

theorem chFn_congr (h : (t.chan p).owner = (s.chan p).owner) : t.chFn p = s.chFn p := by
  unfold State.chFn State.fnOfChan
  rw [h]

theorem fn_rings_of_core {x y : Fn} (h : x.core = y.core) : x.rings = y.rings := (congrArg Fn.rings h : _)

/-- A completion write without DONE and loads raises its report's signal. -/
theorem completionDone_signal (hp : p < 128) (hr : (s.chan p).cpl.flying = [r]) (hm : (s.chan p).cfg.cplRingMode = false)
    (hdue : (s.chan p).cpl.due = false) (hdone : r.done = false) (hsignal : r.signal = some k) (hloads : r.loads = none) :
    s.completionDone p = (s.setChan p { s.chan p with cpl := (s.chan p).cpl.landed }).raiseSignal (s.chFn p) k := by
  have hring : s.ringAcked p = s := by
    unfold State.ringAcked
    split
    · exact if_neg (by rw [hm]; decide)
    · rfl
  have hlanded : s.cplLanded p = s.setChan p { s.chan p with cpl := (s.chan p).cpl.landed } := by
    unfold State.cplLanded
    rw [hring]
  rw [(completionDone_one hp hr (.inr hdue)).1, hloads]
  show (s.cplLanded p).reportTold p r = _
  unfold State.reportTold
  rw [hsignal, hdone, chFn_congr (s := s) (by rw [hlanded, setChan_chan_same]), hlanded]
  rfl

/-- The report of a completion write in flight sets its stop registers. -/
theorem completionDone_stop (hp : p < 128) (hk : k < 8) (hr : (s.chan p).cpl.flying = [r])
    (hm : (s.chan p).cfg.cplRingMode = true ∨ (s.chan p).cpl.due = false) {cause : Cause}
    (hloads : ∀ t : State, t.reportLoads p r r.loads
      = (t.modChan p fun c => c.reportLoaded r cause).raise (chanEvent p k)) :
    ((s.completionDone p).chan p).halt = { (s.chan p).halt with
        stopSeen := true, cause := cause, status := r.status, idx := idxLayout (s.chan p).ring.order r.idx
        residue := r.residue, crc := 0 }
    ∧ (s.completionDone p).isPending (chanEvent p k) = true := by
  obtain ⟨hhalt, hring⟩ := reportTold_halt s p r
  obtain ⟨-, -, hloaded, hevent⟩ := reportLoads_stop (s := (s.cplLanded p).reportTold p r) hp hk r cause
  rw [(completionDone_one hp hr hm).1, hloads, hloaded, hhalt, hring]
  exact ⟨rfl, hevent⟩

theorem completionDone_spec (hp : p < 128) (hr : (s.chan p).cpl.flying = [r])
    (hm : (s.chan p).cfg.cplRingMode = true ∨ (s.chan p).cpl.due = false) :
    (r.done = true → (s.completionDone p).isPending (chanEvent p 1) = true)
    ∧ ∀ v, (s.chan p).cfg.cplRingMode = true → (s.chan p).cpl.flyingSlot = some v →
        look {} ((s.completionDone p).fn (s.chFn p)).rings (s.chan p).cfg.cplRing
          = (look {} (s.fn (s.chFn p)).rings (s.chan p).cfg.cplRing).ack v := by
  rw [(completionDone_one hp hr hm).1]
  refine ⟨fun hdone => (reportLoads_waning _ p r r.loads).bits _ (chanEvent_lt hp 1 (by decide))
    (reportTold_done hp hdone), fun v hmode hslot => ?_⟩
  have hkept := (reportLoads_fns ((s.cplLanded p).reportTold p r) p r r.loads (s.chFn p)).trans
    (reportTold_fns (s.cplLanded p) p r (s.chFn p))
  rw [fn_rings_of_core hkept]
  exact ringAcked_ring hmode hslot

theorem exec_lehrStopComplete (hstop : (s.chan p).state = .stopping) (hnone : (s.chan p).started = [])
    (hpend : (s.chan p).halt.pending = false) (hready : (s.chan p).cfg.ringMode = false ∨ (s.chan p).ring.accepted ≠ []
      ∨ (s.chan p).ring.f = (s.chan p).ring.t ∨ (s.chan p).ring.parked = true) :
    exec (.lehrStopComplete p) s = .next (s.settle (s.lehrEnd p)) := by
  have hlehr : (s.chan p).lehrReady = true := by
    unfold Chan.lehrReady
    rcases hready with h | h | h | h
    · simp [hstop, hnone, hpend, h]
    · simp [hstop, hnone, hpend, h]
    · simp [hstop, hnone, hpend, h]
    · simp [hstop, hnone, hpend, h]
  show execLehrStopComplete p s = _
  unfold execLehrStopComplete
  rw [if_pos hlehr]
  rfl

theorem exec_abortComplete (habort : (s.chan p).state = .aborting) (hpend : (s.chan p).halt.pending = false)
    (hdrained : s.workDrained p = true) : exec (.abortComplete p) s = .next (s.settle (s.finishAbort p)) := by
  show execAbortComplete p s = _
  unfold execAbortComplete
  rw [if_pos (by rw [habort, hpend, hdrained]; rfl)]
  rfl

theorem finishAbort_spec (s : State) (p : Nat) :
    ((s.finishAbort p).chan p).state = (s.chan p).abortEnd ∧ ((s.finishAbort p).chan p).stopKind = true
    ∧ ((s.finishAbort p).chan p).started = [] ∧ ((s.finishAbort p).chan p).ring.accepted = []
    ∧ (∀ w rest, (s.chan p).started = w :: rest → (s.chan p).cfg.ringMode = true →
        ((s.finishAbort p).chan p).ring.h = ringNext (s.chan p).ring.order (s.chan p).ring.h
        ∧ ((s.finishAbort p).chan p).ring.f = ringNext (s.chan p).ring.order (s.chan p).ring.h
        ∧ ((s.chan p).cpl.outstanding = true ∨ (s.chan p).cfg.cplRingMode = true →
          ((s.finishAbort p).chan p).cpl.queue = (s.chan p).cpl.queue ++ [(s.chan p).abortReport w]))
    ∧ ∀ w rest, (s.chan p).started = w :: rest → (s.chan p).cfg.ringMode = false →
        ((s.finishAbort p).chan p).lastStatus = .aborted := by
  by_cases hs : (s.chan p).started = []
  · obtain ⟨hstate, hkind, hworks, haccepted⟩ := finishAbort_idle_spec hs
    have hnever : ∀ {w : Work} {rest}, (s.chan p).started ≠ w :: rest := fun h => nomatch hs.symm.trans h
    exact ⟨hstate, hkind, hworks, haccepted, fun _ _ h => absurd h hnever, fun _ _ h => absurd h hnever⟩
  · obtain ⟨w, rest, hw⟩ := List.exists_cons_of_ne_nil hs
    obtain ⟨hstate, hkind, hworks, haccepted, -⟩ := finishAbort_busy_spec hw
    exact ⟨hstate, hkind, hworks, haccepted, fun _ _ h => (finishAbort_busy_spec h).2.2.2.2.1,
      fun _ _ h => (finishAbort_busy_spec h).2.2.2.2.2⟩

/-- The channel at the halt edge of a failed piece of work. -/
theorem haltEdge_work_spec (hfailed : (s.chan p).failed = some w) :
    ((s.haltEdge p).chan p).state = .halted ∧ ((s.haltEdge p).chan p).started = []
    ∧ ((s.haltEdge p).chan p).halt = { (s.chan p).halt with
        haltSeen := true, halts := satAdd 16 (s.chan p).halt.halts 1
        cause := if w.pass = true then .pass else .descriptor, status := w.verdict.getD .busError
        idx := if w.pass = true then 0 else idxLayout (s.chan p).ring.order w.idx, residue := w.residue
        crc := if w.verdict = some .crcMismatch ∧ w.expectFailed = true then ~~~ w.crcReg else 0
        pending := false, point := none }
    ∧ (w.pass = false → (s.chan p).cpl.outstanding = true ∨ (s.chan p).cfg.cplRingMode = true →
        ((s.haltEdge p).chan p).cpl.queue = (s.chan p).cpl.queue ++ [{
          idx := w.idx, status := w.verdict.getD .busError, residue := w.residue
          crc := ((s.haltEdge p).chan p).halt.crc, done := false, signal := none, loads := some .descriptor }]) := by
  obtain ⟨y, hy⟩ := haltEdge_work_chan hfailed
  have hcrc : ((s.haltEdge p).chan p).halt.crc = w.failCrc := by
    rw [hy]
    rfl
  rw [hcrc]
  refine ⟨?_, ?_, ?_, fun hpass hwait => ?_⟩
  · rw [hy]
    rfl
  · rw [hy]
    rfl
  · rw [hy, ← failCrc_eq]
    rfl
  · rw [haltEdge_work hfailed, if_neg (by rw [hpass]; decide), addReport_queue, State.modChan_chan, if_pos rfl,
      emptied_chan]
    · rfl
    · rw [State.modChan_chan, if_pos rfl, emptied_chan]
      exact hwait

/-- The channel at the halt edge of a halt point. -/
theorem haltEdge_point_spec {h : HaltPoint} (hnone : (s.chan p).failed = none)
    (hpoint : (s.chan p).halt.point = some h) :
    ((s.haltEdge p).chan p).state = .halted ∧ ((s.haltEdge p).chan p).started = []
    ∧ ((s.haltEdge p).chan p).halt = { (s.chan p).halt with
        haltSeen := true, halts := satAdd 16 (s.chan p).halt.halts 1, cause := h.cause, status := h.status
        idx := idxLayout (s.chan p).ring.order h.idx, residue := h.residue, crc := h.crc, pending := false, point := none
        byFunction := false } := by
  obtain ⟨y, hy⟩ := haltEdge_point_chan hnone hpoint
  rw [hy]
  exact ⟨rfl, rfl, rfl⟩

/-- Settles O36: each write by its equation; every end by the channel it leaves, which its report and its event change no
further than the completion registers and the pending bits. -/
theorem reportsAndStopsEnd : Obligations.ReportsAndStopsEnd := by
  unfold Obligations.ReportsAndStopsEnd
  intro s p
  refine ⟨fun _ => exec_coalTimeExpiry, kickIndex_eq, fun r hring hm hout => flushIndex_writes hring hm hout r,
    fun r rest hqueue hm hout hbound => ⟨fun hroom => ?_, fun hfull hnew => ?_, fun hfull hold => ?_⟩,
    fun port axid t ha hpurpose hphase => ⟨exec_completionWriteResponse ha hpurpose hphase .okay, fun resp hresp => ?_⟩,
    fun r hp hr hm => ⟨(completionDone_one hp hr hm).2, (completionDone_spec hp hr hm).1, fun h => ?_, fun h => ?_,
      (completionDone_spec hp hr hm).2, fun k hdone hsignal hloads hmode => ?_⟩,
    fun r v h => ack_alone h v,
    fun hstop hnone hpend hready => ⟨exec_lehrStopComplete hstop hnone hpend hready, lehrEnd_spec s p⟩,
    fun habort hpend hdrained => ⟨exec_abortComplete habort hpend hdrained, finishAbort_spec s p⟩,
    fun w hready hfailed _ => ⟨exec_channelHalt hready, haltEdge_work_spec hfailed⟩,
    fun h hready hnone hpoint => ⟨exec_channelHalt hready, haltEdge_point_spec hnone hpoint⟩⟩
  · rw [exec_recordAllocate hqueue hm hout hbound, if_neg (by rw [full_iff hbound]; exact hroom)]
    rfl
  · rw [exec_recordAllocate hqueue hm hout hbound, if_pos ((full_iff hbound).2 hfull)]
    unfold State.waitRecord
    dsimp only
    rw [if_neg (by rw [hnew]; decide)]
    rfl
  · rw [exec_recordAllocate hqueue hm hout hbound, if_pos ((full_iff hbound).2 hfull)]
    unfold State.waitRecord
    dsimp only
    rw [if_pos hold]
    rfl
  · rw [exec_completionWriteResponse ha hpurpose hphase, if_pos (Resp.isError_of_ne hresp)]
  · exact completionDone_stop hp (by decide) hr hm fun t => by rw [h]; rfl
  · exact completionDone_stop hp (by decide) hr hm fun t => by rw [h]; rfl
  · have hdue : (s.chan p).cpl.due = false := hm.resolve_left (by rw [hmode]; decide)
    exact completionDone_signal hp hr hmode hdue hdone hsignal hloads

end Sys2Proof.Machine
end

section
/-! The time input, gates and pulses (R55, R58, R59, R149 to R152, R154, R172, R173). -/

namespace Sys2Proof.Machine

variable {s t u : State} {p n f k : Nat}

/-! ### The time input -/

theorem setTime_falls {x : TimeIn} (h : x.valid = false) : s.setTime x
    = if s.time.valid = true then State.raise { s with time := x } 1474 else { s with time := x } := by
  unfold State.setTime
  dsimp only
  rw [h, Bool.not_false, Bool.and_true]

/-- A time input that stays valid, or was not, raises nothing. -/
theorem setTime_stays {x : TimeIn} (h : s.time.valid = true → x.valid = true) : s.setTime x = { s with time := x } := by
  unfold State.setTime
  dsimp only
  refine if_neg ?_
  rw [Bool.and_eq_true, Bool.not_eq_true']
  rintro ⟨hold, hnew⟩
  rw [h hold] at hnew
  cases hnew

theorem valid_iff (x : TimeIn) : x.valid = true ↔ x.lastValid = true ∧ x.stalled = false ∧ x.unset = false := by
  simp only [TimeIn.valid, Bool.and_eq_true, Bool.not_eq_true', and_assoc]

section
variable (hup : cclkUp s = true) (v : W64)
include hup

theorem exec_timeSample_invalid : exec (.timeSample v false) s
    = .next (s.setTime { s.time with lastValid := false }) := by
  show execTimeSample v false s = _
  unfold execTimeSample
  rw [if_neg (by rw [hup]; decide)]
  rfl

/-- The first sample after a reset, and any that is not below TNOW, is taken. -/
theorem exec_timeSample_taken (h : s.time.unset = true ∨ s.time.tnow ≤ v) : exec (.timeSample v true) s
    = .next { s with time := { s.time with tnow := v, lastValid := true, unset := false } } := by
  show execTimeSample v true s = _
  unfold execTimeSample
  rw [if_neg (by rw [hup]; decide), if_neg (by decide)]
  cases hunset : s.time.unset with
  | true =>
    rw [if_pos rfl, setTime_stays fun hvalid => ?_]
    rw [((valid_iff _).1 hvalid).2.2] at hunset
    cases hunset
  | false =>
    have hle : s.time.tnow.toNat ≤ v.toNat := BitVec.le_def.1 (h.resolve_left (by rw [hunset]; decide))
    rw [if_neg (by decide), if_neg (Nat.not_lt.2 hle), setTime_stays fun hvalid => ?_]
    · rw [← hunset]
    · exact (valid_iff _).2 ⟨rfl, ((valid_iff _).1 hvalid).2⟩

theorem exec_timeSample_back (hset : s.time.unset = false) (h : v < s.time.tnow) : exec (.timeSample v true) s
    = .next (({ s with time := { s.time with backsteps := satAdd 16 s.time.backsteps 1 } } : State).raise 1473) := by
  show execTimeSample v true s = _
  unfold execTimeSample
  rw [if_neg (by rw [hup]; decide), if_neg (by decide), if_neg (by rw [hset]; decide), if_pos (BitVec.lt_def.1 h)]

end

theorem exec_timeStall (h : s.time.equal = 8) : exec .timeStall s
    = .next (s.setTime { s.time with stalled := true, lastValid := false }) :=
  congrArg Host.Outcome.next (if_pos h)

theorem exec_timeStallWithdrawn (h : s.time.equal = 0) : exec .timeStallWithdrawn s
    = .next { s with time := { s.time with stalled := false } } := by
  refine (congrArg Host.Outcome.next (if_pos h)).trans (congrArg Host.Outcome.next (setTime_stays fun hvalid => ?_))
  obtain ⟨hlast, -, hset⟩ := (valid_iff _).1 hvalid
  exact (valid_iff _).2 ⟨hlast, rfl, hset⟩

theorem sampled_some (x : TimeIn) (ns : W64) {before : W64} (h : x.advNs = some before) : x.sampled ns true
    = { x with advNs := some ns, advance := if before.toNat < ns.toNat then grayNext x.advance else x.advance } := by
  unfold TimeIn.sampled
  rw [h]
  rfl

/-- The advance count changes in exactly one bit. -/
theorem grayNext_one (g : BitVec 4) : grayNext g ≠ g ∧ ∃ i, i < 4 ∧ grayNext g ^^^ g = BitVec.ofNat 4 (2 ^ i) := by
  revert g
  decide

/-! ### Timers and triggers -/

theorem exec_timerFire (hheld : (look {} s.ev.timers n).holder = some f) (hvalid : s.time.valid = true)
    (harmed : (look {} s.ev.timers n).armed = true) (hdue : (look {} s.ev.timers n).next ≤ s.time.tnow.toNat) :
    exec (.timerFire n) s = .next (({ s with ev := { s.ev with
      timers := put s.ev.timers n ((look {} s.ev.timers n).advance s.time.tnow.toNat) } } : State).fireGate f 1 n) := by
  show execTimerFire n s = _
  unfold execTimerFire
  dsimp only
  rw [hheld]
  dsimp only
  rw [if_pos (by rw [hvalid, harmed, decide_eq_true hdue]; rfl)]

theorem advance_once {x : Timer} (h : x.period = 0) (tnow : Nat) :
    x.advance tnow = { x with armed := false, spent := true } := if_pos h

/-- A firing at TNOW counts the periods that it has missed. -/
theorem advance_periods {x : Timer} {tnow : Nat} (hpos : 0 < x.period) (hlow : x.next + k * x.period ≤ tnow)
    (hhigh : tnow < x.next + (k + 1) * x.period) :
    x.advance tnow = { x with next := x.next + (k + 1) * x.period, missed := satAdd 32 x.missed k } := by
  have hdiv : (tnow - x.next) / x.period = k := by
    refine Nat.div_eq_of_lt_le ?_ ?_
    · omega
    · omega
  unfold Timer.advance
  rw [if_neg (by omega), hdiv]
  rfl

theorem exec_trigIn (hheld : look none s.ev.trigIn n = some f) (hf : f < 16) (hup : cclkUp s = true) :
    exec (.trigIn n) s = .next (s.fireGate f 2 n) := by
  show execTrigIn n s = _
  unfold execTrigIn
  rw [hheld]
  dsimp only
  rw [if_pos (by rw [hup, decide_eq_true hf]; rfl)]

theorem fireGate_chan (s : State) (f kind n p : Nat) : (s.fireGate f kind n).chan p
    = if (s.chan p).owner.map Prod.fst = some f then (s.chan p).fire kind n else s.chan p :=
  look_map ({} : Chan) s.chans (fun _ c => if c.owner.map Prod.fst = some f then c.fire kind n else c) p rfl

/-- A firing completes the armed waits for its gate and gives its channel a credit, or drops it. -/
theorem fire_spec (c : Chan) (kind n : Nat) :
    (c.fire kind n).started = c.started.map (fun w =>
        if w.armed && !w.acted && w.desc.gate == kind && w.desc.gateNum == n then { w with acted := true } else w)
    ∧ (c.cfg.paceSrc = kind → c.cfg.paceNum = n → c.credit < c.cfg.paceDepth →
        (c.fire kind n).credit = c.credit + 1 ∧ (c.fire kind n).dropped = c.dropped)
    ∧ (c.cfg.paceSrc = kind → c.cfg.paceNum = n → c.cfg.paceDepth ≤ c.credit →
        (c.fire kind n).credit = c.credit ∧ (c.fire kind n).dropped = satAdd 8 c.dropped 1) := by
  unfold Chan.fire
  dsimp only
  refine ⟨?_, fun hsrc hnum hroom => ?_, fun hsrc hnum hfull => ?_⟩
  · split
    · split <;> rfl
    · rfl
  · rw [if_pos ⟨hsrc, hnum⟩, if_pos hroom]
    exact ⟨rfl, rfl⟩
  · rw [if_pos ⟨hsrc, hnum⟩, if_neg (Nat.not_lt.2 hfull)]
    exact ⟨rfl, rfl⟩

/-! ### Pulses -/

/-- A raise that has crossed starts a pulse, waits for the pulse to end, or merges with one that waits. -/
theorem pulse_queued {x : TrigOut} (h : 0 < x.queued) : x.pulse
    = if x.phase = .idle then { x with queued := x.queued - 1, phase := .high }
      else if !x.pending then { x with queued := x.queued - 1, pending := true }
      else { x with queued := x.queued - 1, merged := satAdd 16 x.merged 1 } := if_pos h

/-- Without a raise the pulse gives way to its low time, and that to the waiting pulse or to rest. -/
theorem pulse_quiet {x : TrigOut} (h : x.queued = 0) :
    (x.phase = .high → x.pulse = { x with phase := .low })
    ∧ (x.phase = .low → x.pending = true → x.pulse = { x with phase := .high, pending := false })
    ∧ (x.phase = .low → x.pending = false → x.pulse = { x with phase := .idle }) := by
  have hquiet : ¬ 0 < x.queued := by omega
  unfold TrigOut.pulse
  rw [if_neg hquiet]
  refine ⟨fun hphase => ?_, fun hphase hpend => ?_, fun hphase hpend => ?_⟩
  · rw [hphase]
  · rw [hphase]
    exact if_pos hpend
  · rw [hphase]
    exact if_neg (by rw [hpend]; decide)

theorem exec_trigOutPulse (n : Nat) {y : TrigOut} (h : (s.tout n).pulse = y) :
    exec (.trigOutPulse n) s = .next (s.setTout n y) := h ▸ rfl

/-! ### A vector's TIME -/

theorem exec_msiTimeExpiry {v at_ : Nat} (hsince : (s.vec v).since = some at_) (hmask : s.vecMasked v = false)
    (hout : (s.vec v).outstanding = false) (hraises : 0 < (s.vec v).raises) : exec (.msiTimeExpiry v) s
      = .next (((s.reachCclk (at_ + (s.vec v).time)).setVec v { s.vec v with
          covered := (s.vec v).raises, raises := 0, since := none, outstanding := true }).post
        (deviceWrite s (.msi v) 0 (s.vec v).addr 3 false (leBytes 4 (s.vec v).data.toNat))) := by
  have hdeadline : (s.vec v).deadline = some (at_ + (s.vec v).time) := by rw [Vec.deadline, hsince]; rfl
  have hdue : (s.vec v).due (s.reachCclk (at_ + (s.vec v).time)).now.cclk = true := by
    have hreached : decide (at_ + (s.vec v).time ≤ (s.reachCclk (at_ + (s.vec v).time)).now.cclk) = true :=
      decide_eq_true (Nat.le_max_right _ _)
    unfold Vec.due
    rw [hdeadline, decide_eq_true hraises]
    dsimp only
    rw [hreached, Bool.or_true, Bool.true_and]
  have hdecide : (s.reachCclk (at_ + (s.vec v).time)).decideVec v false
      = (s.reachCclk (at_ + (s.vec v).time)).writeVec v := by
    have hmask' : (s.reachCclk (at_ + (s.vec v).time)).vecMasked v = false := hmask
    have hvec : (s.reachCclk (at_ + (s.vec v).time)).vec v = s.vec v := rfl
    unfold State.decideVec
    dsimp only
    rw [hvec, if_pos (by rw [hmask', hout, decide_eq_true hraises, hdue]; rfl)]
  show execMsiTimeExpiry v s = _
  unfold execMsiTimeExpiry
  rw [hdeadline]
  dsimp only
  rw [hdecide]
  rfl

/-- Settles O37: each input by its own equation, the gates channel by channel. -/
theorem timeGatesAndPulses : Obligations.TimeGatesAndPulses := by
  unfold Obligations.TimeGatesAndPulses
  intro s
  refine ⟨fun hup => ⟨fun v => ?_, fun v => exec_timeSample_taken hup v, fun v => exec_timeSample_back hup v⟩,
    fun h => ?_, fun h => congrArg Host.Outcome.next (if_neg h), exec_timeStallWithdrawn,
    fun h => congrArg Host.Outcome.next (if_neg h), fun ns => ⟨rfl, fun before h => ⟨fun hlt => ?_, fun hle => ?_⟩⟩,
    grayNext_one, rfl, fun f k => ⟨fun o => raiseSignal_gives, raiseSignal_counts, raiseSignal_overflows⟩,
    fun c o => ⟨fun h => if_pos h, fun h => if_neg h⟩, fun n f hheld hvalid harmed => ⟨fun hdue hper => ?_,
      fun k hpos hlow hhigh => ?_⟩, fun n f => exec_trigIn, fun f kind n p => ⟨fun h => ?_, fun h => ?_⟩,
    fun n => ⟨fun hq hphase => ?_, fun hq hphase hpend => ?_, fun hq hphase hpend => ?_, fun hq hphase => ?_,
      fun hq hphase hpend => ?_, fun hq hphase hpend => ?_, beq_iff_eq⟩,
    fun v at_ hsince hmask hout hraises => ⟨_, exec_msiTimeExpiry hsince hmask hout hraises, Nat.le_max_right _ _, rfl⟩⟩
  · exact (exec_timeSample_invalid hup v).trans (congrArg Host.Outcome.next (setTime_falls rfl))
  · refine (exec_timeStall h).trans (congrArg Host.Outcome.next (setTime_falls ?_))
    rfl
  · rw [sampled_some _ _ h, if_pos hlt]
  · rw [sampled_some _ _ h, if_neg (Nat.not_lt.2 hle)]
  · exact (exec_timerFire hheld hvalid harmed hdue).trans (by rw [advance_once hper])
  · have hdue : (look {} s.ev.timers n).next ≤ s.time.tnow.toNat := Nat.le_trans (Nat.le_add_right _ _) hlow
    exact (exec_timerFire hheld hvalid harmed hdue).trans (by rw [advance_periods hpos hlow hhigh])
  · exact (fireGate_chan s f kind n p).trans (if_neg h)
  · rw [fireGate_chan, if_pos h]
    exact fire_spec _ _ _
  · exact exec_trigOutPulse n (by rw [pulse_queued hq, if_pos hphase])
  · exact exec_trigOutPulse n (by rw [pulse_queued hq, if_neg hphase, if_pos (by rw [hpend]; rfl)])
  · exact exec_trigOutPulse n (by rw [pulse_queued hq, if_neg hphase, if_neg (by rw [hpend]; decide)])
  · exact exec_trigOutPulse n ((pulse_quiet hq).1 hphase)
  · exact exec_trigOutPulse n ((pulse_quiet hq).2.1 hphase hpend)
  · exact exec_trigOutPulse n ((pulse_quiet hq).2.2 hphase hpend)

end Sys2Proof.Machine
end

section
/-! Inbound stream beats (R48 to R50, R199 to R201, R207 to R209, R211, R384): the inbound queue, packing, commits, rewinds
and refusals. -/

namespace Sys2Proof.Machine

variable {s t u : State} {p q n k : Nat} {x : Port} {b : StreamBeat} {rest : List StreamBeat}

/-! ### Positions -/

/-- The port with the positions of another. -/
def Port.placed (x z : Port) : Port :=
  { x with headPos := z.headPos, tailPos := z.tailPos, gone := z.gone, cellBase := z.cellBase }

/-- The head over the first released slots. -/
def Port.headMoved (x : Port) : Port :=
  match x.gone with
  | (a, b) :: t => if a ≤ x.headPos then { x with headPos := max x.headPos b, gone := t } else x
  | [] => x

/-- The positions of an empty FIFO. -/
def Port.restarted (x : Port) : Port :=
  { x with headPos := 0, tailPos := 0, gone := [], cellBase := x.cellBase + (x.tailPos + 63) / 64 }

theorem tidy_eq (x : Port) : x.tidy = if x.headMoved.slots = 0 then x.headMoved.restarted else x.headMoved := rfl

theorem placed_headMoved (x z : Port) : (x.placed z).headMoved = x.placed z.headMoved := by
  unfold Port.headMoved
  rw [show (x.placed z).gone = z.gone from rfl]
  cases z.gone with
  | nil => rfl
  | cons r t =>
    dsimp only
    rw [show (x.placed z).headPos = z.headPos from rfl]
    split <;> rfl

theorem placed_tidy (x z : Port) : (x.placed z).tidy = x.placed z.tidy := by
  rw [tidy_eq, tidy_eq, placed_headMoved, show (x.placed z.headMoved).slots = z.headMoved.slots from rfl]
  split <;> rfl

/-- Slots leave the tail of a port by its positions alone. -/
theorem placed_retract (x z : Port) (n : Nat) : (x.placed z).retract n = x.placed (z.retract n) :=
  placed_tidy x { z with tailPos := z.tailPos - n }

theorem retract_placed (x : Port) (n : Nat) : x.retract n = x.placed (x.retract n) := placed_retract x x n

/-! ### The inbound queue -/

theorem splitTail_suffix (l : List StreamBeat) : (l.reverse.takeWhile fun b => !b.ends).reverse <:+ l := by
  have h := List.reverse_suffix.2 (List.takeWhile_prefix (fun b : StreamBeat => !b.ends) (l := l.reverse))
  rwa [List.reverse_reverse] at h

theorem splitTail_append (l : List StreamBeat) : (splitTail l).1 ++ (splitTail l).2 = l :=
  List.suffix_iff_eq_append.1 (splitTail_suffix l)

/-- The beats up to the last that ends a packet, and those of the packet that goes on. -/
theorem splitTail_spec (l : List StreamBeat) : (splitTail l).1 ++ (splitTail l).2 = l
    ∧ (∀ b ∈ (splitTail l).2, b.ends = false) ∧ ∀ b, (splitTail l).1.getLast? = some b → b.ends = true := by
  have hwhole : l = (l.reverse.dropWhile fun b => !b.ends).reverse ++ (splitTail l).2 := by
    have h := congrArg List.reverse (List.takeWhile_append_dropWhile (p := fun b : StreamBeat => !b.ends) (l := l.reverse))
    rw [List.reverse_append, List.reverse_reverse] at h
    exact h.symm
  have hhead : (splitTail l).1 = (l.reverse.dropWhile fun b => !b.ends).reverse :=
    List.append_cancel_right ((splitTail_append l).trans hwhole)
  refine ⟨splitTail_append l, fun b hb => ?_, fun b hb => ?_⟩
  · have hin := List.mem_takeWhile_imp (List.mem_reverse.1 hb)
    rwa [Bool.not_eq_true'] at hin
  · rw [hhead, List.getLast?_reverse] at hb
    have hfirst := List.head?_dropWhile_not (fun b : StreamBeat => !b.ends) l.reverse
    rw [hb] at hfirst
    simpa using hfirst

theorem setPort_port_same (s : State) (p : Nat) (x : Port) : (s.setPort p x).port p = x := look_put_same _ _ _ _

theorem setPort_modPort (s : State) (p : Nat) (x : Port) (g : Port → Port) :
    (s.setPort p x).modPort p g = s.setPort p (g x) := by
  unfold State.modPort
  rw [setPort_port_same, State.setPort_setPort]

/-! ### Refusals and rewinds -/

/-- What FULL_POLICY makes of a refused packet (R207, R210), against the port before. -/
def Port.refusedBy (x : Port) (flag : Bool) (y : Port) : Port :=
  if flag = true then { y with full := true, overrun := true }
  else { y with marker := true, gaps := satAdd 16 x.gaps 1 }

/-- The port with another inbound queue, other marks of its packets and another parison. -/
def Port.requeued (x : Port) (inq : List StreamBeat) (refusingIn refusing dropping : Bool) (parison : List Word36) : Port :=
  { x with inq := inq, refusingIn := refusingIn, refusing := refusing, dropping := dropping, parison := parison }

/-- A first refusal rewinds the parison and counts its words with those of the beats. -/
theorem firstRefusal_requeued (s : State) (p : Nat) (x : Port) (inq : List StreamBeat) (ri r d : Bool) (par : List Word36)
    (words : Nat) : (s.setPort p (x.requeued inq ri r d par)).firstRefusal p words
      = (s.setPort p (x.refusedBy s.member.flagPolicy { x.retract par.length with
          inq := inq, refusingIn := ri, refusing := r, dropping := d, parison := []
          ovfWords := satAdd 32 x.ovfWords (par.length + words) })).raise (portEvent p 2) := by
  have hplaced : (x.requeued inq ri r d par).retract par.length
      = (x.requeued inq ri r d par).placed (x.retract par.length) := placed_retract (x.requeued inq ri r d par) x _
  unfold State.firstRefusal Port.dropParison
  dsimp only
  rw [setPort_port_same, State.setPort_setPort]
  rw [show (x.requeued inq ri r d par).parison = par from rfl, hplaced, retract_placed x par.length]
  rfl

/-! ### Beats that arrive -/

theorem exec_inboundBeatAccept_queued (hx : s.port p = x) (hon : s.inboundOn p = true) (hri : x.refusingIn = false) (hroom : x.inq.length < 32) :
    exec (.inboundBeatAccept p b) s = .next (s.settle (s.setPort p { x with inq := x.inq ++ [b] })) := by
  subst hx
  show execInboundBeatAccept p b s = _
  unfold execInboundBeatAccept
  rw [if_neg (by rw [hon]; decide), if_neg]
  · rfl
  · rw [hri, Bool.false_or, decide_eq_true_iff]
    exact Nat.not_le.2 hroom

theorem exec_inboundBeatAccept_refused (hx : s.port p = x) (hon : s.inboundOn p = true) (h : x.refusingIn = true ∨ 32 ≤ x.inq.length) :
    exec (.inboundBeatAccept p b) s = .next (s.settle (s.refuseIn p b)) := by
  subst hx
  show execInboundBeatAccept p b s = _
  unfold execInboundBeatAccept
  rw [if_neg (by rw [hon]; decide), if_pos]
  · rfl
  · rw [Bool.or_eq_true, decide_eq_true_iff]
    exact h

/-- Words of the packet that goes on in the queue, with those of the beat that finds it full. -/
def Port.cutWords (x : Port) (b : StreamBeat) : Nat := ((splitTail x.inq).2.map StreamBeat.counted).sum + b.counted

theorem refuseIn_goes (hx : s.port p = x) (h : x.refusingIn = true) : s.refuseIn p b
    = s.setPort p { x with ovfWords := satAdd 32 x.ovfWords b.counted, refusingIn := !b.ends } := by
  subst hx
  unfold State.refuseIn
  dsimp only
  rw [if_pos h]

section
variable (hx : s.port p = x) (hri : x.refusingIn = false)
include hx hri

/-- The packet that goes on is refused from its first beat on. -/
theorem refuseIn_first : s.refuseIn p b
    = if ((splitTail x.inq).1.isEmpty && (x.refusing || x.dropping)) = true then
        s.setPort p { x with
          inq := (splitTail x.inq).1, refusingIn := !b.ends, refusing := x.refusing && !(splitTail x.inq).1.isEmpty
          dropping := x.dropping && !(splitTail x.inq).1.isEmpty
          ovfWords := satAdd 32 x.ovfWords (x.cutWords b) }
      else if (splitTail x.inq).1.isEmpty = true then
        (s.setPort p (x.requeued (splitTail x.inq).1 (!b.ends) (x.refusing && !(splitTail x.inq).1.isEmpty)
          (x.dropping && !(splitTail x.inq).1.isEmpty) x.parison)).firstRefusal p (x.cutWords b)
      else ((s.setPort p (x.requeued (splitTail x.inq).1 (!b.ends) (x.refusing && !(splitTail x.inq).1.isEmpty)
          (x.dropping && !(splitTail x.inq).1.isEmpty) [])).firstRefusal p (x.cutWords b)).modPort p fun q =>
            { q with parison := x.parison } := by
  subst hx
  unfold State.refuseIn
  dsimp only
  rw [if_neg (by rw [hri]; decide)]
  rfl

section
variable (hnone : (splitTail x.inq).1 = [])
include hnone

theorem refuseIn_here (h : x.refusing = true ∨ x.dropping = true) : s.refuseIn p b
    = s.setPort p { x with
        inq := [], refusingIn := !b.ends, refusing := false, dropping := false
        ovfWords := satAdd 32 x.ovfWords (x.cutWords b) } := by
  rw [refuseIn_first hx hri, hnone, if_pos (by rw [List.isEmpty_nil, Bool.true_and, Bool.or_eq_true]; exact h)]
  rw [List.isEmpty_nil, Bool.not_true, Bool.and_false, Bool.and_false]

theorem refuseIn_whole (hr : x.refusing = false) (hd : x.dropping = false) : s.refuseIn p b
    = (s.setPort p (x.refusedBy s.member.flagPolicy { x.retract x.parison.length with
        inq := [], refusingIn := !b.ends, parison := []
        ovfWords := satAdd 32 x.ovfWords (x.parison.length + x.cutWords b) })).raise (portEvent p 2) := by
  have hrefusing : (x.refusing && !([] : List StreamBeat).isEmpty) = x.refusing := by rw [hr]; rfl
  have hdropping : (x.dropping && !([] : List StreamBeat).isEmpty) = x.dropping := by rw [hd]; rfl
  rw [refuseIn_first hx hri, hnone, if_neg (by rw [hr, hd]; decide), if_pos (by rfl), hrefusing, hdropping,
    firstRefusal_requeued, retract_placed x x.parison.length]
  rfl

end

theorem refuseIn_behind (hsome : (splitTail x.inq).1 ≠ []) : s.refuseIn p b
    = ((s.setPort p (x.refusedBy s.member.flagPolicy { x.retract 0 with
        inq := (splitTail x.inq).1, refusingIn := !b.ends, parison := []
        ovfWords := satAdd 32 x.ovfWords (x.cutWords b) })).raise (portEvent p 2)).modPort p fun z =>
          { z with parison := x.parison } := by
  have hempty : (splitTail x.inq).1.isEmpty = false := by rwa [List.isEmpty_eq_false_iff]
  rw [refuseIn_first hx hri, hempty, Bool.false_and, if_neg (by decide), if_neg (by decide), firstRefusal_requeued, Bool.not_false,
    Bool.and_true, Bool.and_true, List.length_nil, Nat.zero_add, retract_placed x 0]
  rfl

end

/-! ### Beats that are packed -/

section
variable (hx : s.port p = x) (hinq : x.inq = b :: rest) (hup : cclkUp s = true) (hcru : s.rst.crucible = true)
include hx hinq hup hcru

/-- INBOUND_BEAT_POP: the oldest beat of the queue, by what becomes of its packet. -/
theorem exec_inboundBeatPop : exec (.inboundBeatPop p) s = .next (s.settle (
    if x.cut = true then s.setPort p { x with inq := rest, cut := !b.ends }
    else if x.dropping = true then s.setPort p { x with
      inq := rest, flushDropped := satAdd 32 x.flushDropped b.counted, dropping := !b.ends }
    else if x.refusing = true then s.setPort p { x with
      inq := rest, ovfWords := satAdd 32 x.ovfWords b.counted, refusing := !b.ends }
    else if s.hasRoom p = true then (s.setPort p { x with inq := rest }).packBeat p b
    else ((s.setPort p { x with inq := rest }).firstRefusal p b.counted).modPort p fun y =>
      { y with refusing := !b.ends })) := by
  subst hx
  show execInboundBeatPop p s = _
  unfold execInboundBeatPop
  dsimp only
  rw [hinq]
  dsimp only
  rw [if_neg (by rw [hup, hcru]; decide), setPort_modPort, setPort_modPort, setPort_modPort]
  by_cases hcut : (s.port p).cut = true
  · rw [if_pos hcut, if_pos hcut]
    rfl
  · rw [if_neg hcut, if_neg hcut]
    by_cases hdrop : (s.port p).dropping = true
    · rw [if_pos hdrop, if_pos hdrop]
      rfl
    · rw [if_neg hdrop, if_neg hdrop]
      by_cases href : (s.port p).refusing = true
      · rw [if_pos href, if_pos href]
        rfl
      · rw [if_neg href, if_neg href]
        by_cases hroom : s.hasRoom p = true
        · rw [if_pos hroom, if_pos hroom]
          rfl
        · rw [if_neg hroom, if_neg hroom]
          rfl

end

theorem countValid_iff (b : StreamBeat) : b.countValid = true ↔ 1 ≤ b.count ∧ b.count ≤ 4 := by
  rw [StreamBeat.countValid, decide_eq_true_iff]

/-- A packed beat's words are written while its port is not looked at. -/
theorem wrote_setPort (s : State) (p : Nat) (x y : Port) (h n k m : Nat) :
    ((s.setPort p x).wrote h n k m).setPort p y = (s.wrote h n k m).setPort p y := by
  show ({ s.wrote h n k m with ports := put (put s.ports p x) p y } : State) = _
  rw [put_put]
  rfl

/-- A beat in the middle of its packet. -/
theorem packBeat_middle (h : b.ends = false) : (s.setPort p { x with inq := rest }).packBeat p b
    = (s.wrote p x.cellBase x.tailPos 4).setPort p { x with
        inq := rest, parison := x.parison ++ b.words 4, tailPos := x.tailPos + 4 } := by
  rw [StreamBeat.ends, Bool.or_eq_false_iff] at h
  obtain ⟨hlast, habort⟩ := h
  unfold State.packBeat
  dsimp only
  rw [setPort_port_same, habort, hlast, Bool.false_and, Bool.or_false, if_neg (by decide), if_neg (by decide),
    wrote_setPort]

/-- The packet that a last beat commits. -/
def Port.closed (x : Port) (b : StreamBeat) : Packet :=
  { words := x.parison ++ b.words b.count, slots := x.parison.length + 4
    pos := x.tailPos - x.parison.length, gap := x.marker }

/-- The port after the commit of its parison. -/
def Port.committed (x : Port) (rest : List StreamBeat) : Port :=
  { x with inq := rest, parison := [], marker := false, tailPos := x.tailPos + 4 }

section
variable (hlast : b.last = true) (habort : b.abortPkt = false) (hlow : 1 ≤ b.count) (hhigh : b.count ≤ 4)
include hlast habort hlow hhigh

theorem packBeat_last : (s.setPort p { x with inq := rest }).packBeat p b
    = ((s.setPort p { x with inq := rest }).wrote p x.cellBase x.tailPos 4).commit p b := by
  unfold State.packBeat
  dsimp only
  rw [setPort_port_same, habort, hlast, (countValid_iff b).2 ⟨hlow, hhigh⟩]
  rfl

theorem packBeat_kept (hnone : x.takers = []) : (s.setPort p { x with inq := rest }).packBeat p b
    = (s.wrote p x.cellBase x.tailPos 4).setPort p { x.committed rest with packets := x.packets ++ [x.closed b] } := by
  rw [packBeat_last hlast habort hlow hhigh, ← wrote_setPort s p { x with inq := rest }]
  unfold State.commit Port.committed
  dsimp only
  rw [show ((s.setPort p { x with inq := rest }).wrote p x.cellBase x.tailPos 4).port p = { x with inq := rest } from
    setPort_port_same _ _ _]
  dsimp only
  rw [hnone]
  rfl

theorem packBeat_taken {l : List (Nat × Nat)} (htaker : x.takers = (q, n) :: l) :
    (s.setPort p { x with inq := rest }).packBeat p b
      = ((s.wrote p x.cellBase x.tailPos 4).setPort p { x.committed rest with takers := l }).givePacket q n
          (x.closed b) := by
  rw [packBeat_last hlast habort hlow hhigh, ← wrote_setPort s p { x with inq := rest }]
  unfold State.commit Port.committed
  dsimp only
  rw [show ((s.setPort p { x with inq := rest }).wrote p x.cellBase x.tailPos 4).port p = { x with inq := rest } from
    setPort_port_same _ _ _]
  dsimp only
  rw [htaker]
  rfl

end

/-- A packet that ends badly is rewound (R201). -/
theorem packBeat_rewinds (h : b.abortPkt = true ∨ (b.last = true ∧ (b.count = 0 ∨ 4 < b.count))) :
    (s.setPort p { x with inq := rest }).packBeat p b
      = (s.setPort p { x.retract x.parison.length with
          inq := rest, parison := [], badPkt := satAdd 16 x.badPkt 1 }).raise (portEvent p 3) := by
  have hbad : (b.abortPkt || (b.last && !b.countValid)) = true := by
    rcases h with h | ⟨hlast, hcount⟩
    · rw [h, Bool.true_or]
    · have hinvalid : b.countValid = false := Bool.eq_false_iff.2 fun hv => by
        have := (countValid_iff b).1 hv
        omega
      rw [hlast, hinvalid]
      exact Bool.or_true _
  have hplaced : ({ x with inq := rest } : Port).retract x.parison.length
      = ({ x with inq := rest } : Port).placed (x.retract x.parison.length) := placed_retract { x with inq := rest } x _
  unfold State.packBeat
  dsimp only
  rw [if_pos hbad]
  unfold State.rewind Port.dropParison
  rw [setPort_modPort, hplaced, retract_placed x x.parison.length]
  rfl

/-- A beat that finds no room refuses its packet. -/
theorem popRefused (s : State) (p : Nat) (x : Port) (b : StreamBeat) (rest : List StreamBeat) :
    ((s.setPort p { x with inq := rest }).firstRefusal p b.counted).modPort p (fun y => { y with refusing := !b.ends })
      = ((s.setPort p (x.refusedBy s.member.flagPolicy { x.retract x.parison.length with
          inq := rest, parison := [], ovfWords := satAdd 32 x.ovfWords (x.parison.length + b.counted) })).raise
            (portEvent p 2)).modPort p fun z => { z with refusing := !b.ends } := by
  have hfirst := firstRefusal_requeued s p x rest x.refusingIn x.refusing x.dropping x.parison b.counted
  rw [retract_placed x x.parison.length] at hfirst ⊢
  exact congrArg (fun t : State => t.modPort p fun y => { y with refusing := !b.ends }) hfirst

end Sys2Proof.Machine
end

section
/-! Outbound stream beats (R48 to R50, R136, R202, R210, R212, R214): the pins of a beat, its acceptance, the beats that are
formed, and the flush edges. -/

namespace Sys2Proof.Machine

variable {s t u : State} {p q n k : Nat} {w : Work} {x : Port}

/-! ### The pins of a beat -/

/-- Bit `i` of word `j` in the sum of a word that stands at place `m`. -/
theorem word_bit (a : Word36) {m j i : Nat} (hj : j < 4) (hi : i < 36) :
    (BitVec.ofNat 144 (a.toNat * 2 ^ (36 * m))).getLsbD (36 * j + i) = (decide (m = j) && a.getLsbD i) := by
  rw [BitVec.getLsbD_ofNat, decide_eq_true (by omega), Bool.true_and, Nat.testBit_mul_two_pow]
  by_cases hmj : m = j
  · rw [hmj, decide_eq_true rfl, decide_eq_true (by omega), Bool.true_and, Bool.true_and, Nat.add_sub_cancel_left]
    rfl
  · rw [decide_eq_false hmj, Bool.false_and, Bool.and_eq_false_iff]
    by_cases hlt : m < j
    · exact .inr (BitVec.getLsbD_of_ge a _ (by omega))
    · exact .inl (decide_eq_false (by omega))

theorem tdata_word (b : OutBeat) {j : Nat} (hj : j < 4) : (b.tdata >>> (36 * j)).setWidth 36 = b.words.getD j 0 := by
  refine BitVec.eq_of_getLsbD_eq fun i hi => ?_
  have h0 := word_bit (b.words.getD 0 0) (m := 0) hj hi
  have h1 := word_bit (b.words.getD 1 0) (m := 1) hj hi
  have h2 := word_bit (b.words.getD 2 0) (m := 2) hj hi
  have h3 := word_bit (b.words.getD 3 0) (m := 3) hj hi
  rw [Nat.mul_zero, Nat.pow_zero, Nat.mul_one] at h0
  rw [BitVec.getLsbD_setWidth, decide_eq_true hi, Bool.true_and, BitVec.getLsbD_ushiftRight, OutBeat.tdata,
    BitVec.getLsbD_or, BitVec.getLsbD_or, BitVec.getLsbD_or, h0, h1, h2, h3]
  obtain rfl | rfl | rfl | rfl : j = 0 ∨ j = 1 ∨ j = 2 ∨ j = 3 := by omega
  · simp
  · simp
  · simp
  · simp

/-- TUSER holds the count of words, the abort mark and the gap mark apart. -/
theorem tuser_fields (v : Nat) (hv : v < 5) (a g : Bool) :
    (BitVec.ofNat 5 (v + (if a then 8 else 0) + (if g then 16 else 0))).toNat % 8 = v
    ∧ (BitVec.ofNat 5 (v + (if a then 8 else 0) + (if g then 16 else 0))).getLsbD 3 = a
    ∧ (BitVec.ofNat 5 (v + (if a then 8 else 0) + (if g then 16 else 0))).getLsbD 4 = g := by
  revert v
  cases a <;> cases g <;> decide

theorem tuser_spec {b : OutBeat} (h : b.words.length ≤ 4) :
    b.tuser.toNat % 8 = (if b.abort = true then 0 else if b.last = true then b.words.length else 4)
    ∧ b.tuser.getLsbD 3 = b.abort ∧ b.tuser.getLsbD 4 = b.gap := by
  refine tuser_fields _ ?_ b.abort b.gap
  split
  · decide
  · split
    · omega
    · decide

/-! ### Beats that leave -/

section
variable {b : OutBeat} (hx : s.port p = x) (hon : x.enable = true) (hdir : x.dirOut = true) (hup : sclkUp s p = true)
  (hb : x.presented = some b)
include hx hon hdir hup hb

theorem exec_outboundBeatAccept (found : List CruFault) :
    (s.workOf b.serial = none →
      exec (.outboundBeatAccept p found) s = .next (s.settle ((s.beatDelivered p b).pumpRead p found)))
    ∧ ∀ q w, s.workOf b.serial = some (q, w) → exec (.outboundBeatAccept p found) s
        = .next (s.settle (((s.beatDelivered p b).pumpRead p found).touchWatch q)) := by
  subst hx
  have hexec : exec (.outboundBeatAccept p found) s = execOutboundBeatAccept p found s := rfl
  rw [hexec]
  unfold execOutboundBeatAccept
  rw [if_neg (by rw [hon, hdir, hup]; decide), hb]
  dsimp only
  refine ⟨fun h => ?_, fun q w h => ?_⟩
  · rw [h]
    rfl
  · rw [h]
    rfl

end

/-- The port without its oldest beat. -/
def State.beatLeft (s : State) (p : Nat) (b : OutBeat) : State :=
  s.modPort p fun x => { x with
    outq := x.outq.drop 1
    released := if b.last = true then x.released.filter fun r => r != (b.serial, b.pkt) else x.released }

theorem beatDelivered_nothing {b : OutBeat} (h : b.abort = true ∨ s.workOf b.serial = none) :
    s.beatDelivered p b = s.beatLeft p b := by
  unfold State.beatDelivered
  dsimp only
  split
  · rfl
  · next hsome =>
    exact if_pos (h.resolve_right (by rw [hsome]; nofun))

theorem halfDue_of_no (hpass : w.pass = false) (hhalf : w.desc.intHalf = false) : w.halfDue = false := by
  rw [Work.halfDue, hpass, hhalf, Bool.or_false, Bool.and_false, Bool.false_and]

theorem miscompares_of_no (h : w.desc.crcCheck = false) : w.miscompares = false := by
  rw [Work.miscompares, h, Bool.and_false, Bool.false_and, Bool.false_and, Bool.false_and, Bool.false_and]

/-- Bits that are delivered to a piece of work without a half mark and without a CRC check. -/
theorem deliverBits_quiet (hw : s.work? p n = some w) (hab : w.abandoned = false) (hpass : w.pass = false)
    (hhalf : w.desc.intHalf = false) (hcrc : w.desc.crcCheck = false) (lo hi : Nat) :
    s.deliverBits p n lo hi = s.modWork p n fun _ => w.withBits lo hi := by
  have hbits := modWork_work? (g := fun y => y.withBits lo hi) hw rfl
  have hdelivers : s.deliverBits p n lo hi
      = ((s.modWork p n fun y => y.withBits lo hi).halfCheck p n).expectCheck p n := by
    unfold State.deliverBits
    rw [hw]
    exact if_neg (by rw [hab]; decide)
  rw [hdelivers, halfCheck_eq hbits, if_neg (by rw [halfDue_of_no (w := w.withBits lo hi) hpass hhalf]; decide), expectCheck_eq hbits,
    if_neg (by rw [miscompares_of_no (w := w.withBits lo hi) hcrc]; decide), modWork_found hw]

theorem beatDelivered_bits {b : OutBeat} (hb : b.abort = false) (hof : s.workOf b.serial = some (q, w))
    (hw : s.work? q b.serial = some w) (hab : w.abandoned = false) (hpass : w.pass = false)
    (hhalf : w.desc.intHalf = false) (hcrc : w.desc.crcCheck = false) : s.beatDelivered p b
      = (s.beatLeft p b).modWork q b.serial fun _ => w.withBits (w.wordBitsBefore (w.wordAt w.prefixBits))
          (w.wordBitsAfter (w.wordAt w.prefixBits + b.words.length - 1)) := by
  have hleft : (s.beatLeft p b).work? q b.serial = some w := hw
  rw [← deliverBits_quiet hleft hab hpass hhalf hcrc]
  unfold State.beatDelivered
  dsimp only
  rw [hof]
  dsimp only
  rw [if_neg (by rw [hb]; decide)]
  rfl

/-! ### Beats that are formed -/

section
variable {l : List (Nat × Nat)} (hx : s.port p = x) (ht : x.takers = (q, n) :: l) (hw : s.work? q n = some w)
  (hroom : x.outq.length < 32)
include hx ht hw hroom

theorem pumpRead_eq (found : List CruFault) : s.pumpRead p found
    = if w.nextBeat.isNone = true then s
      else if eccUe found = true then ((s.countEcc found).failWork q n .eccUncorrected).chanCause q 3
      else (s.countEcc found).pumpPort 32 p := by
  subst hx
  have hfree : ¬ Queue.depth .streamOutbound ≤ (s.port p).outq.length := Nat.not_le.2 hroom
  unfold State.pumpRead
  rw [ht]
  dsimp only
  rw [if_neg hfree, hw]
  cases h : w.nextBeat with
  | none =>
    rw [Option.bind_some, h]
    rfl
  | some ws =>
    rw [Option.bind_some, h]
    rfl

theorem pumpPort_none (h : w.nextBeat = none) (k : Nat) : s.pumpPort (k + 1) p = s := by
  subst hx
  have hfree : ¬ Queue.depth .streamOutbound ≤ (s.port p).outq.length := Nat.not_le.2 hroom
  unfold State.pumpPort
  dsimp only
  rw [ht]
  dsimp only
  rw [hw]
  dsimp only
  rw [if_neg hfree, h]

theorem pumpPort_forms {ws : List Word36} (h : w.nextBeat = some ws) (k : Nat) : s.pumpPort (k + 1) p
    = ((s.modWork q n fun _ => { w.takeCrc (w.wordBitsAfter (w.outWords + ws.length - 1)) with
          outWords := w.outWords + ws.length }).setPort p { x with
        outq := x.outq ++ [{ words := ws, last := decide ((w.outWords + ws.length) % w.packetWords = 0), serial := n
                             pkt := w.outWords / w.packetWords, gap := x.gapNext && !s.member.flagPolicy }]
        gapNext := false
        takers := if (w.outWords + ws.length) % w.packetWords = 0 then l else x.takers }).pumpPort k p := by
  subst hx
  have hfree : ¬ Queue.depth .streamOutbound ≤ (s.port p).outq.length := Nat.not_le.2 hroom
  rw [State.pumpPort]
  dsimp only
  rw [ht]
  dsimp only
  rw [hw]
  dsimp only
  rw [if_neg hfree, h]
  simp only [decide_eq_true_iff]

end

/-! ### Flushes -/

theorem exec_inboundFlushEdge (hx : s.port p = x) (hwait : x.flushWait = true) (hdir : x.dirOut = false)
    (hread : s.beingRead p = false) : exec (.inboundFlushEdge p) s = .next (s.settle (s.setPort p x.flushIn)) := by
  subst hx
  show execInboundFlushEdge p s = _
  unfold execInboundFlushEdge
  rw [if_pos (by rw [hwait, hdir, hread]; rfl)]
  rfl

theorem beingRead_iff (s : State) (p : Nat) :
    s.beingRead p = true ↔ ∃ e ∈ (s.port p).flushFor, e ∈ s.takingPort p := by
  rw [State.beingRead, List.any_eq_true]
  simp only [List.contains_iff_mem]

theorem exec_outboundFlushEdge (hx : s.port p = x) (hwait : x.flushWait = true) (hdir : x.dirOut = true)
    (hbound : s.atBoundary p = true) : exec (.outboundFlushEdge p) s
      = .next (s.settle ((s.discardOut p).modPort p fun y => { y with
          flushWait := false, flushFor := [], flushDropped := satAdd 32 y.flushDropped (s.fifoWords p)
          gapNext := y.gapNext || decide (0 < s.fifoWords p) })) := by
  subst hx
  show execOutboundFlushEdge p s = _
  unfold execOutboundFlushEdge
  rw [if_pos (by rw [hwait, hdir, hbound]; rfl)]
  rfl

/-- The work's words are in the FIFO of port `p`. -/
def Work.inFifo (w : Work) (p : Nat) : Bool := w.desc.viaFifo && w.desc.dstAddr == p

/-- One work's words leave the FIFO. -/
def State.discardWork (p k : Nat) (u : State) (w : Work) : State :=
  if w.inFifo p then
    (u.modPort p fun x => { x with reserved := x.reserved - w.fifoWords }).modWork k w.serial fun y =>
      { y with landed := [] }
  else u

theorem discardOut_eq (s : State) (p : Nat) :
    s.discardOut p = s.chans.foldl (fun t e => e.2.started.foldl (State.discardWork p e.1) t) s := rfl

/-- The port with fewer words reserved. -/
def Port.unreserve (x : Port) (m : Nat) : Port := { x with reserved := x.reserved - m }

theorem unreserve_unreserve (x : Port) (a b : Nat) : (x.unreserve a).unreserve b = x.unreserve (a + b) := by
  unfold Port.unreserve
  dsimp only
  rw [Nat.sub_sub]

theorem discardWorks_port (p k : Nat) (l : List Work) (u : State) : (l.foldl (State.discardWork p k) u).port p
    = (u.port p).unreserve ((l.filter fun w => w.inFifo p).map Work.fifoWords).sum := by
  induction l generalizing u with
  | nil => rfl
  | cons w l ih =>
    rw [List.foldl_cons, ih, List.filter_cons]
    unfold State.discardWork
    split
    · rw [List.map_cons, List.sum_cons, ← unreserve_unreserve]
      exact congrArg (fun y : Port => y.unreserve _) (setPort_port_same u p _)
    · rfl

theorem discardChans_port (p : Nat) (l : Tbl Chan) (u : State) :
    (l.foldl (fun t e => e.2.started.foldl (State.discardWork p e.1) t) u).port p
      = (u.port p).unreserve (l.map fun e => ((e.2.started.filter fun w => w.inFifo p).map Work.fifoWords).sum).sum := by
  induction l generalizing u with
  | nil => rfl
  | cons e l ih => rw [List.foldl_cons, ih, discardWorks_port, unreserve_unreserve, List.map_cons, List.sum_cons]

theorem discardOut_port (s : State) (p : Nat) :
    (s.discardOut p).port p = { s.port p with reserved := (s.port p).reserved - s.fifoWords p } :=
  discardChans_port p s.chans s

theorem updWork_find?_ne {m : Nat} {g : Work → Work} (hg : ∀ y, (g y).serial = y.serial) (h : m ≠ n) (l : List Work) :
    (updWork m g l).find? (fun y => y.serial == n) = l.find? fun y => y.serial == n := by
  induction l with
  | nil => rfl
  | cons a l ih =>
    rw [updWork]
    split
    · next ha =>
      rw [List.find?_cons, List.find?_cons, hg, beq_eq_false_iff_ne.2 (ha ▸ h)]
    · rw [List.find?_cons, List.find?_cons, ih]

theorem modWork_work?_ne {m : Nat} {g : Work → Work} (hg : ∀ y, (g y).serial = y.serial) (h : k ≠ q ∨ m ≠ n) :
    (s.modWork k m g).work? q n = s.work? q n := by
  unfold State.modWork
  rw [State.work?, State.modChan_chan]
  split
  · next hq =>
    subst hq
    exact updWork_find?_ne hg (h.resolve_left (fun hne => hne rfl)) _
  · rfl

/-- A fold that keeps `Q` and `R`, and one of whose steps leads from `Q` to `R`, leads from `Q` to `R`. -/
theorem foldl_reaches {α β : Type} {f : β → α → β} {Q R : β → Prop} (hQ : ∀ u a, Q u → Q (f u a))
    (hR : ∀ u a, R u → R (f u a)) {l : List α} (h : ∃ a ∈ l, ∀ u, Q u → R (f u a)) {u : β} (hu : Q u) :
    R (l.foldl f u) := by
  have hkeep : ∀ (l : List α) u, R u → R (l.foldl f u) := fun l => by
    induction l with
    | nil => exact fun _ h => h
    | cons a l ih => exact fun u h => ih _ (hR u a h)
  induction l generalizing u with
  | nil =>
    obtain ⟨a, ha, -⟩ := h
    cases ha
  | cons b l ih =>
    obtain ⟨a, ha, hstep⟩ := h
    rcases List.mem_cons.1 ha with rfl | ha
    · exact hkeep l _ (hstep u hu)
    · exact ih ⟨a, ha, hstep⟩ (hQ u b hu)

/-- A piece of work without landed words. -/
def Work.emptied (w : Work) : Work := { w with landed := [] }

theorem discardWork_work? (p k : Nat) (u : State) (v : Work) (h : u.work? q n = some w ∨ u.work? q n = some w.emptied) :
    ((State.discardWork p k u v).work? q n = u.work? q n
      ∨ (State.discardWork p k u v).work? q n = some w.emptied)
    ∧ (k = q → v.serial = n → v.inFifo p = true → (State.discardWork p k u v).work? q n = some w.emptied) := by
  by_cases hin : v.inFifo p = true
  · by_cases hhit : k = q ∧ v.serial = n
    · obtain ⟨rfl, hv⟩ := hhit
      have hland : (State.discardWork p k u v).work? k n = some w.emptied := by
        unfold State.discardWork
        rw [if_pos hin, hv]
        rcases h with h | h
        · exact modWork_work? (g := fun y => { y with landed := [] }) (w := w) h rfl
        · exact modWork_work? (g := fun y => { y with landed := [] }) (w := w.emptied) h rfl
      exact ⟨.inr hland, fun _ _ _ => hland⟩
    · refine ⟨.inl ?_, fun hk hv => absurd ⟨hk, hv⟩ hhit⟩
      unfold State.discardWork
      rw [if_pos hin]
      exact modWork_work?_ne (s := u.modPort p _) (g := fun y => { y with landed := [] }) (fun _ => rfl)
        (Decidable.not_and_iff_or_not.1 hhit)
  · refine ⟨.inl ?_, fun _ _ h => absurd h hin⟩
    unfold State.discardWork
    rw [if_neg hin]

/-- Every work in the port's FIFO has lost its words. -/
theorem discardOut_work? (hw : s.work? q w.serial = some w) (hvia : w.desc.viaFifo = true) (hdst : w.desc.dstAddr = p) :
    (s.discardOut p).work? q w.serial = some w.emptied := by
  have hin : w.inFifo p = true := by rw [Work.inFifo, hvia, hdst, beq_self_eq_true]; rfl
  have hmem : w ∈ (s.chan q).started := List.mem_of_find?_eq_some hw
  have hentry : (q, s.chan q) ∈ s.chans := by
    rcases look_mem_or ({} : Chan) s.chans q with h | h
    · rw [State.chan, h] at hmem
      cases hmem
    · exact h
  let Q : State → Prop := fun u => u.work? q w.serial = some w ∨ u.work? q w.serial = some w.emptied
  let R : State → Prop := fun u => u.work? q w.serial = some w.emptied
  have hQ : ∀ k u v, Q u → Q (State.discardWork p k u v) := fun k u v hu =>
    (discardWork_work? p k u v hu).1.elim (fun h => hu.imp h.trans h.trans) .inr
  have hR : ∀ k u v, R u → R (State.discardWork p k u v) := fun k u v hu =>
    (discardWork_work? p k u v (.inr hu)).1.elim (fun h => h.trans hu) id
  have hfold : ∀ {P : State → Prop}, (∀ k u v, P u → P (State.discardWork p k u v)) → ∀ k (l : List Work) u, P u →
      P (l.foldl (State.discardWork p k) u) := fun hP k l => by
    induction l with
    | nil => exact fun _ h => h
    | cons v l ih => exact fun u h => ih _ (hP k u v h)
  rw [discardOut_eq]
  refine foldl_reaches (Q := Q) (R := R) (fun u e => hfold hQ e.1 e.2.started u) (fun u e => hfold hR e.1 e.2.started u)
    ⟨(q, s.chan q), hentry, fun u hu => ?_⟩ (.inl hw)
  exact foldl_reaches (Q := Q) (R := R) (hQ q) (hR q)
    ⟨w, hmem, fun t ht => (discardWork_work? p q t w ht).2 rfl rfl hin⟩ hu

end Sys2Proof.Machine
end

section
/-! The scrubber (R213 to R216) and the statement on stream beats and scrubbing. -/

namespace Sys2Proof.Machine

variable {s t u : State} {p q n k : Nat} {w : Work} {x : Port} {f : CruFault}

/-! ### Fault counts -/

theorem not_uncorrectable (h : f.corrected = true) : f.uncorrectable = false := by
  rw [CruFault.corrected, Bool.and_eq_true, beq_iff_eq, beq_iff_eq] at h
  rw [CruFault.uncorrectable, h.1, h.2, bne_self_eq_false]
  rfl

theorem raise_pending (s : State) {k : Nat} (hk : k < 1476) : (s.raise k).isPending k = true := by
  rw [raise_isPending hk hk, decide_eq_true rfl, Bool.true_or]

theorem countFault_ue (h : f.uncorrectable = true) :
    (s.countFault f).cru = { s.cru with ue := put s.cru.ue f.bank (satAdd 16 (look 0 s.cru.ue f.bank) 1) }
    ∧ (s.countFault f).safety = s.safety ∧ (f.bank < 16 → (s.countFault f).isPending (1432 + f.bank) = true) := by
  unfold State.countFault
  rw [if_pos h]
  exact ⟨((Aside.refl _).raise _).cru, ((Aside.refl _).raise _).safety, fun hb => raise_pending _ (by omega)⟩

theorem countFault_ce (h : f.corrected = true) :
    (s.countFault f).cru = { s.cru with ce := put s.cru.ce f.bank (satAdd 16 (look 0 s.cru.ce f.bank) 1) }
    ∧ (s.countFault f).safety = s.safety
    ∧ (s.cru.thresh ≠ 0 → satAdd 16 (look 0 s.cru.ce f.bank) 1 % s.cru.thresh = 0 → f.bank < 16 →
        (s.countFault f).isPending (1432 + f.bank) = true) := by
  unfold State.countFault
  rw [if_neg (by rw [not_uncorrectable h]; decide), if_pos h]
  dsimp only
  split
  · exact ⟨((Aside.refl _).raise _).cru, ((Aside.refl _).raise _).safety, fun _ _ hb => raise_pending _ (by omega)⟩
  · next hno => exact ⟨rfl, rfl, fun hpos hmod => absurd ⟨hpos, hmod⟩ hno⟩

theorem setCause_cru (s : State) (b : Nat) : (s.setCause b).cru = s.cru := by
  cases h : s.safety.asserted with
  | true => rw [setCause_of_asserted h]
  | false =>
    unfold State.setCause
    dsimp only
    rw [if_neg (by rw [h]; decide)]
    obtain ⟨g, hlog⟩ := log_aside (State.raiseUp _ 1416) 0x10 0xFF
      (leBytes 4 (s.safety.cause ||| BitVec.ofNat 16 (2 ^ b)).toNat)
    exact hlog.cru.trans (Aside.raiseUp (Aside.refl _) 1416).cru

/-! ### The scrubber -/

section
variable (hon : s.cru.scrub ≠ 0) (hup : cclkUp s = true) (hcru : s.rst.crucible = true)
include hon hup hcru

theorem exec_scrubCell (ctx : List CtxFault) (found : List CruFault) : exec (.scrubCell ctx found) s
    = .next (s.settle (let t := (found.filter fun f => f.cell == s.cru.scrubCell).foldl State.scrubbed (s.ctxFaults ctx)
        { t with cru := { t.cru with scrubCell := (s.cru.scrubCell + 1) % s.member.cells } })) := by
  show execScrubCell ctx found s = _
  unfold execScrubCell
  rw [if_neg (by
    rintro (h | h)
    · exact hon h
    · rw [hup, hcru] at h
      cases h)]
  rfl

end

/-- The state with a rewrite of the faulty word queued. -/
def State.rewriting (s : State) (f : CruFault) : State :=
  { s with cru := { s.cru with rewrites := s.cru.rewrites ++ [{ addr := f.addr, zero := f.uncorrectable }] } }

theorem scrubbed_ue (h : f.uncorrectable = true) : s.scrubbed f
    = (if s.cellHeld f.cell = true then s.countFault f else (s.countFault f).rewriting f).setCause 3 := by
  unfold State.scrubbed
  dsimp only
  rw [if_pos h]
  rfl

theorem scrubbed_ce (h : f.corrected = true) : s.scrubbed f = (s.countFault f).rewriting f := by
  unfold State.scrubbed
  dsimp only
  rw [if_neg (by rw [not_uncorrectable h]; decide), if_pos h]
  rfl

theorem scrubbed_none (hu : f.uncorrectable = false) (hc : f.corrected = false) : s.scrubbed f = s := by
  unfold State.scrubbed State.countFault
  dsimp only
  rw [if_neg (by rw [hu]; decide), if_neg (by rw [hc]; decide), if_neg (by rw [hu]; decide), if_neg (by rw [hc]; decide)]

theorem scrubbed_rewrites (s : State) (f : CruFault) : (s.scrubbed f).cru.rewrites
    = if f.uncorrectable = true ∧ s.cellHeld f.cell = true then s.cru.rewrites
      else if f.uncorrectable = true ∨ f.corrected = true
        then s.cru.rewrites ++ [{ addr := f.addr, zero := f.uncorrectable }]
      else s.cru.rewrites := by
  cases hu : f.uncorrectable with
  | true =>
    rw [scrubbed_ue hu, setCause_cru]
    by_cases hheld : s.cellHeld f.cell = true
    · rw [if_pos hheld, if_pos ⟨rfl, hheld⟩, (countFault_ue hu).1]
    · rw [if_neg hheld, if_neg fun h => hheld h.2, if_pos (.inl rfl), State.rewriting, (countFault_ue hu).1, hu]
  | false =>
    rw [if_neg (by simp)]
    cases hc : f.corrected with
    | true =>
      rw [scrubbed_ce hc, if_pos (.inr rfl), State.rewriting, (countFault_ce hc).1, hu]
    | false => rw [scrubbed_none hu hc, if_neg (by simp)]

theorem scrubbed_cause (s : State) (f : CruFault) : (s.scrubbed f).safety.cause
    = s.safety.cause ||| (if f.uncorrectable = true then 8#16 else 0) := by
  cases hu : f.uncorrectable with
  | true =>
    have hsafe : (if s.cellHeld f.cell = true then s.countFault f else (s.countFault f).rewriting f).safety = s.safety := by
      split
      · exact (countFault_ue hu).2.1
      · exact (countFault_ue hu).2.1
    rw [scrubbed_ue hu, setCause_cause, hsafe]
    rfl
  | false =>
    have hzero : s.safety.cause ||| (if false = true then 8#16 else 0) = s.safety.cause := BitVec.or_zero
    rw [hzero]
    cases hc : f.corrected with
    | true =>
      rw [scrubbed_ce hc]
      exact congrArg Safety.cause (countFault_ce hc).2.1
    | false => rw [scrubbed_none hu hc]

theorem bank_lt (f : CruFault) : f.bank < 16 := Nat.mod_lt _ (by decide)

theorem scrubbed_counts (s : State) (f : CruFault) :
    (f.uncorrectable = true → look 0 (s.scrubbed f).cru.ue f.bank = satAdd 16 (look 0 s.cru.ue f.bank) 1
      ∧ (s.scrubbed f).isPending (1432 + f.bank) = true)
    ∧ (f.corrected = true → look 0 (s.scrubbed f).cru.ce f.bank = satAdd 16 (look 0 s.cru.ce f.bank) 1
      ∧ (s.cru.thresh ≠ 0 → satAdd 16 (look 0 s.cru.ce f.bank) 1 % s.cru.thresh = 0 →
          (s.scrubbed f).isPending (1432 + f.bank) = true)) := by
  have hb := bank_lt f
  refine ⟨fun hu => ?_, fun hc => ?_⟩
  · obtain ⟨hcru, -, hevent⟩ := countFault_ue (s := s) hu
    rw [scrubbed_ue hu, setCause_cru]
    have hue : (if s.cellHeld f.cell = true then s.countFault f else (s.countFault f).rewriting f).cru.ue
        = put s.cru.ue f.bank (satAdd 16 (look 0 s.cru.ue f.bank) 1) := by
      split
      · exact congrArg Crucible.ue hcru
      · exact congrArg Crucible.ue hcru
    have hwane : Waning (s.countFault f)
        (if s.cellHeld f.cell = true then s.countFault f else (s.countFault f).rewriting f) :=
      Waning.ite (Waning.refl _) (Waning.refl _).upd
    exact ⟨by rw [hue, look_put_same], (hwane.setCause 3).bits _ (by omega) (hevent hb)⟩
  · obtain ⟨hcru, -, hevent⟩ := countFault_ce (s := s) hc
    rw [scrubbed_ce hc]
    have hwane : Waning (s.countFault f) ((s.countFault f).rewriting f) := (Waning.refl _).upd
    refine ⟨?_, fun hpos hmod => hwane.bits _ (by omega) (hevent hpos hmod hb)⟩
    rw [State.rewriting, hcru, look_put_same]

/-! ### Rewrites -/

theorem wrote_rewrites (s : State) (h n i k : Nat) : (s.wrote h n i k).cru.rewrites
    = s.cru.rewrites.map fun r =>
      if ∃ j < k, s.cruAddr h n (i + j) = r.addr then { r with written := true } else r := by
  show mapIf _ _ _ = _
  unfold mapIf
  refine List.map_congr_left fun r _ => if_congr ?_ rfl rfl
  simp only [List.any_eq_true, List.mem_range, beq_iff_eq]

theorem takeFirst_append {α : Type} {m : α → Bool} {a : α} (ha : m a = true) {old : List α}
    (hold : ∀ o ∈ old, m o = false) (rest : List α) : takeFirst m (old ++ a :: rest) = some (a, old ++ rest) := by
  induction old with
  | nil => exact if_pos ha
  | cons o old ih =>
    obtain ⟨ho, htail⟩ := List.forall_mem_cons.1 hold
    rw [List.cons_append, takeFirst, if_neg (by rw [ho]; decide), ih htail]
    rfl

theorem exec_scrubRewrite {bank : Nat} {old rest : List Rewrite} {r : Rewrite} (h : s.cru.rewrites = old ++ r :: rest)
    (hr : r.bank = bank) (hold : ∀ o ∈ old, o.bank ≠ bank) (written : Bool) : exec (.scrubRewrite bank written) s
      = .next (if (r.written || written) = true then { s with cru := { s.cru with rewrites := old ++ rest } }
        else ({ s with cru := { s.cru with rewrites := old ++ rest } } : State).raise 1419) := by
  show execScrubRewrite bank written s = _
  unfold execScrubRewrite
  rw [h, takeFirst_append (m := fun r : Rewrite => r.bank == bank) (beq_iff_eq.2 hr)
    (fun o ho => beq_eq_false_iff_ne.2 (hold o ho)) rest]

/-! ### The statement -/

section
variable {b : StreamBeat}

/-- What becomes of a beat that arrives. -/
theorem exec_inboundBeatAccept (hon : s.inboundOn p = true) :
    ((s.port p).refusingIn = false → (s.port p).inq.length < 32 →
      exec (.inboundBeatAccept p b) s = .next (s.settle (s.setPort p { s.port p with inq := (s.port p).inq ++ [b] })))
    ∧ ((s.port p).refusingIn = true → exec (.inboundBeatAccept p b) s = .next (s.settle (s.setPort p { s.port p with
        ovfWords := satAdd 32 (s.port p).ovfWords b.counted, refusingIn := !b.ends })))
    ∧ ((s.port p).refusingIn = false → 32 ≤ (s.port p).inq.length → (splitTail (s.port p).inq).1 = [] →
      ((s.port p).refusing = true ∨ (s.port p).dropping = true → exec (.inboundBeatAccept p b) s
        = .next (s.settle (s.setPort p { s.port p with
          inq := [], refusingIn := !b.ends, refusing := false, dropping := false
          ovfWords := satAdd 32 (s.port p).ovfWords ((s.port p).cutWords b) })))
      ∧ ((s.port p).refusing = false → (s.port p).dropping = false → exec (.inboundBeatAccept p b) s
        = .next (s.settle ((s.setPort p ((s.port p).refusedBy s.member.flagPolicy
          { (s.port p).retract (s.port p).parison.length with
            inq := [], refusingIn := !b.ends, parison := []
            ovfWords := satAdd 32 (s.port p).ovfWords ((s.port p).parison.length + (s.port p).cutWords b) })).raise
              (portEvent p 2)))))
    ∧ ((s.port p).refusingIn = false → 32 ≤ (s.port p).inq.length → (splitTail (s.port p).inq).1 ≠ [] → ∃ y : Port,
      y = (s.port p).refusedBy s.member.flagPolicy { (s.port p).retract 0 with
        inq := (splitTail (s.port p).inq).1, refusingIn := !b.ends, parison := []
        ovfWords := satAdd 32 (s.port p).ovfWords ((s.port p).cutWords b) }
      ∧ exec (.inboundBeatAccept p b) s = .next (s.settle (((s.setPort p y).raise (portEvent p 2)).modPort p fun z =>
        { z with parison := (s.port p).parison }))) := by
  refine ⟨fun hri hroom => exec_inboundBeatAccept_queued rfl hon hri hroom, fun hri => ?_, fun hri hfull hnone =>
    ⟨fun h => ?_, fun hr hd => ?_⟩, fun hri hfull hsome => ⟨_, rfl, ?_⟩⟩
  · rw [exec_inboundBeatAccept_refused rfl hon (.inl hri), refuseIn_goes rfl hri]
  · rw [exec_inboundBeatAccept_refused rfl hon (.inr hfull), refuseIn_here rfl hri hnone h]
  · rw [exec_inboundBeatAccept_refused rfl hon (.inr hfull), refuseIn_whole rfl hri hnone hr hd]
  · rw [exec_inboundBeatAccept_refused rfl hon (.inr hfull), refuseIn_behind rfl hri hsome]

end

/-- Settles O38: beats by what their port does with them, beats formed and delivered by their works, the flush by a fold
over the works of the FIFO, the scrubber by the fault that it meets. -/
theorem streamBeatsAndScrubbing : Obligations.StreamBeatsAndScrubbing := by
  unfold Obligations.StreamBeatsAndScrubbing
  intro s p
  refine ⟨splitTail_spec _, fun b hon => exec_inboundBeatAccept hon, fun b rest hinq hup hcru => ?_,
    fun b hlen => ⟨fun j hj => tdata_word b hj, tuser_spec hlen⟩,
    fun b found hon hdir hup hb => exec_outboundBeatAccept rfl hon hdir hup hb found,
    fun b => ⟨fun h => beatDelivered_nothing h, fun q w hb hof hw hab hpass hhalf hcrc =>
      beatDelivered_bits hb hof hw hab hpass hhalf hcrc⟩,
    fun q n l w ht hw hroom => ⟨fun hnone => ⟨fun found => ?_, pumpPort_none rfl ht hw hroom hnone⟩,
      fun ws hsome => ⟨fun found hok => ?_, fun found hbad => ?_, pumpPort_forms rfl ht hw hroom hsome⟩⟩,
    fun hwait hdir hread => exec_inboundFlushEdge rfl hwait hdir hread, beingRead_iff s p,
    fun hwait hdir hbound => ⟨exec_outboundFlushEdge rfl hwait hdir hbound, discardOut_port s p,
      fun q w hw hvia hdst => discardOut_work? hw hvia hdst⟩,
    fun hon hup hcru => ⟨fun ctx found u hu hother => ?_, fun f hf => ?_⟩, wrote_rewrites s,
    fun bank old r rest h hr hold => ⟨fun w hw => ?_, fun hno => ?_⟩⟩
  · have hexec := exec_inboundBeatPop rfl hinq hup hcru
    refine ⟨fun hcut => ?_, fun hcut hdrop => ?_, fun hcut hdrop href => ?_, fun hcut hdrop href hroom =>
      ⟨fun hend => ?_, fun hlast habort hlow hhigh => ⟨fun hnone => ?_, fun q n l ht => ?_⟩, fun hbad => ?_⟩,
      fun hcut hdrop href hroom => ?_⟩
    · rw [hexec, if_pos hcut]
    · rw [hexec, if_neg (by rw [hcut]; decide), if_pos hdrop]
    · rw [hexec, if_neg (by rw [hcut]; decide), if_neg (by rw [hdrop]; decide), if_pos href]
    · rw [hexec, if_neg (by rw [hcut]; decide), if_neg (by rw [hdrop]; decide), if_neg (by rw [href]; decide),
        if_pos hroom, packBeat_middle hend]
    · rw [hexec, if_neg (by rw [hcut]; decide), if_neg (by rw [hdrop]; decide), if_neg (by rw [href]; decide),
        if_pos hroom, packBeat_kept hlast habort hlow hhigh hnone]
      rfl
    · rw [hexec, if_neg (by rw [hcut]; decide), if_neg (by rw [hdrop]; decide), if_neg (by rw [href]; decide),
        if_pos hroom, packBeat_taken hlast habort hlow hhigh ht]
      rfl
    · rw [hexec, if_neg (by rw [hcut]; decide), if_neg (by rw [hdrop]; decide), if_neg (by rw [href]; decide),
        if_pos hroom, packBeat_rewinds hbad]
    · rw [hexec, if_neg (by rw [hcut]; decide), if_neg (by rw [hdrop]; decide), if_neg (by rw [href]; decide),
        if_neg (by rw [hroom]; decide), popRefused]
      rfl
  · rw [pumpRead_eq rfl ht hw hroom, if_pos (by rw [hnone]; rfl)]
  · rw [pumpRead_eq rfl ht hw hroom, if_neg (by rw [hsome]; nofun), if_neg (by rw [hok]; decide)]
  · rw [pumpRead_eq rfl ht hw hroom, if_neg (by rw [hsome]; nofun), if_pos hbad]
  · rw [exec_scrubCell hon hup hcru, List.filter_eq_nil_iff.2 fun f hf => by
      rw [beq_iff_eq]
      exact hother f hf, hu]
    rfl
  · have hbank : f.bank = s.cru.scrubCell % 16 := congrArg (· % 16) hf
    have hfound : [f].filter (fun g => g.cell == s.cru.scrubCell) = [f] := List.filter_eq_self.2 fun g hg => by
      rw [List.mem_singleton.1 hg, beq_iff_eq]
      exact hf
    have hexec := exec_scrubCell hon hup hcru [] [f]
    rw [hfound] at hexec
    have hwane : Waning (s.scrubbed f) { s.scrubbed f with cru := { (s.scrubbed f).cru with
        scrubCell := (s.cru.scrubCell + 1) % s.member.cells } } := (Waning.refl _).upd
    obtain ⟨hue, hce⟩ := scrubbed_counts s f
    have hlt : 1432 + s.cru.scrubCell % 16 < 1476 := by omega
    rw [hbank] at hue hce
    refine ⟨_, hexec, rfl, ?_, scrubbed_cause s f, fun h => ⟨(hue h).1, hwane.bits _ hlt (hue h).2⟩, fun h =>
      ⟨(hce h).1, fun hpos hmod => hwane.bits _ hlt ((hce h).2 hpos hmod)⟩⟩
    rw [← hf]
    exact scrubbed_rewrites s f
  · rw [exec_scrubRewrite h hr hold, if_pos (by rw [Bool.or_eq_true]; exact hw)]
  · rw [exec_scrubRewrite h hr hold, if_neg (by rw [hno]; decide)]

end Sys2Proof.Machine
end

section
/-! PROOF. Two statements that a faulty context word refutes: a resolve whose record has not been read, and a sweep whose read has
not returned, leave the count of the faulty words that they met (R282). -/

namespace Sys2Proof.Machine

/-- A corrected context word of the Cullet. -/
def correctedWord : CtxFault := ⟨.cullet, false⟩

/-- The corrected word is counted. -/
theorem ctxFaults_corrected_ctxCe (s : State) :
    (s.ctxFaults [correctedWord]).safety.ctxCe = satAdd 16 s.safety.ctxCe 1 := by
  show ((State.raise _ 1411).raise 1419).safety.ctxCe = _
  rw [control_safety ((raise_control _ 1419).trans (raise_control _ 1411))]

/-- The edge's decisions do not undo the count: an outcome that counts the word is not that of the state before it. -/
theorem settle_ctxFaults_ne {s : State} (h : s.safety.ctxCe = 0) :
    s.settle (s.ctxFaults [correctedWord]) ≠ s.settle s := by
  intro heq
  have hcount := congrArg (fun t : State => t.safety.ctxCe) heq
  rw [control_safety (settle_control s _), control_safety (settle_control s s), ctxFaults_corrected_ctxCe, h] at hcount
  exact absurd hcount (by decide)

section
variable {s : State} {p : Nat} {ctx : List CtxFault}

theorem exec_handleResolve (h : ((s.chan p).started.any fun w => w.live && w.chain == .unresolved) = true) :
    exec (.handleResolve p ctx) s = .next (s.settle ((s.ctxFaults ctx).resolveHead p)) := by
  show settled s (if _ then _ else _) = _
  rw [if_pos h]
  rfl

theorem resolveHead_waits {w : Work}
    (hw : (s.chan p).started.find? (fun w => w.live && w.chain == .unresolved) = some w)
    (hknown : s.staleIndex w.desc.srcAddr = false) (hrec : w.headRec = none) : s.resolveHead p = s := by
  unfold State.resolveHead
  rw [hw]
  dsimp only
  rw [hknown, hrec]
  rfl

theorem exec_sweepRecord {l m : List CtxFault} (h : s.cul.sweep = true) :
    exec (.sweepRecord l m) s = .next (s.settle ((s.ctxFaults l).ctxFaults m).sweepNextRec) := by
  show settled s (if _ then _ else _) = _
  rw [if_pos h]
  rfl

theorem sweepNextRec_waits (h : s.sweepRec s.cul.sweepPos = none) : s.sweepNextRec = s := by
  unfold State.sweepNextRec
  dsimp only
  rw [h]

end

/-- A piece of work that resolves handle 1:0, whose head record has not been read. -/
def resolvingWork : Work :=
  { serial := 0, idx := 0, desc := { q1 := 2 ^ 27 }, chain := .unresolved }

/-- Channel 0 holds that work; the pool has its gob. -/
def resolvingState : State :=
  { chans := [(0, { ({} : Chan) with started := [resolvingWork] })], cul := { count := 1, fresh := 1 } }

/-- Refutes O39: a resolve that waits for its head record still counts the faulty context words of its edge, so it does not end
in the settled state before it. Witness: one corrected word of the Cullet, met by the work of `resolvingState`. -/
theorem not_gobsAreGrantedAndResolved : ¬ Obligations.GobsAreGrantedAndResolved := by
  intro h
  obtain ⟨-, -, -, -, -, -, -, -, hresolve, -⟩ := h resolvingState
  have hfind : ((resolvingState.ctxFaults [correctedWord]).chan 0).started.find?
      (fun w => w.live && w.chain == .unresolved) = some resolvingWork := by decide
  obtain ⟨-, hwaits, -⟩ := hresolve 0 [correctedWord] _ resolvingWork rfl (by decide) hfind
  have hknown : (resolvingState.ctxFaults [correctedWord]).staleIndex resolvingWork.desc.srcAddr = false := by decide
  have hrun : exec (.handleResolve 0 [correctedWord]) resolvingState
      = .next (resolvingState.settle (resolvingState.ctxFaults [correctedWord])) := by
    rw [exec_handleResolve (by decide), resolveHead_waits hfind hknown rfl]
  exact settle_ctxFaults_ne rfl (Host.Outcome.next.inj (hrun.symm.trans (hwaits hknown rfl)))

/-- A sweep over one gob whose read has not returned. -/
def sweepingState : State := { cul := { count := 1, fresh := 1, sweep := true, sweepEnd := 1 } }

/-- Refutes O40: a sweep that waits for its read still counts the faulty context words of its edge, so it does not end in the
settled state before it. Witness: one corrected word of the Cullet in `sweepingState`. -/
theorem not_gobsAreFreedAndSwept : ¬ Obligations.GobsAreFreedAndSwept := by
  intro h
  obtain ⟨-, -, -, -, -, -, -, hsweep, -⟩ := h sweepingState
  obtain ⟨hwaits, -⟩ := hsweep [correctedWord] [] _ rfl rfl
  have hrec : (sweepingState.ctxFaults [correctedWord]).sweepRec (sweepingState.ctxFaults [correctedWord]).cul.sweepPos
      = none := by decide
  have hrun : exec (.sweepRecord [correctedWord] []) sweepingState
      = .next (sweepingState.settle (sweepingState.ctxFaults [correctedWord])) :=
    (exec_sweepRecord rfl).trans (congrArg (fun t => Host.Outcome.next (sweepingState.settle t)) (sweepNextRec_waits hrec))
  exact settle_ctxFaults_ne rfl (Host.Outcome.next.inj (hrun.symm.trans (hwaits hrec)))

end Sys2Proof.Machine
end

section
/-! PROOF. Remote requests (R248 to R265): the place that a ready channel takes in turn, the frame that leaves a port, what a
response does to its request, and a time-out. -/

namespace Sys2Proof.Machine

section
variable {s : State} {p : Nat} {w : Work} {q : XReq}

/-! ### The place grant -/

/-- In rotation from `ptr`, the first index that meets `f` is the one at the least distance. -/
theorem find_rotated {ptr : Nat} (hptr : ptr < 128) (hp : p < 128) {f : Nat → Bool} (hf : f p = true)
    (hmin : ∀ o, o < 128 → f o = true → (p + 128 - ptr) % 128 ≤ (o + 128 - ptr) % 128) :
    ((List.range 128).map fun i => (ptr + i) % 128).find? f = some p := by
  have hlen : (p + 128 - ptr) % 128 < 128 := Nat.mod_lt _ (by decide)
  rw [List.find?_eq_some_iff_getElem]
  refine ⟨hf, (p + 128 - ptr) % 128, by simpa using hlen, ?_, fun j hj => ?_⟩
  · rw [List.getElem_map, List.getElem_range]
    omega
  · rw [List.getElem_map, List.getElem_range]
    cases hfj : f ((ptr + j) % 128) with
    | false => rfl
    | true =>
      have hdist := hmin _ (Nat.mod_lt _ (by decide)) hfj
      omega

/-- The pointer of the place grant stands behind channel `p`. -/
def State.placed (s : State) (p : Nat) : State := { s with xez := { s.xez with placePtr := (p + 1) % 128 } }

/-- What the place grant does to the ready work `w` of the channel whose turn it is. -/
theorem exec_xezanPlaceGrant (hxez : s.member.hasXezan = true) (hclk : cclkUp s = true) (hcru : s.rst.crucible = true)
    (hopt : s.opt.bad = false) (hplace : s.xez.outstanding < 1024) (hptr : s.xez.placePtr < 128) (hp : p < 128)
    (hready : s.readyWork p = some (w, q))
    (hmin : ∀ o, o < 128 → (s.readyWork o).isSome = true →
      (p + 128 - s.xez.placePtr) % 128 ≤ (o + 128 - s.xez.placePtr) % 128) (found : List CruFault) :
    exec (.xezanPlaceGrant found) s = .next (s.settle (if s.isStale p w then s.staleEdge p w
      else if (w.desc.toRemote && eccUe found) = true then
        (if w.desc.toRemote then (s.placed p).countEcc found else s.placed p).eccFault p w.serial
      else (if w.desc.toRemote then (s.placed p).countEcc found else s.placed p).formReq p w q)) := by
  have hup : s.xezanUp = true := by
    unfold State.xezanUp
    rw [hxez, hclk, hcru]
    rfl
  have hidle : (!s.xezanUp || s.opt.bad || decide (1024 ≤ s.xez.outstanding)) = false := by
    rw [hup, hopt, decide_eq_false (Nat.not_le.2 hplace)]
    rfl
  show execXezanPlaceGrant found s = _
  unfold execXezanPlaceGrant
  rw [if_neg (by rw [hidle]; decide),
    find_rotated (f := fun p => (s.readyWork p).isSome) hptr hp (by rw [hready]; rfl) hmin]
  dsimp only
  rw [hready]
  dsimp only
  by_cases hstale : s.isStale p w = true
  · rw [if_pos hstale, if_pos hstale]
    rfl
  · rw [if_neg hstale, if_neg hstale]
    rfl

/-- The four outcomes of the grant, by whether the work is stale, writes remotely and reads an uncorrectable word. -/
theorem xezanPlaceGrant_cases (hxez : s.member.hasXezan = true) (hclk : cclkUp s = true) (hcru : s.rst.crucible = true)
    (hopt : s.opt.bad = false) (hplace : s.xez.outstanding < 1024) (hptr : s.xez.placePtr < 128) (hp : p < 128)
    (hready : s.readyWork p = some (w, q))
    (hmin : ∀ o, o < 128 → (s.readyWork o).isSome = true →
      (p + 128 - s.xez.placePtr) % 128 ≤ (o + 128 - s.xez.placePtr) % 128) (found : List CruFault) :
    (s.isStale p w = true → exec (.xezanPlaceGrant found) s = .next (s.settle (s.staleEdge p w)))
    ∧ (s.isStale p w = false → w.desc.toRemote = false →
      exec (.xezanPlaceGrant found) s = .next (s.settle ((s.placed p).formReq p w q)))
    ∧ (s.isStale p w = false → w.desc.toRemote = true → eccUe found = false →
      exec (.xezanPlaceGrant found) s = .next (s.settle (((s.placed p).countEcc found).formReq p w q)))
    ∧ (s.isStale p w = false → w.desc.toRemote = true → eccUe found = true → exec (.xezanPlaceGrant found) s
      = .next (s.settle ((((s.placed p).countEcc found).failWork p w.serial .eccUncorrected).chanCause p 3))) := by
  rw [exec_xezanPlaceGrant hxez hclk hcru hopt hplace hptr hp hready hmin found]
  refine ⟨fun h => ?_, fun h hto => ?_, fun h hto hue => ?_, fun h hto hue => ?_⟩
  · rw [if_pos h]
  · rw [if_neg (by rw [h]; decide), hto]
    rfl
  · rw [if_neg (by rw [h]; decide), hto, hue]
    rfl
  · rw [if_neg (by rw [h]; decide), hto, hue]
    rfl

/-! ### The request that is formed -/

theorem takeLane_xez (s : State) (b : Nat) (l : Landing) (n : Nat) : (s.takeLane b l n).xez = s.xez := by
  unfold State.takeLane
  split <;> rfl

theorem claimPort_xez (s : State) (p n : Nat) : (s.claimPort p n).xez = s.xez ∧ (s.claimPort p n).nextId = s.nextId := by
  unfold State.claimPort
  split
  · exact ⟨rfl, rfl⟩
  · split <;> exact ⟨rfl, rfl⟩

theorem takeSeq_counter (s : State) (peer p : Nat) :
    ((s.takeSeq peer p).sendState peer p).counter = (s.sendState peer p).counter + 1 := by
  unfold State.takeSeq
  rw [State.sendState, look_put_same]

/-- The request with its cell stands last, and has the sequence number. -/
theorem formReq_xez (s : State) (p : Nat) (w : Work) (q : XReq) :
    (s.formReq p w q).nextId = s.nextId + 1
    ∧ (s.formReq p w q).xez = { (s.takeSeq w.peer p).xez with
        reqs := s.xez.reqs ++ [{ q with cell := s.nextCell (benchOf p) q.landing }] } := by
  have hid := (takeLane_txns s (benchOf p) q.landing q.space).2.1
  have hxez := takeLane_xez s (benchOf p) q.landing q.space
  have hseq : ((s.takeLane (benchOf p) q.landing q.space).takeSeq w.peer p).xez = (s.takeSeq w.peer p).xez := by
    unfold State.takeSeq State.sendState
    rw [hxez]
  have hreqs : (s.takeSeq w.peer p).xez.reqs = s.xez.reqs := rfl
  unfold State.formReq
  dsimp only
  split
  · refine ⟨congrArg (· + 1) hid, ?_⟩
    show ({ State.xez _ with reqs := _ } : Xezan) = _
    rw [hseq, hreqs]
  · obtain ⟨hx, hn⟩ := claimPort_xez _ p w.serial
    refine ⟨hn.trans (congrArg (· + 1) hid), hx.trans ?_⟩
    show ({ State.xez _ with reqs := _ } : Xezan) = _
    rw [hseq, hreqs]

end

end Sys2Proof.Machine
end

section
/-! PROOF. Remote requests, continued: the frame that leaves a port (R251), what a response does to its request (R260,
Table 9-2), and a time-out (R261, R262). -/

namespace Sys2Proof.Machine

section
variable {s : State} {port : Nat} {q : XReq} {w : Work}

/-! ### The frame that leaves -/

theorem exec_frameSent_response (hon : s.xezanOn port = true) (hopt : s.opt.bad = false) {old rest : List (Nat × List Byte)}
    {r : List Byte} (hq : s.xez.respq = old ++ (port, r) :: rest) (hold : ∀ o ∈ old, o.1 ≠ port) :
    exec (.xezanFrameSent port) s = .next { s with xez := { s.xez with
      respq := old ++ rest, sent := put s.xez.sent port r } } := by
  have htake := takeFirst_append (m := fun r : Nat × List Byte => r.1 == port) (a := (port, r)) (beq_iff_eq.2 rfl)
    (fun o ho => beq_eq_false_iff_ne.2 (hold o ho)) rest
  show execXezanFrameSent port s = _
  unfold execXezanFrameSent
  rw [if_neg (by rw [hon, hopt]; decide), hq, htake]
  rfl

theorem exec_frameSent_request (hon : s.xezanOn port = true) (hopt : s.opt.bad = false)
    (hq : ∀ o ∈ s.xez.respq, o.1 ≠ port) (hnext : s.nextSend port = some q) (hab : q.abandoned = false) :
    exec (.xezanFrameSent port) s = .next { s with xez := { s.xez with
      reqs := s.xez.reqs.map fun r => if r.id == q.id then { r with phase := .sent s.now.refclk } else r
      turnPtr := put s.xez.turnPtr (4 * port + q.hdr.svc) q.pch
      sent := put s.xez.sent port (frameBytes q.hdr q.payload) } } := by
  show execXezanFrameSent port s = _
  unfold execXezanFrameSent
  rw [if_neg (by rw [hon, hopt]; decide),
    takeFirst_none (fun r : Nat × List Byte => r.1 == port) _ fun o ho => beq_eq_false_iff_ne.2 (hq o ho)]
  dsimp only
  rw [hnext]
  dsimp only
  rw [hab]
  rfl

/-! ### A response that arrives -/

/-- The outstanding request that a response ends. -/
def XReq.answeredBy (h : FrameHdr) : XReq → Bool :=
  fun q => !q.abandoned && q.pch == h.chan && q.hdr.seq == h.seq && q.hdr.dstId == h.srcId

section
variable {frame : List Byte} {bad : Bool} {e : Nat}

theorem exec_response_discarded (hon : s.xezanOn port = true) (hr : s.receive frame bad ≠ .good) :
    exec (.xezanResponseArrival port frame bad) s = .next (s.settle (s.discardFrame (s.receive frame bad))) := by
  show execXezanResponseArrival port frame bad s = _
  unfold execXezanResponseArrival
  dsimp only
  rw [if_neg (by rw [hon]; decide), if_pos hr]
  rfl

theorem exec_response_unknown (hon : s.xezanOn port = true) (hr : s.receive frame bad = .good)
    (hkind : (frameHdr frame).isResponse = true) (hpeer : s.peerOf (frameHdr frame).srcId = none) :
    exec (.xezanResponseArrival port frame bad) s = .next (s.settle s.unknownPeer) := by
  show execXezanResponseArrival port frame bad s = _
  unfold execXezanResponseArrival
  dsimp only
  rw [if_neg (by rw [hon]; decide), if_neg (not_not_intro hr), if_neg (by rw [hkind]; decide), hpeer]
  rfl

theorem exec_response_late (hon : s.xezanOn port = true) (hr : s.receive frame bad = .good)
    (hkind : (frameHdr frame).isResponse = true) (hpeer : s.peerOf (frameHdr frame).srcId = some e)
    (hnone : s.xez.reqs.find? (XReq.answeredBy (frameHdr frame)) = none) :
    exec (.xezanResponseArrival port frame bad) s = .next (s.settle (({ s.clearSync e (frameHdr frame).chan with
      xez := { (s.clearSync e (frameHdr frame).chan).xez with
        late := satAdd 16 (s.clearSync e (frameHdr frame).chan).xez.late 1 } } : State).raise 1468)) := by
  show execXezanResponseArrival port frame bad s = _
  unfold execXezanResponseArrival
  dsimp only
  rw [if_neg (by rw [hon]; decide), if_neg (not_not_intro hr), if_neg (by rw [hkind]; decide), hpeer]
  dsimp only
  unfold XReq.answeredBy at hnone
  rw [hnone]
  rfl

theorem exec_response_applied (hon : s.xezanOn port = true) (hr : s.receive frame bad = .good)
    (hkind : (frameHdr frame).isResponse = true) (hpeer : s.peerOf (frameHdr frame).srcId = some e)
    (hsome : s.xez.reqs.find? (XReq.answeredBy (frameHdr frame)) = some q) :
    exec (.xezanResponseArrival port frame bad) s = .next (s.settle ((s.clearSync e (frameHdr frame).chan).applyResponse q
      (frameHdr frame) ((frame.drop 64).take (frameHdr frame).payloadLen))) := by
  show execXezanResponseArrival port frame bad s = _
  unfold execXezanResponseArrival
  dsimp only
  rw [if_neg (by rw [hon]; decide), if_neg (not_not_intro hr), if_neg (by rw [hkind]; decide), hpeer]
  dsimp only
  unfold XReq.answeredBy at hsome
  rw [hsome]
  rfl

end

/-! ### What it does to its request -/

section
variable {h : FrameHdr} {payload : List Byte}

theorem applyResponse_ok (hst : h.status = 0) : s.applyResponse q h payload
    = if q.hdr.kind = kindWriteReq then
        (s.delReq q.id).deliverBits q.pch q.serial (8 * q.vlo) (8 * (q.vlo + q.len))
      else (s.delReq q.id).landResponse q payload := by
  unfold State.applyResponse
  rw [hst, if_neg (by decide)]
  exact if_pos rfl

/-- The status of Table 9-2 for a response that refuses. -/
def refusedStatus (st : BitVec 8) : Status :=
  if st = 0x05 then .busError else if st = 0x07 then .eccUncorrected else .windowDenied

theorem applyResponse_refused (hold : h.status ≠ 0x06) (hok : h.status ≠ 0) : s.applyResponse q h payload
    = ((s.delReq q.id).freeReq q).failWork q.pch q.serial (refusedStatus h.status) := by
  unfold State.applyResponse
  rw [if_neg hold]
  exact if_neg hok

/-- What a response does, by its status. -/
theorem applyResponse_cases (s : State) (q : XReq) (h : FrameHdr) (payload : List Byte) :
    (h.status = 0x06 → s.applyResponse q h payload = s.reqTimeout q)
    ∧ (h.status = 0 → q.hdr.kind = kindReadReq →
      s.applyResponse q h payload = (s.delReq q.id).landResponse q payload)
    ∧ (∀ w, h.status = 0 → q.hdr.kind = kindWriteReq → s.work? q.pch q.serial = some w → w.abandoned = false →
      w.pass = false → w.desc.intHalf = false → w.desc.crcCheck = false →
      s.applyResponse q h payload = (s.delReq q.id).modWork q.pch q.serial fun _ => { w with
        delivered := addRange (8 * q.vlo) (8 * (q.vlo + q.len)) w.delivered })
    ∧ (h.status = 0x05 → s.applyResponse q h payload
      = ((s.delReq q.id).freeReq q).failWork q.pch q.serial .busError)
    ∧ (h.status = 0x07 → s.applyResponse q h payload
      = ((s.delReq q.id).freeReq q).failWork q.pch q.serial .eccUncorrected)
    ∧ ((h.status = 0x01 ∨ h.status = 0x02 ∨ h.status = 0x03 ∨ h.status = 0x04) → s.applyResponse q h payload
      = ((s.delReq q.id).freeReq q).failWork q.pch q.serial .windowDenied) := by
  refine ⟨fun hst => if_pos hst, fun hst hkind => ?_, fun w hst hkind hw hab hpass hhalf hcrc => ?_, fun hst => ?_,
    fun hst => ?_, fun hst => ?_⟩
  · rw [applyResponse_ok hst, if_neg (by rw [hkind]; decide)]
  · rw [applyResponse_ok hst, if_pos hkind]
    exact deliverBits_quiet (s := s.delReq q.id) hw hab hpass hhalf hcrc _ _
  · rw [applyResponse_refused (by rw [hst]; decide) (by rw [hst]; decide), hst]
    rfl
  · rw [applyResponse_refused (by rw [hst]; decide) (by rw [hst]; decide), hst]
    rfl
  · obtain hst | hst | hst | hst := hst <;>
    · rw [applyResponse_refused (by rw [hst]; decide) (by rw [hst]; decide), hst]
      rfl

theorem landResponse_gone (hw : s.work? q.pch q.serial = none) : s.landResponse q payload = s.freeReq q := by
  unfold State.landResponse
  rw [hw]

theorem landResponse_ended (hw : s.work? q.pch q.serial = some w) (hend : w.live = false ∨ (s.chan q.pch).state = .aborting) :
    s.landResponse q payload = s.freeReq q := by
  have hover : (!w.live || decide ((s.chan q.pch).state = .aborting)) = true := by
    simp only [Bool.or_eq_true, Bool.not_eq_true', decide_eq_true_iff]
    exact hend
  unfold State.landResponse
  rw [hw]
  exact if_pos hover

/-- The payload lands behind what the work holds. -/
theorem landResponse_lands (hw : s.work? q.pch q.serial = some w) (hlive : w.live = true)
    (hst : (s.chan q.pch).state ≠ .aborting) (hport : w.desc.toPort = false) :
    ((s.landResponse q payload).work? q.pch q.serial).map (fun x => x.landed.map fun g => (g.off, g.bytes))
      = some ((w.landed.map fun g => (g.off, g.bytes)) ++ [(q.vlo, payload)]) := by
  have hruns : (!w.live || decide ((s.chan q.pch).state = .aborting)) = false := by
    rw [hlive, decide_eq_false hst]
    rfl
  have hland : s.landResponse q payload
      = s.land q.pch q.serial q.landing q.space q.cell q.vlo payload := by
    unfold State.landResponse
    rw [hw]
    dsimp only
    rw [if_neg (by rw [hruns]; decide), if_neg (by rw [hport]; decide)]
  rw [hland]
  unfold State.land
  rw [hw]
  dsimp only
  rw [modWork_work? (s := State.wrote _ _ _ _ _) (w := w) ?hfound rfl]
  case hfound =>
    rw [State.work?, State.chan, show State.chans (State.wrote _ _ _ _ _) = _ from freeLane_chans _ _ _ _]
    exact hw
  show some ((w.landed ++ [_]).map _) = _
  rw [List.map_append]
  rfl

end

/-! ### Time-outs -/

theorem exec_requestTimeout {at_ : Nat} (hq : s.xez.reqs.find? (fun r => r.id == q.id && !r.abandoned) = some q)
    (hsent : q.phase = .sent at_) :
    exec (.xezanRequestTimeout q.id) s = .next (s.settle ((s.reachRefclk (at_ + s.xez.tmo)).reqTimeout q)) := by
  show execXezanRequestTimeout q.id s = _
  unfold execXezanRequestTimeout
  rw [hq]
  dsimp only
  rw [hsent]
  rfl

/-- A retry is queued again, last, with the next sequence number. -/
theorem reqTimeout_retries (hst : (s.chan q.pch).state ≠ .aborting) (hleft : q.retries < q.retryLimit) :
    ∃ u : State, s.reqTimeout q = u.raise 1469 ∧ u.xez.retries = satAdd 16 s.xez.retries 1
      ∧ u.xez.reqs = (s.delReq q.id).xez.reqs ++ [{ q with
          retries := q.retries + 1, phase := .queued
          hdr := { q.hdr with seq := (s.sendState q.peer q.pch).counter, sync := (s.sendState q.peer q.pch).sync } }]
      ∧ (u.sendState q.peer q.pch).counter = (s.sendState q.peer q.pch).counter + 1 := by
  unfold State.reqTimeout
  dsimp only
  rw [if_neg hst, if_pos hleft]
  exact ⟨_, rfl, rfl, rfl, takeSeq_counter s q.peer q.pch⟩

theorem reqTimeout_fails (hst : (s.chan q.pch).state ≠ .aborting) (hspent : q.retryLimit ≤ q.retries) :
    ∃ u, u = (s.delReq q.id).freeReq q ∧ s.reqTimeout q = (((({ u with xez := { u.xez with
      exhausted := satAdd 16 u.xez.exhausted 1 } } : State).raise 1471).raise (fnEvent q.fn 7)).failWork q.pch
        q.serial .remoteTimeout) := by
  refine ⟨_, rfl, ?_⟩
  unfold State.reqTimeout
  dsimp only
  rw [if_neg hst, if_neg (Nat.not_lt.2 hspent)]

end

/-- Settles O41: the grant in rotation, and one lemma for each way a request moves on. -/
theorem remoteRequestsRun : Obligations.RemoteRequestsRun := by
  intro s
  refine ⟨fun hxez hclk hcru hopt hplace hptr p w q hp hready hmin => ?_, fun p w => ⟨rfl, rfl, rfl, rfl, rfl⟩,
    fun p w q hpeer => ?_, fun port hon hopt => ⟨fun old r rest hq hold => exec_frameSent_response hon hopt hq hold,
      fun q hq hnext hab => exec_frameSent_request hon hopt hq hnext hab⟩,
    fun port frame bad hon => ⟨exec_response_discarded hon, fun hr hkind => ⟨exec_response_unknown hon hr hkind,
      fun e he => ⟨exec_response_late hon hr hkind he, fun q => exec_response_applied hon hr hkind he⟩⟩⟩,
    fun q h payload => applyResponse_cases s q h payload,
    fun q payload => ⟨landResponse_gone, fun w hw => ⟨landResponse_ended hw, landResponse_lands hw⟩⟩,
    fun q at_ hq hsent => exec_requestTimeout hq hsent, fun q hst => if_pos hst,
    fun q hst => ⟨reqTimeout_retries hst, reqTimeout_fails hst⟩⟩
  · exact xezanPlaceGrant_cases hxez hclk hcru hopt hplace hptr hp hready hmin
  · obtain ⟨hid, hx⟩ := formReq_xez s p w q
    refine ⟨_, rfl, hid, by rw [hx], ?_⟩
    rw [State.sendState, hx, hpeer]
    exact takeSeq_counter s q.peer p

end Sys2Proof.Machine
end

section
/-! PROOF. Remote requests as the responder meets them: what is discarded, held or answered SEQ_OLD (R253 to R255), the checks of
a window (R258) and a hold's end (R256). -/

namespace Sys2Proof.Machine

section
variable {s : State} {port e : Nat} {frame : List Byte} {bad : Bool}

/-! ### Requests that are received -/

theorem exec_request_discarded (hon : s.xezanOn port = true) (hr : s.receive frame bad ≠ .good) (space : Bool) :
    exec (.xezanRequestReceive port frame bad space) s = .next (s.discardFrame (s.receive frame bad)) := by
  show execXezanRequestReceive port frame bad space s = _
  unfold execXezanRequestReceive
  dsimp only
  rw [if_neg (by rw [hon]; decide), if_pos hr]

theorem exec_request_unknown (hon : s.xezanOn port = true) (hr : s.receive frame bad = .good)
    (hkind : (frameHdr frame).isRequest = true) (hpeer : s.peerOf (frameHdr frame).srcId = none) (space : Bool) :
    exec (.xezanRequestReceive port frame bad space) s = .next s.unknownPeer := by
  show execXezanRequestReceive port frame bad space s = _
  unfold execXezanRequestReceive
  dsimp only
  rw [if_neg (by rw [hon]; decide), if_neg (not_not_intro hr), if_neg (by rw [hkind]; decide), hpeer]

theorem exec_request_known (hon : s.xezanOn port = true) (hr : s.receive frame bad = .good)
    (hkind : (frameHdr frame).isRequest = true) (hpeer : s.peerOf (frameHdr frame).srcId = some e) (space : Bool) :
    exec (.xezanRequestReceive port frame bad space) s = .next (if space then
      s.acceptRequest port e (frameHdr frame) ((frame.drop 64).take (frameHdr frame).payloadLen) else s.noSpaceFor) := by
  show execXezanRequestReceive port frame bad space s = _
  unfold execXezanRequestReceive
  dsimp only
  rw [if_neg (by rw [hon]; decide), if_neg (not_not_intro hr), if_neg (by rw [hkind]; decide), hpeer]
  cases space <;> rfl

/-- How far the request lies ahead, once the initial state or SYNC has taken its number. -/
def State.aheadOf (s : State) (e : Nat) (h : FrameHdr) : Nat :=
  seqAhead ((s.syncRecv e h).recvState e h.chan).expected h.seq

/-- The requests of a peer that are held. -/
def State.heldCount (s : State) (e : Nat) : Nat := (s.xez.jobs.filter fun j => j.held && j.peer == e).length

section
variable {h : FrameHdr} {payload : List Byte}

theorem acceptRequest_old (hold : 2 ^ 31 ≤ s.aheadOf e h) : s.acceptRequest port e h payload
    = ({ s.syncRecv e h with xez := { (s.syncRecv e h).xez with
        seqOld := satAdd 16 (s.syncRecv e h).xez.seqOld 1 } } : State).queueResponse ((s.syncRecv e h).portTo e port)
          (h.reply 0x06 0) [] := by
  unfold State.aheadOf at hold
  exact if_pos hold

theorem acceptRequest_held (hnew : s.aheadOf e h < 2 ^ 31)
    (hroom : s.aheadOf e h = 0 ∨ (s.syncRecv e h).heldCount e < 64) : s.acceptRequest port e h payload
    = { s.syncRecv e h with
        nextId := (s.syncRecv e h).nextId + 1
        xez := { (s.syncRecv e h).xez with jobs := (s.syncRecv e h).xez.jobs ++ [{
          id := (s.syncRecv e h).nextId, port := port, peer := e, hdr := h, payload := payload
          heldAt := (s.syncRecv e h).now.refclk }] } } := by
  unfold State.aheadOf State.heldCount at *
  unfold State.acceptRequest
  dsimp only
  rw [if_neg (by omega), if_neg (by omega)]

theorem acceptRequest_full (hahead : 0 < s.aheadOf e h) (hnew : s.aheadOf e h < 2 ^ 31)
    (hfull : 64 ≤ (s.syncRecv e h).heldCount e) :
    s.acceptRequest port e h payload = (s.syncRecv e h).noSpaceFor := by
  unfold State.aheadOf State.heldCount at *
  unfold State.acceptRequest
  dsimp only
  rw [if_neg (Nat.not_le.2 hnew), if_pos ⟨hahead, hfull⟩]

theorem discardFrame_loaded (hopt : s.opt.bad = false) :
    s.discardFrame .link = ({ s with xez := { s.xez with link := satAdd 16 s.xez.link 1 } } : State).raise 1464
    ∧ s.discardFrame .format
      = ({ s with xez := { s.xez with format := satAdd 16 s.xez.format 1 } } : State).raise 1464 := by
  unfold State.discardFrame
  rw [hopt]
  exact ⟨rfl, rfl⟩

theorem syncRecv_expected (hsync : (s.recvState e h.chan).initial = true ∨ h.sync = true) :
    ((s.syncRecv e h).recvState e h.chan).expected = h.seq := by
  unfold State.syncRecv
  rw [if_pos (by rw [Bool.or_eq_true]; exact hsync)]
  show (look {} (put s.xez.recv (seqKey e h.chan) _) (seqKey e h.chan)).expected = _
  rw [look_put_same]

end

/-! ### A request's turn -/

section
variable {chan : Nat} {j : XJob}

theorem exec_requestTurn (hup : s.xezanUp = true)
    (hj : (s.heldOf e chan).find? (fun j => j.hdr.seq == (s.recvState e chan).expected) = some j) :
    exec (.xezanRequestTurn e chan) s = .next (s.serve j) := by
  show execXezanRequestTurn e chan s = _
  unfold execXezanRequestTurn
  rw [if_pos hup, hj]

theorem serve_refused (hbad : s.windowCheck j.hdr ≠ 0) (hfn : s.member.fnPresent j.hdr.fn = true)
    {t : State} (ht : t = (s.setRecv j.peer j.hdr.chan { expected := j.hdr.seq + 1, initial := false }).modJob j.id fun x =>
      { x with held := false, status := s.windowCheck j.hdr, sigEn := (s.windowOf j.hdr).sigEn
               sigId := (s.windowOf j.hdr).sigId }) :
    s.serve j = (({ t with xez := { t.xez with refused := satAdd 16 t.xez.refused 1 } } : State).raise 1470).raise
      (fnEvent j.hdr.fn 7) := by
  subst ht
  unfold State.serve
  dsimp only
  rw [if_neg hbad, if_pos hfn]

/-- The checks of a write, in the order of Table 9-2. -/
theorem windowCheck_write {h : FrameHdr} (hkind : h.kind = kindWriteReq) : s.windowCheck h
    = if s.member.functions ≤ h.fn ∨ (s.windowOf h).pages = 0 then 1
      else if (s.windowOf h).token ≠ h.token then 2
      else if (s.windowOf h).write = false then 3
      else if 4096 * (s.windowOf h).pages < h.offset + h.payloadLen then 4
      else 0 := by
  unfold State.windowCheck FrameHdr.len
  dsimp only
  rw [if_pos hkind, if_pos hkind]
  have hfirst : (!s.member.fnPresent h.fn || (s.windowOf h).pages == 0) = true
      ↔ s.member.functions ≤ h.fn ∨ (s.windowOf h).pages = 0 := by
    simp only [Member.fnPresent, Bool.or_eq_true, Bool.not_eq_true', decide_eq_false_iff_not, Nat.not_lt, beq_iff_eq]
  rw [if_congr hfirst rfl rfl, if_congr (iff_of_eq (Bool.not_eq_true' _)) rfl rfl]

theorem windowCheck_spec {h : FrameHdr} (hkind : h.kind = kindWriteReq) :
    (s.windowCheck h = 1 ↔ h.fn ≥ s.member.functions ∨ (s.windowOf h).pages = 0)
    ∧ (h.fn < s.member.functions → (s.windowOf h).pages ≠ 0 → (s.windowCheck h = 2 ↔ (s.windowOf h).token ≠ h.token)
      ∧ ((s.windowOf h).token = h.token → (s.windowCheck h = 3 ↔ (s.windowOf h).write = false)
        ∧ ((s.windowOf h).write = true →
          (s.windowCheck h = 4 ↔ 4096 * (s.windowOf h).pages < h.offset + h.payloadLen)
          ∧ (s.windowCheck h = 0 ↔ h.offset + h.payloadLen ≤ 4096 * (s.windowOf h).pages)))) := by
  rw [windowCheck_write hkind]
  refine ⟨?_, fun hfn hpages => ?_⟩
  · split
    · next hno => exact ⟨fun _ => hno, fun _ => rfl⟩
    · next hyes => exact ⟨fun h => absurd h (by split_ifs <;> decide), fun h => absurd h hyes⟩
  rw [if_neg (by omega)]
  refine ⟨?_, fun htok => ?_⟩
  · split
    · next hne => exact ⟨fun _ => hne, fun _ => rfl⟩
    · next heq => exact ⟨fun h => absurd h (by split_ifs <;> decide), fun h => absurd h heq⟩
  rw [if_neg (not_not_intro htok)]
  refine ⟨?_, fun hwr => ?_⟩
  · split
    · next hno => exact ⟨fun _ => hno, fun _ => rfl⟩
    · next hyes => exact ⟨fun h => absurd h (by split_ifs <;> decide), fun h => absurd h hyes⟩
  rw [if_neg (by rw [hwr]; decide)]
  split
  · next hout => exact ⟨⟨fun _ => hout, fun _ => rfl⟩, ⟨fun h => absurd h (by decide), fun h => absurd h (Nat.not_le.2 hout)⟩⟩
  · next hin => exact ⟨⟨fun h => absurd h (by decide), fun h => absurd h hin⟩, ⟨fun _ => Nat.not_lt.1 hin, fun _ => rfl⟩⟩

/-! ### A hold's end -/

theorem mem_insertJob (x : W32) (a b : XJob) (l : List XJob) : b ∈ insertJob x a l ↔ b = a ∨ b ∈ l := by
  induction l with
  | nil => exact List.mem_cons
  | cons y l ih =>
    rw [insertJob]
    split
    · exact List.mem_cons
    · rw [List.mem_cons, ih, List.mem_cons]
      exact or_left_comm

theorem mem_sortJobs (x : W32) (b : XJob) (l : List XJob) : b ∈ l.foldr (insertJob x) [] ↔ b ∈ l := by
  induction l with
  | nil => exact Iff.rfl
  | cons a l ih => rw [List.foldr_cons, mem_insertJob, ih, List.mem_cons]

/-- What is held up to the request that has waited longest is served. -/
theorem exec_holdTimeout (hup : s.xezanUp = true)
    (hj : (s.heldOf e chan).find? (fun j => j.hdr.seq != (s.recvState e chan).expected) = some j) :
    ∃ (t u : State) (l : List XJob), t = s.reachRefclk (j.heldAt + s.xez.hold)
      ∧ u = ({ t with xez := { t.xez with voids := satAdd 16 t.xez.voids 1 } } : State).raise 1467
      ∧ exec (.xezanHoldTimeout e chan) s = .next (l.foldl State.serve u)
      ∧ (∀ x, x ∈ l ↔ x ∈ s.heldOf e chan ∧ seqAhead (s.recvState e chan).expected x.hdr.seq
          ≤ seqAhead (s.recvState e chan).expected j.hdr.seq) := by
  refine ⟨_, _, ((s.heldOf e chan).filter fun x => decide (seqAhead (s.recvState e chan).expected x.hdr.seq
    ≤ seqAhead (s.recvState e chan).expected j.hdr.seq)).foldr (insertJob (s.recvState e chan).expected) [], rfl, rfl, ?_,
    fun x => ?_⟩
  · show execXezanHoldTimeout e chan s = _
    unfold execXezanHoldTimeout
    dsimp only
    rw [if_pos hup, hj]
  · rw [mem_sortJobs, List.mem_filter, decide_eq_true_iff]

end
end

end Sys2Proof.Machine
end

section
/-! PROOF. The response to a served request (R258, R214), and the statement about requests that are served. -/

namespace Sys2Proof.Machine

/-! ### What a fault leaves -/

theorem countFault_aside (s : State) (f : CruFault) : (s.countFault f).xez = s.xez ∧ (s.countFault f).safety = s.safety := by
  unfold State.countFault
  dsimp only
  split
  · exact ⟨((Aside.refl _).raise _).xez, ((Aside.refl _).raise _).safety⟩
  · split
    · split
      · exact ⟨((Aside.refl _).raise _).xez, ((Aside.refl _).raise _).safety⟩
      · exact ⟨rfl, rfl⟩
    · exact ⟨rfl, rfl⟩

theorem countEcc_aside (s : State) (l : List CruFault) : (s.countEcc l).xez = s.xez ∧ (s.countEcc l).safety = s.safety :=
  ⟨foldl_proj State.xez (fun u x => (countFault_aside u x).1) l s,
    foldl_proj State.safety (fun u x => (countFault_aside u x).2) l s⟩

theorem setCause_xez (s : State) (b : Nat) : (s.setCause b).xez = s.xez := by
  cases h : s.safety.asserted with
  | true => rw [setCause_of_asserted h]
  | false =>
    unfold State.setCause
    dsimp only
    rw [if_neg (by rw [h]; decide)]
    obtain ⟨g, hlog⟩ := log_aside (State.raiseUp _ 1416) 0x10 0xFF
      (leBytes 4 (s.safety.cause ||| BitVec.ofNat 16 (2 ^ b)).toNat)
    exact hlog.xez.trans (Aside.raiseUp (Aside.refl _) 1416).xez

section
variable {s : State} {port job : Nat} {j : XJob}

/-- The job is over. -/
def State.jobOver (s : State) (job : Nat) : State :=
  { s with xez := { s.xez with jobs := s.xez.jobs.filter fun x => x.id != job } }

/-- The state in which a response is formed: its faulty words are counted, and alarmed. -/
def State.answering (s : State) (j : XJob) (found : List CruFault) : State :=
  if j.status = 0 then (if eccUe found then (s.countEcc found).setCause 3 else s.countEcc found) else s

/-- The response with status `st` and its bytes, and the signal of a last write. -/
def State.respond (t : State) (port : Nat) (j : XJob) (st : BitVec 8) (l : List Byte) : State :=
  let u := t.queueResponse port (j.hdr.reply st l.length) l
  if st = 0 && j.hdr.kind == kindWriteReq && j.hdr.last && j.sigEn then u.raiseSignal j.hdr.fn j.sigId else u

theorem answerBytes_refused {st : BitVec 8} (hst : st ≠ 0) : j.answerBytes st = [] :=
  if_neg (by rw [decide_eq_false hst, Bool.false_and]; decide)

/-- The response is sent when no access of the job is on its way and its queue has room. -/
theorem exec_responseSend (hup : s.xezanUp = true)
    (hj : s.xez.jobs.find? (fun j => j.id == job && !j.held && s.portTo j.peer j.port == port) = some j)
    (hdone : ∀ t ∈ s.txns, t.purpose ≠ .xwrite job ∧ ∀ o n, t.purpose ≠ .xread job o n) {found : List CruFault}
    {st : BitVec 8} {l : List Byte} (hst : j.answer found = st) (hl : j.answerBytes st = l)
    (hroom : s.txRoom port (1 + (l.length + 63) / 64) = true) :
    exec (.xezanResponseSend port job found) s = .next (((s.answering j found).jobOver job).respond port j st l) := by
  subst hst hl
  show execXezanResponseSend port job found s = _
  unfold execXezanResponseSend
  rw [if_pos hup, hj]
  dsimp only
  rw [if_neg ?hidle]
  case hidle =>
    rw [Bool.or_eq_true, not_or, List.any_eq_true, hroom]
    refine ⟨?_, by decide⟩
    rintro ⟨t, ht, hmine⟩
    obtain ⟨hwrite, hread⟩ := hdone t ht
    split at hmine
    · next k hk => exact hwrite (hk.trans (congrArg Purpose.xwrite (beq_iff_eq.1 hmine)))
    · next k o n hk => exact hread o n (hk.trans (congrArg (Purpose.xread · o n) (beq_iff_eq.1 hmine)))
    · exact absurd hmine (by decide)
  have hstate : (if (decide (j.status = 0) && eccUe found) = true then
      (if j.status = 0 then s.countEcc found else s).setCause 3 else if j.status = 0 then s.countEcc found else s)
      = s.answering j found := by
    unfold State.answering
    by_cases h : j.status = 0
    · rw [if_pos h, if_pos h, decide_eq_true h, Bool.true_and]
    · rw [if_neg h, if_neg h, decide_eq_false h]
      rfl
  rw [hstate]
  rfl

/-- The response of a refused request is its status. -/
theorem responseSend_refused (hup : s.xezanUp = true)
    (hj : s.xez.jobs.find? (fun j => j.id == job && !j.held && s.portTo j.peer j.port == port) = some j)
    (hdone : ∀ t ∈ s.txns, t.purpose ≠ .xwrite job ∧ ∀ o n, t.purpose ≠ .xread job o n) (hst : j.status ≠ 0)
    (hroom : s.txRoom port 1 = true) (found : List CruFault) :
    exec (.xezanResponseSend port job found) s = .next ((s.jobOver job).queueResponse port (j.hdr.reply j.status 0) []) := by
  rw [exec_responseSend hup hj hdone (if_pos hst) (answerBytes_refused hst) hroom, State.answering, if_neg hst,
    State.respond]
  rw [decide_eq_false hst]
  rfl

/-- The response of a request with a failed access. -/
theorem responseSend_failed (hup : s.xezanUp = true)
    (hj : s.xez.jobs.find? (fun j => j.id == job && !j.held && s.portTo j.peer j.port == port) = some j)
    (hdone : ∀ t ∈ s.txns, t.purpose ≠ .xwrite job ∧ ∀ o n, t.purpose ≠ .xread job o n) (hst : j.status = 0)
    (hfail : j.failed = true) (hroom : s.txRoom port 1 = true) :
    exec (.xezanResponseSend port job []) s = .next ((s.jobOver job).queueResponse port (j.hdr.reply 5 0) []) := by
  have hanswer : j.answer [] = 5 := by
    unfold XJob.answer
    rw [if_neg (not_not_intro hst), if_neg (by decide), if_pos hfail]
  rw [exec_responseSend hup hj hdone hanswer (answerBytes_refused (by decide)) hroom, State.answering, if_pos hst]
  rfl

/-- The status of a request without fault. -/
theorem answer_ok (hst : j.status = 0) (hfail : j.failed = false) : j.answer [] = 0 := by
  unfold XJob.answer
  rw [if_neg (not_not_intro hst), if_neg (by decide), hfail]
  rfl

theorem responseSend_read (hup : s.xezanUp = true)
    (hj : s.xez.jobs.find? (fun j => j.id == job && !j.held && s.portTo j.peer j.port == port) = some j)
    (hdone : ∀ t ∈ s.txns, t.purpose ≠ .xwrite job ∧ ∀ o n, t.purpose ≠ .xread job o n) (hst : j.status = 0)
    (hfail : j.failed = false) (hkind : j.hdr.kind = kindReadReq)
    (hroom : s.txRoom port (1 + ((gather j.data).length + 63) / 64) = true) :
    exec (.xezanResponseSend port job []) s = .next ((s.jobOver job).queueResponse port
      (j.hdr.reply 0 (gather j.data).length) (gather j.data)) := by
  have hbytes : j.answerBytes 0 = gather j.data := if_pos (by rw [hkind]; decide)
  rw [exec_responseSend hup hj hdone (answer_ok hst hfail) hbytes hroom, State.answering, if_pos hst, State.respond]
  rw [hkind]
  rfl

theorem responseSend_write (hup : s.xezanUp = true)
    (hj : s.xez.jobs.find? (fun j => j.id == job && !j.held && s.portTo j.peer j.port == port) = some j)
    (hdone : ∀ t ∈ s.txns, t.purpose ≠ .xwrite job ∧ ∀ o n, t.purpose ≠ .xread job o n) (hst : j.status = 0)
    (hfail : j.failed = false) (hkind : j.hdr.kind = kindWriteReq) (hroom : s.txRoom port 1 = true) :
    exec (.xezanResponseSend port job []) s = .next (if (j.hdr.last && j.sigEn) = true
      then ((s.jobOver job).queueResponse port (j.hdr.reply 0 0) []).raiseSignal j.hdr.fn j.sigId
      else (s.jobOver job).queueResponse port (j.hdr.reply 0 0) []) := by
  have hbytes : j.answerBytes 0 = [] := if_neg (by rw [hkind]; decide)
  rw [exec_responseSend hup hj hdone (answer_ok hst hfail) hbytes hroom, State.answering, if_pos hst, State.respond]
  rw [hkind]
  rfl

/-- An uncorrectable word of the response answers 7 and sets ECC_CRU. -/
theorem responseSend_uncorrectable (hup : s.xezanUp = true)
    (hj : s.xez.jobs.find? (fun j => j.id == job && !j.held && s.portTo j.peer j.port == port) = some j)
    (hdone : ∀ t ∈ s.txns, t.purpose ≠ .xwrite job ∧ ∀ o n, t.purpose ≠ .xread job o n) (hst : j.status = 0)
    (hroom : s.txRoom port 1 = true) {found : List CruFault} (hue : eccUe found = true) :
    ∃ u, exec (.xezanResponseSend port job found) s = .next u
      ∧ u.xez.respq = s.xez.respq ++ [(port, frameBytes (j.hdr.reply 7 0) [])]
      ∧ u.safety.cause = s.safety.cause ||| 8#16 := by
  have hanswer : j.answer found = 7 := by
    unfold XJob.answer
    rw [if_neg (not_not_intro hst), if_pos hue]
  obtain ⟨hxez, hsafety⟩ := countEcc_aside s found
  refine ⟨_, exec_responseSend hup hj hdone hanswer (answerBytes_refused (by decide)) hroom, ?_, ?_⟩
  · rw [State.answering, if_pos hst, if_pos hue]
    show (State.xez (State.setCause _ 3)).respq ++ _ = _
    rw [setCause_xez, hxez]
    rfl
  · rw [State.answering, if_pos hst, if_pos hue]
    show (State.setCause _ 3).safety.cause = _
    rw [setCause_cause, hsafety]
    rfl

end

/-- Settles O42: one lemma for each way a request moves on, in the order of its reception, its turn and its response. -/
theorem remoteRequestsAreServed : Obligations.RemoteRequestsAreServed := by
  intro s
  refine ⟨fun port frame bad space hon => ⟨fun hr => exec_request_discarded hon hr space,
      fun hr hkind => ⟨fun hpeer => exec_request_unknown hon hr hkind hpeer space, fun e hpeer => ?_⟩⟩,
    discardFrame_loaded, fun peer h => syncRecv_expected, fun peer port => rfl,
    fun peer chan j hup hj => exec_requestTurn hup hj, fun j => ⟨fun hok => if_pos hok,
      fun hbad hfn => serve_refused hbad hfn rfl⟩,
    fun h hkind => windowCheck_spec hkind, fun peer chan j hup hj => exec_holdTimeout hup hj,
    fun port job j hup hj hdone => ⟨responseSend_refused hup hj hdone, responseSend_failed hup hj hdone,
      responseSend_read hup hj hdone, responseSend_write hup hj hdone,
      fun hst hroom found hue => responseSend_uncorrectable hup hj hdone hst hroom hue⟩⟩
  have hknown := exec_request_known hon hr hkind hpeer
  refine ⟨hknown false, fun hold => ?_, fun hnew hroom => ?_, fun hahead hnew hfull => ?_⟩
  · rw [hknown true]
    exact congrArg Host.Outcome.next (acceptRequest_old hold)
  · rw [hknown true]
    exact congrArg Host.Outcome.next (acceptRequest_held hnew hroom)
  · rw [hknown true]
    exact congrArg Host.Outcome.next (acceptRequest_full hahead hnew hfull)

end Sys2Proof.Machine
end
